-- ==== Sys2Proof/Word.lean ====
section
/-! DEFINITION. The word types of the EVQ8200 and their plainest arithmetic: a byte, a 32-bit register word,
a 24-bit lane, a 72-bit native word, bit slices, lanes, and the two roundings of the data path. -/

namespace Sys2Proof

/-- A byte of a frame, an image or an option zone. -/
abbrev Byte := BitVec 8

/-- A 32-bit register word of the control space (R4). -/
abbrev Word := BitVec 32

/-- A 24-bit lane of a native word. -/
abbrev Lane := BitVec 24

/-- A 72-bit native word: lanes L0 [23:0], L1 [47:24], L2 [71:48]. -/
abbrev W72 := BitVec 72

/-- `bits x lo len` is bits `[lo + len - 1 : lo]` of `x`. -/
def bits (x lo len : Nat) : Nat := x / 2 ^ lo % 2 ^ len

/-- Bit `i` of `x`. -/
def bit (x i : Nat) : Bool := bits x i 1 == 1

/-- A Boolean as the value of a one-bit field. -/
def b2n (b : Bool) : Nat := if b then 1 else 0

/-- `x` as a signed two's-complement number of `w` bits. -/
def signedOf (w x : Nat) : Int :=
  if 2 ^ (w - 1) ≤ x % 2 ^ w then (x % 2 ^ w : Nat) - (2 ^ w : Nat) else ((x % 2 ^ w : Nat) : Int)

/-- The two's-complement field of `w` bits that holds `x` modulo `2 ^ w`. -/
def fieldOf (w : Nat) (x : Int) : Nat := (x % (2 ^ w : Nat)).toNat

/-- Convergent rounding of `n / d` (round half to even), `d` positive. -/
def roundEven (n : Int) (d : Nat) : Int :=
  let q := n / (d : Int)
  let r := (n % (d : Int)) * 2
  if r > d then q + 1 else if r == d && q % 2 == 1 then q + 1 else q

/-- Ceiling division of naturals, `d` positive. -/
def ceilDiv (n d : Nat) : Nat := (n + d - 1) / d

/-- `x` limited to `lo … hi`. -/
def clampInt (lo hi x : Int) : Int := if x < lo then lo else if hi < x then hi else x

/-- `x` limited to `lo … hi`. -/
def clampNat (lo hi x : Nat) : Nat := if x < lo then lo else if hi < x then hi else x

/-- A native word from its three lanes, L0 first. -/
def ofLanes (l0 l1 l2 : Lane) : W72 := BitVec.ofNat 72 (l0.toNat + l1.toNat * 2 ^ 24 + l2.toNat * 2 ^ 48)

/-- Little-endian number of a list of bytes. -/
def leNat : List Byte → Nat
  | [] => 0
  | b :: r => b.toNat + 256 * leNat r

/-- Big-endian number of a list of bytes. -/
def beNat (l : List Byte) : Nat := leNat l.reverse

/-- The `n` little-endian bytes of `x`. -/
def leBytes : Nat → Nat → List Byte
  | 0, _ => []
  | n + 1, x => BitVec.ofNat 8 x :: leBytes n (x / 256)

/-- The `n` big-endian bytes of `x`. -/
def beBytes (n x : Nat) : List Byte := (leBytes n x).reverse

end Sys2Proof
end

