-- ==== Sys2Proof/Syntax.lean ====
section
/-! DEFINITION. The commands of the EVQ8200: one constructor of `Instr` for each row of the spec's table of steps
(R4 to R648; what each step holds is listed in the spec's file 95). The table gives no operands: a constructor's
arguments are what its rule leaves to the outside at that step: who asks, the time, the data on a wire or a bus, a
measured value. Everything else a step needs is in the state. Every constructor begins with the time of the step, that of POR_ASSERT in its operand. -/

namespace Sys2Proof

/-- Who makes an access of the control space (R570): the host over PCIe, or a management core. -/
inductive Requester where
  | host
  | fw
  deriving DecidableEq, Repr, Inhabited

/-- A supply that POR watches (R514, R621): VDD_CORE, VDD_SRAM, a rail of VDD_SERDES, or the VDDIO of a bank. -/
inductive Supply where
  | core
  | sram
  | serdes
  | vddio (bank : Nat)
  deriving DecidableEq, Repr, Inhabited

/-- When a step happens: `cc` is the cell-clock cycle of the current stroke (R2), `ticks` the ticks of the tick clock
(R390) that have passed since the step before it. -/
structure When where
  cc : Nat
  ticks : Nat
  deriving DecidableEq, Repr, Inhabited

/-- When a supply has lain at a level, in mV, or for VDD_SERDES in 1/1000 of its nominal value, and for how many ns (R514, R621). -/
structure SupplyDip where
  time : When
  supply : Supply
  level : Nat
  ns : Nat
  deriving DecidableEq, Repr, Inhabited

/-- A TAI timestamp: seconds, ns and 1/65,536 ns. -/
structure Stamp where
  sec : BitVec 48
  ns : BitVec 32
  sub : BitVec 16
  deriving DecidableEq, Repr, Inhabited

/-- A word with its four tags (R90, R96). -/
structure TWord where
  data : W72
  first : Bool
  last : Bool
  mark : Bool
  poison : Bool
  deriving DecidableEq, Repr, Inhabited

/-- What the instructions of a management core do between two of its accesses: it changes its privilege mode, writes a protection entry (R18), or, core 0, uses its
console: sets the rate, sends characters, finds characters typed, takes the oldest of them (R472), or, in recovery mode, is given the bytes of a
firmware slot to write to the flash (R532). -/
inductive CoreAct where
  | mode (user : Bool)
  | pmp (i : Nat) (cfg : BitVec 8) (addr : BitVec 54)
  | baud (n : Nat)
  | print (l : List Byte)
  | typed (l : List Byte)
  | take
  | flash (l : List Byte)
  deriving DecidableEq, Repr, Inhabited

/-- A block that can be reset alone through its isolation wrapper (R538). -/
inductive Blk where
  | cell (n : Nat)
  | tdm (n : Nat)
  | madi (m : Nat)
  | pkt
  | cis
  | cnv
  | tone
  | cmp
  | eth (p : Nat)
  | bsd
  deriving DecidableEq, Repr, Inhabited

/-- What R520 holds while its clock is not valid, as RST_HELD names it (R547): a block, a DDR channel, PCIe or the tick PLL. -/
inductive HoldUnit where
  | blk (b : Blk)
  | ddr (b : Bool)
  | pcie
  | tick
  deriving DecidableEq, Repr, Inhabited

/-- An operand input of the compute array in one cycle (R227): four words that the kernel holds, or the local addresses of four words that it reads. Lane m
takes lane L(m mod 3) of word m div 3. -/
inductive OpIn where
  | words (l : List TWord)
  | mem (l : List Nat)
  deriving DecidableEq, Repr, Inhabited

/-- What an accumulator load takes: a lane, or the product of two lanes (R230). -/
inductive LoadSrc where
  | lane (x : OpIn)
  | prod (x y : OpIn)
  deriving DecidableEq, Repr, Inhabited

/-- The modes of an address generator (R242). -/
inductive AgMode where
  | linear
  | circular
  | bitrev
  deriving DecidableEq, Repr, Inhabited

/-- What a kernel writes to an address generator before it uses it (R242): BASE, OFF, STEP and MODE. -/
structure AgSet where
  base : BitVec 15
  off : BitVec 15
  step : BitVec 16
  mode : AgMode
  deriving DecidableEq, Repr, Inhabited

/-- The four modes of the min/max search (R239). -/
inductive SearchMode where
  | max
  | min
  | maxAbs
  | minAbs
  deriving DecidableEq, Repr, Inhabited

/-- Where a transfer reaches (R247). -/
inductive XferSpace where
  | reservoir
  | ddr
  deriving DecidableEq, Repr, Inhabited

/-- Which Verraolo kernel a task runs: the function identities of R249 are given with the packs, not in this
manual. -/
inductive KernelWork where
  | plain
  | ec
  | dec
  | enc
  | conf
  | matrix
  deriving DecidableEq, Repr, Inhabited

/-- Errors that have come about during the stroke that ends. In stored words, beside those that reads and scrubs bring to light themselves: single-bit (`Ce`) and
uncorrectable (`Ue`), in the reservoir (R90), in local memories as cell and address (R246), in the coefficient memory (R206) and in the DDR (R460). On the links:
uncorrected FEC code words by Ethernet port (R475), and correctable errors of the PCIe link (R478). -/
structure Upsets where
  resCe : List Nat := []
  resUe : List Nat := []
  lmCe : List (Nat × Nat) := []
  lmUe : List (Nat × Nat) := []
  coefCe : List Nat := []
  coefUe : List Nat := []
  ddrCe : List Nat := []
  ddrUe : List Nat := []
  fecUe : List (Nat × Nat) := []
  aerCe : Nat := 0
  deriving DecidableEq, Repr, Inhabited

/-- What the origin's boundary finds outside the chip: the XRES voltage in 1/10 mV and the hottest sensor in 1/16 °C
(R556), for each BSD clock whether the stroke that ends had its exact bit count (R453), and the memory errors of that stroke. -/
structure BoundaryIn where
  xres : Nat
  hot : Int
  bsdExact : BitVec 4
  upsets : Upsets := {}
  deriving DecidableEq, Repr, Inhabited

/-- An Ethernet port, and whether a frame is in reception there (R435). -/
structure EthPort where
  port : Nat
  inReception : Bool
  deriving DecidableEq, Repr, Inhabited

/-- What a host writes in the PCIe device and link control beside MSI-X: bus mastering, the largest payload and read request in bytes, and ASPM L1 (R463, R605). -/
structure PcieCtl where
  busMaster : Bool
  mps : Nat
  mrrs : Nat
  aspmL1 : Bool
  deriving DecidableEq, Repr, Inhabited

/-- A frame as a MAC receives it, without its FCS (R434), and how long ago, in units of 250 ps, its timestamp point was (R400). -/
structure EthFrame where
  bytes : List Byte
  fcsOk : Bool
  codeError : Bool
  age : Nat
  deriving DecidableEq, Repr, Inhabited

/-- The direct inputs of a conversion pass: for each BSD input its line at the rising and at the falling edge of every clock period of the stroke (R452), and the coefficients in whose reading an error stands (R206). -/
structure CnvIn where
  bsd : List (Nat × List (Bool × Bool))
  coefUe : List Nat := []
  coefCe : List Nat := []
  deriving DecidableEq, Repr, Inhabited

/-- What the start sequence of R528 finds outside the state: the VDDIO banks that are powered (R621, R627), uncorrectable OTP zones and corrected errors (R525), whether
the key store fails its ECC check (R585), the units whose clock is not valid (R520), and the bytes of the two firmware slots in flash (R529). -/
structure BootIn where
  banks : BitVec 4 := 15
  zoneUe : BitVec 8
  otpCe : Nat
  slotA : List Byte
  slotB : List Byte
  keyUe : Bool := false
  noClk : List HoldUnit := []
  deriving DecidableEq, Repr, Inhabited

/-- One channel of a received MADI frame: the sample, V, parity correct, channel active, and its C bit (R451). -/
structure MadiChan where
  x : Lane
  v : Bool
  parityOk : Bool
  active : Bool
  c : Bool
  deriving DecidableEq, Repr, Inhabited

/-- The commands. The docstring of each names its row's rule. -/
inductive Instr where
  /-- R5 -/
  | registerWrite (w : When) (req : Requester) (addr : Nat) (val : Word)
  /-- R5 -/
  | rcRead (w : When) (req : Requester) (addr : Nat)
  /-- R465: one DW of a TLP that is not a whole aligned 32-bit access. -/
  | badAccess (w : When) (write : Bool) (addr : Nat)
  /-- R615: `data` empty is a load of `size` bytes, else a store of these bytes; `acts` is what the core did since its access before. -/
  | coreAccess (w : When) (core : Nat) (acts : List CoreAct) (addr : Nat) (size : Nat) (data : List Byte)
  /-- R43 -/
  | strokeBoundary (w : When) (env : BoundaryIn)
  /-- R46 -/
  | stkEn (w : When) (req : Requester)
  /-- R46 -/
  | originStart (w : When)
  /-- R52 -/
  | reorigin (w : When) (req : Requester)
  /-- R53 -/
  | stkNumLoRead (w : When) (req : Requester)
  /-- R63 -/
  | stage (w : When) (task : Nat)
  /-- R66 -/
  | runAdmit (w : When) (cell : Nat)
  /-- R62 -/
  | firstDrawClose (w : When) (cell : Nat)
  /-- R63 -/
  | fdLatestExpiry (w : When) (task : Nat)
  /-- R69 -/
  | budgetExhausted (w : When) (cell : Nat)
  /-- R259 -/
  | kernelReturn (w : When) (cell : Nat) (work : KernelWork)
  /-- R261: with which kernel runs, and how many of its channels it has processed (R308, R333). -/
  | checkpoint (w : When) (cell : Nat) (work : KernelWork) (done : Nat)
  /-- R262, with the same. -/
  | cpForced (w : When) (cell : Nat) (work : KernelWork) (done : Nat)
  /-- R60 -/
  | completion (w : When) (task : Nat)
  /-- R85 -/
  | taskRead (w : When) (req : Requester)
  /-- R71 -/
  | cancel (w : When) (req : Requester)
  /-- R72 -/
  | disable (w : When) (req : Requester)
  /-- R72 -/
  | enable (w : When) (req : Requester)
  /-- R85 -/
  | clearCounters (w : When) (req : Requester)
  /-- R264 -/
  | clearState (w : When) (req : Requester)
  /-- R99: the words of an item as its producer sent them; `withPop` says a pop of the queue falls in the same cycle. -/
  | push (w : When) (q : Nat) (words : List TWord) (withPop : Bool)
  /-- R100: `framer` says the consumer is a port framer or PKT egress (R98). -/
  | pop (w : When) (q : Nat) (framer : Bool)
  /-- R92 -/
  | descPtrRead (w : When) (req : Requester) (q : Nat)
  /-- R123 -/
  | queueRead (w : When) (req : Requester) (q : Nat)
  /-- R105 -/
  | queueFlush (w : When) (req : Requester) (q : Nat)
  /-- R105 -/
  | flushApply (w : When) (q : Nat)
  /-- R107 -/
  | queueResize (w : When) (req : Requester) (q : Nat)
  /-- R111: the flits waiting at one output of a router, each by its input (0 to 4) and class (0 is L). -/
  | flitGrant (w : When) (node out : Nat) (waiting : List (Nat × Nat))
  /-- R110 -/
  | linkCreditReturn (w : When) (node dir cls : Nat)
  /-- R117 -/
  | censusComplete (w : When)
  /-- R118 -/
  | creditResync (w : When) (node dir cls : Nat)
  /-- R121: `flits` are the block's flits found in its router's input buffers: the link's channel (R114), by 16 × node + 4 × direction + class, and
  their number; those that came from the node itself are listed under a number that is no link's. `reqs` counts the requests outstanding at the wrapper (R35). -/
  | isolation (w : When) (blk : Blk) (flits : List (Nat × Nat)) (reqs : Nat)
  /-- R121 -/
  | isoReturnDone (w : When) (blk : Blk)
  /-- R434 -/
  | ethFrameRx (w : When) (port : Nat) (frame : EthFrame)
  /-- R129 -/
  | pktIngress (w : When) (port : Nat)
  /-- R160 -/
  | cisGoneTimeout (w : When) (c : Nat)
  /-- R156 -/
  | legTimeout (w : When) (c : Nat) (legB : Bool)
  /-- R176 -/
  | fsRead (w : When) (req : Requester)
  /-- R138 -/
  | fsInsert (w : When) (req : Requester)
  /-- R138 -/
  | fsDelete (w : When) (req : Requester)
  /-- R138 -/
  | fsReplace (w : When) (req : Requester)
  /-- R176 -/
  | fsLookup (w : When) (req : Requester)
  /-- R176 -/
  | fsReadLaddr (w : When) (req : Requester)
  /-- R144 -/
  | scSet (w : When) (req : Requester)
  /-- R177 -/
  | scRead (w : When) (req : Requester)
  /-- R177 -/
  | scZero (w : When) (req : Requester)
  /-- R177 -/
  | egRead (w : When) (req : Requester)
  /-- R177 -/
  | egStats (w : When) (req : Requester)
  /-- R437: what is sent has its timestamp point `sub` units of 250 ps after the tick (R400). -/
  | packetLaunch (w : When) (port : Nat) (sub : Nat)
  /-- R161 -/
  | cisRead (w : When) (req : Requester)
  /-- R166 -/
  | cisStats (w : When) (req : Requester)
  /-- R161 -/
  | cisFlush (w : When) (req : Requester)
  /-- R162 -/
  | cisResize (w : When) (req : Requester)
  /-- R163 -/
  | setDelay (w : When) (req : Requester)
  /-- R161 -/
  | cisStart (w : When) (req : Requester)
  /-- R161 -/
  | cisStop (w : When) (req : Requester)
  /-- R161 -/
  | setPt (w : When) (req : Requester)
  /-- R161 -/
  | setOffset (w : When) (req : Requester)
  /-- R161 -/
  | setRef (w : When) (req : Requester)
  /-- R183 -/
  | cnvPass (w : When) (inp : CnvIn)
  /-- R184: the chain, or the lane group of an output queue, that is abandoned. -/
  | cnvOverrun (w : When) (lanes : Bool) (idx : Nat)
  /-- R223 -/
  | laneRead (w : When) (req : Requester)
  /-- R223 -/
  | chainRead (w : When) (req : Requester)
  /-- R223 -/
  | setRead (w : When) (req : Requester)
  /-- R218 -/
  | laneEnable (w : When) (req : Requester)
  /-- R218 -/
  | laneDisable (w : When) (req : Requester)
  /-- R215 -/
  | laneDelay (w : When) (req : Requester)
  /-- R217 -/
  | laneRatio (w : When) (req : Requester)
  /-- R202 -/
  | swap (w : When) (req : Requester)
  /-- R196 -/
  | sync (w : When) (req : Requester)
  /-- R224 -/
  | laneCounters (w : When) (req : Requester)
  /-- R205 -/
  | coefWrite (w : When) (req : Requester) (val : Word)
  /-- R230; with `flag` the kernel clears the flag ACC_OVF[m] in place of an accumulator (R231). -/
  | accClear (w : When) (cell m a : Nat) (flag : Bool)
  /-- R230 -/
  | accLoad (w : When) (cell m a : Nat) (src : LoadSrc) (k : Nat)
  /-- R230 -/
  | accAddProduct (w : When) (cell m a : Nat) (x y : OpIn) (sub : Bool)
  /-- R230 -/
  | accAddShifted (w : When) (cell m a : Nat) (x : OpIn) (k : Nat) (sub : Bool)
  /-- R230: the sum over the lanes of `mask` of accumulator `a` goes to lane `m`. -/
  | crossLaneSum (w : When) (cell m a : Nat) (mask : BitVec 12)
  /-- R234: accumulator `a` of lane `m`, shift `sh`, to lane `lane` of local word `addr`. -/
  | reduction (w : When) (cell m a sh addr lane : Nat)
  /-- R238 -/
  | blockExponent (w : When) (cell addr n : Nat) (mask : BitVec 3)
  /-- R239, R240: zones are centre and half-width. -/
  | minMaxSearch (w : When) (cell : Nat) (mode : SearchMode) (addr n : Nat) (mask : BitVec 3) (zones : List (Nat × Nat))
  /-- R242: a read, or a write of the word given, through a generator that the kernel may set up for it. -/
  | agAccess (w : When) (cell k : Nat) (setup : Option AgSet) (data : Option TWord)
  /-- R243: the new LEN, and the access of that generator that falls in the same cycle, if one does. -/
  | agLenWrite (w : When) (cell k len : Nat) (access : Option (Option TWord))
  /-- R247: `toLocal` says the words move into local memory. -/
  | transfer (w : When) (cell : Nat) (toLocal : Bool) (space : XferSpace) (loc ext len : Nat)
  /-- R267 -/
  | cellBrstSet (w : When) (req : Requester) (n : Nat)
  /-- R267 -/
  | cellBrstRelease (w : When) (req : Requester) (n : Nat)
  /-- R520 -/
  | blockRelease (w : When) (u : HoldUnit)
  /-- R520 -/
  | blockHeld (w : When) (u : HoldUnit)
  /-- R269 -/
  | wakeDone (w : When) (n : Nat)
  /-- R285: words 2 and 3 of the control item as far as its PLEN reaches; `poison` says that a word of the item is tagged POISON (R308). -/
  | ecOpen (w : When) (task ch : Nat) (poison : Bool) (params : List W72)
  /-- R285 -/
  | ecClose (w : When) (task ch : Nat) (poison : Bool)
  /-- R285 -/
  | ecSet (w : When) (task ch : Nat) (poison : Bool) (params : List W72)
  /-- R285 -/
  | ecReset (w : When) (task ch : Nat) (poison : Bool)
  /-- R285 -/
  | ecFreeze (w : When) (task ch : Nat) (poison : Bool)
  /-- R285 -/
  | ecThaw (w : When) (task ch : Nat) (poison : Bool)
  /-- R285 -/
  | bypassOn (w : When) (task ch : Nat) (poison : Bool)
  /-- R285 -/
  | bypassOff (w : When) (task ch : Nat) (poison : Bool)
  /-- R322 -/
  | codecOpen (w : When) (task ch : Nat) (poison : Bool) (params : List W72)
  /-- R322 -/
  | codecClose (w : When) (task ch : Nat) (poison : Bool)
  /-- R322 -/
  | codecSet (w : When) (task ch : Nat) (poison : Bool) (params : List W72)
  /-- R322 -/
  | codecReset (w : When) (task ch : Nat) (poison : Bool)
  /-- R322: `ch` is the CH field of the item, which must be zero. -/
  | legAdd (w : When) (task leg ch : Nat) (poison : Bool) (params : List W72)
  /-- R322 -/
  | legDel (w : When) (task leg ch : Nat) (poison : Bool)
  /-- R322 -/
  | legSet (w : When) (task leg ch : Nat) (poison : Bool) (params : List W72)
  /-- R350 -/
  | confSet (w : When) (task ch : Nat) (poison : Bool) (params : List W72)
  /-- R354 -/
  | matrixGain (w : When) (task ch : Nat) (poison : Bool) (params : List W72)
  /-- R337: with what the detectors find where the stroke has evaluations (R340). -/
  | tonePass (w : When)
  /-- R337: the input group (detectors) or output group (generators) of a queue that is abandoned. -/
  | toneOverrun (w : When) (gen : Bool) (q : Nat)
  /-- R357 -/
  | detRead (w : When) (req : Requester)
  /-- R357 -/
  | genRead (w : When) (req : Requester)
  /-- R357 -/
  | detEnable (w : When) (req : Requester)
  /-- R356 -/
  | detDisable (w : When) (req : Requester)
  /-- R349 -/
  | genStart (w : When) (req : Requester)
  /-- R349 -/
  | genStop (w : When) (req : Requester)
  /-- R358 -/
  | toneSlotCounters (w : When) (req : Requester)
  /-- R372: `faulty` names the encode streams whose formed block is found different at the check of R376, twice where the RAW block that replaces it is found so
  too. -/
  | cmpPass (w : When) (faulty : List Nat)
  /-- R380 -/
  | cmpOverrun (w : When) (stream : Nat)
  /-- R387 -/
  | cmpRead (w : When) (req : Requester)
  /-- R381 -/
  | cmpEnable (w : When) (req : Requester)
  /-- R381 -/
  | cmpDisable (w : When) (req : Requester)
  /-- R388 -/
  | cmpStreamCounters (w : When) (req : Requester)
  /-- R382 -/
  | jobStart (w : When) (req : Requester)
  /-- R385 -/
  | jobAbort (w : When) (req : Requester)
  /-- R385: `faulty` names the blocks of an encode job, by number, found different at a check of R376, twice where the RAW block is found so too. -/
  | cmpJobDone (w : When) (faulty : List Nat)
  /-- R395: with what a calibration window that is open finds at its check (R556). -/
  | adjustmentPoint (w : When) (env : BoundaryIn)
  /-- R396 -/
  | timeSet (w : When) (req : Requester)
  /-- R396 -/
  | timeStep (w : When) (req : Requester)
  /-- R396 -/
  | timeFreq (w : When) (req : Requester)
  /-- R396 -/
  | timeAdj (w : When) (req : Requester)
  /-- R397 -/
  | timeMode (w : When) (req : Requester)
  /-- R407 -/
  | arm (w : When) (req : Requester)
  /-- R427 -/
  | disarm (w : When) (req : Requester)
  /-- R428 -/
  | trigRead (w : When) (req : Requester)
  /-- R418 -/
  | dcoMode (w : When) (req : Requester)
  /-- R423 -/
  | saMeas (w : When) (req : Requester)
  /-- R425 -/
  | saReset (w : When) (req : Requester)
  /-- R407 -/
  | triggerFire (w : When) (unit : Nat)
  /-- R409 -/
  | pinPulseEnd (w : When) (unit : Nat)
  /-- R398 -/
  | timeNowRead (w : When) (req : Requester)
  /-- R430 -/
  | timeRawRead (w : When) (req : Requester)
  /-- R430 -/
  | ppsTsRead (w : When) (req : Requester)
  /-- R430 -/
  | dcoFreqCommit (w : When) (req : Requester) (val : Word)
  /-- R405 -/
  | tsqPop (w : When) (req : Requester) (port : Nat)
  /-- R412: the edge, the length in ns of the pulse it begins, and how many times 250 ps after the tick it comes. -/
  | captureEdge (w : When) (unit : Nat) (rising : Bool) (pulseNs : Nat) (sub : Nat)
  /-- R412 -/
  | capPop (w : When) (req : Requester)
  /-- R413: TDC stream 0 to 3, how many times 62.5 ps after the tick the edge comes, and the pulse width in ns. -/
  | refEdge (w : When) (input : Nat) (sub : Nat) (widthNs : Nat)
  /-- R416 -/
  | refQual (w : When) (input : Nat)
  /-- R416 -/
  | refLost (w : When) (input : Nat)
  /-- R417 -/
  | dcoLocked (w : When)
  /-- R391 -/
  | xoFail (w : When)
  /-- R391 -/
  | tickPllLock (w : When)
  /-- R435 -/
  | ethLinkUp (w : When) (port : Nat)
  /-- R435: whether a frame was in reception, and the TS_ID of a control frame whose transmission is cut off. -/
  | ethLinkDown (w : When) (port : Nat) (inReception : Bool)
  /-- R435, R475 -/
  | anRestart (w : When) (req : Requester) (port : EthPort)
  /-- R444: the values of the group's slots in the frames of the stroke, frame by frame. -/
  | tdmRxPush (w : When) (group : Nat) (frames : List (List Nat))
  /-- R446: the FS instant of the frame, in 1/16 ns from the boundary that began the stroke of `w`, and the values of its slots. -/
  | slaveFrameRx (w : When) (madi : Bool) (port : Nat) (fs : Int) (slots : List Nat)
  /-- R447 -/
  | lineLost (w : When) (madi : Bool) (port : Nat)
  /-- R451: the start of the frame as R446 has it, whether a block of 192 begins with it, and its channels. -/
  | madiFrameRx (w : When) (m : Nat) (fs : Int) (blockStart : Bool) (chans : List MadiChan)
  /-- R456 -/
  | tdmBrst (w : When) (req : Requester) (madi : Bool) (port : Nat) (val : Word)
  /-- R453 -/
  | bsdFault (w : When) (clk : Nat)
  /-- R460: the corrected and the uncorrectable words that the pass met. -/
  | patrolScrubPass (w : When) (ce ue : List Nat)
  /-- R462 -/
  | ddrInitDone (w : When)
  /-- R477 -/
  | ddrEccAddrRead (w : When) (req : Requester)
  /-- R467: byte offset in BAR2 and the bytes. -/
  | hostDataWrite (w : When) (off : Nat) (data : List Byte)
  /-- R467 -/
  | hostDataRead (w : When) (off len : Nat)
  /-- R469 -/
  | pciePerst (w : When)
  /-- R469 -/
  | flr (w : When)
  /-- R469: speed code 1 to 4 and lanes, as PCIE_STAT reports them. -/
  | pcieLinkUp (w : When) (speed width : Nat)
  /-- R469 -/
  | pcieLinkDown (w : When)
  /-- R471 -/
  | i2cStretchTimeout (w : When)
  /-- R473 -/
  | bypass (w : When)
  /-- R473 -/
  | idcode (w : When)
  /-- R473: the pins as sampled, and the values preloaded. -/
  | samplePreload (w : When) (pins preload : List Bool)
  /-- R473 -/
  | extest (w : When)
  /-- R473 -/
  | clamp (w : When)
  /-- R473 -/
  | highz (w : When)
  /-- R492 -/
  | imgLoad (w : When) (req : Requester)
  /-- R493 -/
  | imgLoadEnd (w : When)
  /-- R495 -/
  | imgAbort (w : When) (req : Requester)
  /-- R496 -/
  | changeover (w : When) (req : Requester)
  /-- R496 -/
  | imgDisarm (w : When) (req : Requester)
  /-- R507 -/
  | imgDiscard (w : When) (req : Requester)
  /-- R499 -/
  | changeoverBoundary (w : When)
  /-- R508 -/
  | imgLastRead (w : When) (req : Requester)
  /-- R512 -/
  | vbatPor (w : When)
  /-- R514, R621 -/
  | porAssert (dip : SupplyDip)
  /-- R528 -/
  | porRelease (w : When) (boot : BootIn)
  /-- R515: RSTKEEP at the falling edge. -/
  | rstNAssert (w : When) (rstkeep : Bool)
  /-- R528 -/
  | rstNRelease (w : When) (boot : BootIn)
  /-- R531 -/
  | startOk (w : When) (req : Requester)
  /-- R523 -/
  | resScrub (w : When) (req : Requester)
  /-- R523: the words found uncorrectable and the words corrected. -/
  | resScrubDone (w : When) (ce ue : List Nat)
  /-- R531 -/
  | recoverNext (w : When) (req : Requester)
  /-- R540 -/
  | pwrD0 (w : When) (req : Requester)
  /-- R540 -/
  | pwrD1 (w : When) (req : Requester)
  /-- R541 -/
  | pwrD2 (w : When) (req : Requester)
  /-- R535 -/
  | wdogKick (w : When) (req : Requester) (val : Word)
  /-- R535 -/
  | wdogWarn (w : When)
  /-- R536 -/
  | wdogExpire (w : When)
  /-- R536 -/
  | wdogPulseEnd (w : When)
  /-- R538 -/
  | rstBrstWrite (w : When) (req : Requester) (val : Word)
  /-- R551 -/
  | calRun (w : When) (req : Requester)
  /-- R559 -/
  | calRead (w : When) (req : Requester)
  /-- R551: the measurements of the first check of R556. -/
  | calStart (w : When) (env : BoundaryIn)
  /-- R558: the codes measured, the hottest sensor in 1/16 °C, VDD_CORE in mV and LOAD. -/
  | calCommit (w : When) (codes : List (Nat × Nat)) (hot : Int) (vdd : Nat)
  /-- R560 -/
  | ageingCheck (w : When)
  /-- R562 -/
  | calPeriodRequest (w : When) (target : Nat)
  /-- R564: eight temperatures in 1/16 °C and ten voltages in mV. -/
  | monitorSample (w : When) (temps : List Int) (volts : List Nat)
  /-- R579 -/
  | challenge (w : When) (req : Requester)
  /-- R581 -/
  | present (w : When) (req : Requester)
  /-- R576 -/
  | keyLoad (w : When) (req : Requester)
  /-- R582 -/
  | sessionEnd (w : When) (req : Requester)
  /-- R587 -/
  | attest (w : When) (req : Requester)
  /-- R579 -/
  | challengeExpire (w : When) (req : Requester)
  /-- R582 -/
  | sessionExpire (w : When)
  /-- R591 -/
  | auditPop (w : When) (req : Requester)
  /-- R597 -/
  | thaw (w : When) (req : Requester)
  /-- R596 -/
  | freeze (w : When) (req : Requester)
  /-- R595 -/
  | faultClr (w : When) (req : Requester)
  /-- R600 -/
  | sumpRecordRead (w : When) (req : Requester)
  /-- R605 -/
  | msixSend (w : When) (vec : Nat)
  /-- R608 -/
  | evtInject (w : When) (req : Requester) (val : Word)
  /-- R616 -/
  | hostDoorbell (w : When) (req : Requester) (val : Word)
  /-- R616 -/
  | fwDoorbell (w : When) (req : Requester) (val : Word)
  /-- R616 -/
  | swEvent (w : When) (req : Requester) (val : Word)
  /-- R599: whether the OTP read-back of a WRITE_OTP matched (R583). -/
  | secCmdDone (w : When) (readBackOk : Bool)
  /-- R463, R605 -/
  | pcieConfigWrite (w : When) (msixEnable funcMask : Bool) (ctl : PcieCtl)
  /-- R644 -/
  | dcoLossOfLock (w : When)
  /-- R556 -/
  | calLastCheck (w : When) (env : BoundaryIn)
  deriving DecidableEq, Repr

/-- When a command comes. -/
def Instr.when : Instr → When
  | .registerWrite w _ _ _ => w
  | .rcRead w _ _ => w
  | .badAccess w _ _ => w
  | .coreAccess w _ _ _ _ _ => w
  | .strokeBoundary w _ => w
  | .stkEn w _ => w
  | .originStart w => w
  | .reorigin w _ => w
  | .stkNumLoRead w _ => w
  | .stage w _ => w
  | .runAdmit w _ => w
  | .firstDrawClose w _ => w
  | .fdLatestExpiry w _ => w
  | .budgetExhausted w _ => w
  | .kernelReturn w _ _ => w
  | .checkpoint w _ _ _ => w
  | .cpForced w _ _ _ => w
  | .completion w _ => w
  | .taskRead w _ => w
  | .cancel w _ => w
  | .disable w _ => w
  | .enable w _ => w
  | .clearCounters w _ => w
  | .clearState w _ => w
  | .push w _ _ _ => w
  | .pop w _ _ => w
  | .descPtrRead w _ _ => w
  | .queueRead w _ _ => w
  | .queueFlush w _ _ => w
  | .flushApply w _ => w
  | .queueResize w _ _ => w
  | .flitGrant w _ _ _ => w
  | .linkCreditReturn w _ _ _ => w
  | .censusComplete w => w
  | .creditResync w _ _ _ => w
  | .isolation w _ _ _ => w
  | .isoReturnDone w _ => w
  | .ethFrameRx w _ _ => w
  | .pktIngress w _ => w
  | .cisGoneTimeout w _ => w
  | .legTimeout w _ _ => w
  | .fsRead w _ => w
  | .fsInsert w _ => w
  | .fsDelete w _ => w
  | .fsReplace w _ => w
  | .fsLookup w _ => w
  | .fsReadLaddr w _ => w
  | .scSet w _ => w
  | .scRead w _ => w
  | .scZero w _ => w
  | .egRead w _ => w
  | .egStats w _ => w
  | .packetLaunch w _ _ => w
  | .cisRead w _ => w
  | .cisStats w _ => w
  | .cisFlush w _ => w
  | .cisResize w _ => w
  | .setDelay w _ => w
  | .cisStart w _ => w
  | .cisStop w _ => w
  | .setPt w _ => w
  | .setOffset w _ => w
  | .setRef w _ => w
  | .cnvPass w _ => w
  | .cnvOverrun w _ _ => w
  | .laneRead w _ => w
  | .chainRead w _ => w
  | .setRead w _ => w
  | .laneEnable w _ => w
  | .laneDisable w _ => w
  | .laneDelay w _ => w
  | .laneRatio w _ => w
  | .swap w _ => w
  | .sync w _ => w
  | .laneCounters w _ => w
  | .coefWrite w _ _ => w
  | .accClear w _ _ _ _ => w
  | .accLoad w _ _ _ _ _ => w
  | .accAddProduct w _ _ _ _ _ _ => w
  | .accAddShifted w _ _ _ _ _ _ => w
  | .crossLaneSum w _ _ _ _ => w
  | .reduction w _ _ _ _ _ _ => w
  | .blockExponent w _ _ _ _ => w
  | .minMaxSearch w _ _ _ _ _ _ => w
  | .agAccess w _ _ _ _ => w
  | .agLenWrite w _ _ _ _ => w
  | .transfer w _ _ _ _ _ _ => w
  | .cellBrstSet w _ _ => w
  | .cellBrstRelease w _ _ => w
  | .blockRelease w _ => w
  | .blockHeld w _ => w
  | .wakeDone w _ => w
  | .ecOpen w _ _ _ _ => w
  | .ecClose w _ _ _ => w
  | .ecSet w _ _ _ _ => w
  | .ecReset w _ _ _ => w
  | .ecFreeze w _ _ _ => w
  | .ecThaw w _ _ _ => w
  | .bypassOn w _ _ _ => w
  | .bypassOff w _ _ _ => w
  | .codecOpen w _ _ _ _ => w
  | .codecClose w _ _ _ => w
  | .codecSet w _ _ _ _ => w
  | .codecReset w _ _ _ => w
  | .legAdd w _ _ _ _ _ => w
  | .legDel w _ _ _ _ => w
  | .legSet w _ _ _ _ _ => w
  | .confSet w _ _ _ _ => w
  | .matrixGain w _ _ _ _ => w
  | .tonePass w => w
  | .toneOverrun w _ _ => w
  | .detRead w _ => w
  | .genRead w _ => w
  | .detEnable w _ => w
  | .detDisable w _ => w
  | .genStart w _ => w
  | .genStop w _ => w
  | .toneSlotCounters w _ => w
  | .cmpPass w _ => w
  | .cmpOverrun w _ => w
  | .cmpRead w _ => w
  | .cmpEnable w _ => w
  | .cmpDisable w _ => w
  | .cmpStreamCounters w _ => w
  | .jobStart w _ => w
  | .jobAbort w _ => w
  | .cmpJobDone w _ => w
  | .adjustmentPoint w _ => w
  | .timeSet w _ => w
  | .timeStep w _ => w
  | .timeFreq w _ => w
  | .timeAdj w _ => w
  | .timeMode w _ => w
  | .arm w _ => w
  | .disarm w _ => w
  | .trigRead w _ => w
  | .dcoMode w _ => w
  | .saMeas w _ => w
  | .saReset w _ => w
  | .triggerFire w _ => w
  | .pinPulseEnd w _ => w
  | .timeNowRead w _ => w
  | .timeRawRead w _ => w
  | .ppsTsRead w _ => w
  | .dcoFreqCommit w _ _ => w
  | .tsqPop w _ _ => w
  | .captureEdge w _ _ _ _ => w
  | .capPop w _ => w
  | .refEdge w _ _ _ => w
  | .refQual w _ => w
  | .refLost w _ => w
  | .dcoLocked w => w
  | .xoFail w => w
  | .tickPllLock w => w
  | .ethLinkUp w _ => w
  | .ethLinkDown w _ _ => w
  | .anRestart w _ _ => w
  | .tdmRxPush w _ _ => w
  | .slaveFrameRx w _ _ _ _ => w
  | .lineLost w _ _ => w
  | .madiFrameRx w _ _ _ _ => w
  | .tdmBrst w _ _ _ _ => w
  | .bsdFault w _ => w
  | .patrolScrubPass w _ _ => w
  | .ddrInitDone w => w
  | .ddrEccAddrRead w _ => w
  | .hostDataWrite w _ _ => w
  | .hostDataRead w _ _ => w
  | .pciePerst w => w
  | .flr w => w
  | .pcieLinkUp w _ _ => w
  | .pcieLinkDown w => w
  | .i2cStretchTimeout w => w
  | .bypass w => w
  | .idcode w => w
  | .samplePreload w _ _ => w
  | .extest w => w
  | .clamp w => w
  | .highz w => w
  | .imgLoad w _ => w
  | .imgLoadEnd w => w
  | .imgAbort w _ => w
  | .changeover w _ => w
  | .imgDisarm w _ => w
  | .imgDiscard w _ => w
  | .changeoverBoundary w => w
  | .imgLastRead w _ => w
  | .vbatPor w => w
  | .porAssert dip => dip.time
  | .porRelease w _ => w
  | .rstNAssert w _ => w
  | .rstNRelease w _ => w
  | .startOk w _ => w
  | .resScrub w _ => w
  | .resScrubDone w _ _ => w
  | .recoverNext w _ => w
  | .pwrD0 w _ => w
  | .pwrD1 w _ => w
  | .pwrD2 w _ => w
  | .wdogKick w _ _ => w
  | .wdogWarn w => w
  | .wdogExpire w => w
  | .wdogPulseEnd w => w
  | .rstBrstWrite w _ _ => w
  | .calRun w _ => w
  | .calRead w _ => w
  | .calStart w _ => w
  | .calCommit w _ _ _ => w
  | .ageingCheck w => w
  | .calPeriodRequest w _ => w
  | .monitorSample w _ _ => w
  | .challenge w _ => w
  | .present w _ => w
  | .keyLoad w _ => w
  | .sessionEnd w _ => w
  | .attest w _ => w
  | .challengeExpire w _ => w
  | .sessionExpire w => w
  | .auditPop w _ => w
  | .thaw w _ => w
  | .freeze w _ => w
  | .faultClr w _ => w
  | .sumpRecordRead w _ => w
  | .msixSend w _ => w
  | .evtInject w _ _ => w
  | .hostDoorbell w _ _ => w
  | .fwDoorbell w _ _ => w
  | .swEvent w _ _ => w
  | .secCmdDone w _ => w
  | .pcieConfigWrite w _ _ _ => w
  | .dcoLossOfLock w => w
  | .calLastCheck w _ => w

end Sys2Proof
end

