-- ==== Sys2Proof/Decode.lean ====
section
/-! DEFINITION. The command that a word spells. The spec's table of steps gives no row any bits, so that no word spells a command. -/

namespace Sys2Proof

/-- The command that the bits `w` of a row of `nbits` bits spell: none (log entry 36). -/
def decodeTableWord (_nbits _w : Nat) : Option Instr := none

end Sys2Proof
end

