-- ==== Sys2Proof/Config.lean ====
section
/-! DEFINITION. What an implementation fixes and what the spec leaves open: constants without a body, so that nothing
proved of the model rests on a value of them. Each is named in a row of the assumption log. -/

namespace Sys2Proof

/-- A free value (log entry 1): the `n`-th value that the spec leaves open, as a natural number the user reduces to the width at
hand. -/
opaque Config.free : Nat → Nat

/-- The cycles from a command's write to its apply cycle (R640): within 256 cc, and no rule says how many. The arguments are the address of the command
register and the cycle of the write (log entry 12). -/
opaque Config.applyDelay : Nat → Nat → BitVec 8

/-- The content of DDR word `a` in epoch `e`, before anything is written to it (R462, R543: undefined after POR or a cold pin
reset), as 72 data bits with bit 72 saying that it reads as POISON (log entry 2). -/
opaque Config.freeDdr : Nat → Nat → BitVec 73

/-- The hash of the maker key held in the boot ROM (R526, R574), which the spec does not state (log entry 3). -/
opaque Config.romMakerHash : BitVec 384

/-- K of a target from a MAKER_CFG zone that is not blank (R559): the spec gives the zone no layout (log entry 3). -/
opaque Config.makerK : BitVec 512 → Nat → Int

/-- The maker default of a calibration code from a MAKER_CFG zone that is not blank (R555; log entry 3). -/
opaque Config.makerCode : BitVec 512 → Nat → BitVec 12

/-- The edges and the FILTER_NS that an image gives a capture unit (R412): rising, falling, and ns. The sections of R486 do not say where an
image holds them (log entry 7). -/
opaque Config.capture : BitVec 384 → Nat → Bool × Bool × Nat

/-- The output clocks that an image enables (R420), laid out as TIME_OUT_CFG.EN (log entry 7). -/
opaque Config.outEn : BitVec 384 → BitVec 6

/-- The settings of the output clocks of an image (R420): 0 PPS_W, 1 PPS_OUT_OFS, 2 to 5 the rate and 6 to 9 WOFS of WCLK_OUT (log entry 7). -/
opaque Config.outCfg : BitVec 384 → Nat → Nat

/-- The DCO frequency word that the hardware PI loop of R417 reaches from the word before it, the loop bandwidth, and the phase in 1/16 ns: the
spec gives no gains (log entry 8). -/
opaque Config.dcoLoop : Int → Nat → Int → Int

/-- What a TDC stream of means delivers for a microsecond without an edge, by stroke, stream and microsecond: R414 states no mean of none (log entry 123). -/
opaque Config.tdcEmpty : Nat → Nat → Nat → Int

/-- The ECDSA signature that the identity key of a public key makes over a hash (R587, R588): its per-message secret is the device's own and
differs with the last argument (log entry 9). -/
opaque Config.ecdsaSign : BitVec 768 → BitVec 384 → Nat → BitVec 768

/-! The arithmetic inside the echo canceller, whose structure R281 fixes and whose transforms, step, filters and shaping it does not (log entry 37): functions of
the data they work on, so that Sout is a function of a channel's inputs (R314). -/

/-- Lane `j` of the spectrum of 24-bit mantissas, newest first: the bins one after another, real and imaginary part (R281). -/
opaque Config.ecBin (mode : Nat) : List Int → Nat → Int

/-- Sample `j` of the 2 × BLK, oldest first, transformed back from the 24-bit mantissas of a spectrum, in 2^-24. -/
opaque Config.ecBack (mode : Nat) : List Int → Nat → Int

/-- The power of the echo in Sin as the kernel measures it, from the powers of Sin and of the echo estimate (R282). -/
opaque Config.ecEcho : Nat → Nat → Nat

/-- The normalised gradient of lane `j` of a partition, in 2^-24, before it is constrained to the partition's length: from the partition's Rin spectrum, the error of the block and the bins' Rin power. -/
opaque Config.ecStep (mode : Nat) : List Int → List Int → List Int → Nat → Int

/-- The Rin power of bin `j`, from the powers before and the newest spectrum. -/
opaque Config.ecPower (mode : Nat) : List Int → List Int → Nat → Int

/-- Sample `j` of a block decimated to 1 kHz, from samples newest first (R299). -/
opaque Config.ecDecim : List Int → Nat → Int

/-- The step of coarse tap `b`, in 2^-24: from the decimated Rin, newest first, and the error. -/
opaque Config.ecCoarse : List Int → Int → Nat → Int

/-- The energy of a coarse tap smoothed over 64 ms, from the value before and the tap (R299). -/
opaque Config.ecSmooth : Nat → Int → Nat

/-- The noise floor of the tap profile, from the smoothed energies (R299). -/
opaque Config.ecFloor : List Nat → Nat

/-- What a lane holds of a sum that exceeds it (R299, R300). -/
opaque Config.ecOver : Nat → BitVec 24

/-- The level in 1/16 dB of a background estimate (R294, R305). -/
opaque Config.ecNoiseLvl (mode : Nat) : List Nat → BitVec 12

/-- Sample `j` of the noise of a block before its level is set: from the LFSR at its begin, shaped to the background estimate (R294). -/
opaque Config.ecNoise (mode : Nat) : BitVec 31 → List Nat → Nat → BitVec 24

/-- The weight, in 2^-32, of a sample in the smoothing of a leg's power, by samples per stroke (R351; log entry 37). It acts within the bounds that the time constant
gives it. -/
opaque Config.legAlpha (spp : Nat) : Nat

/-! The codecs other than G.711, L16 and L24, and concealment and comfort noise, are given by their standards (R315, R328), which are not part of the
spec. A codec's state is a number whose meaning these functions share (log entry 38). A PT map entry, or an encoder record, is given as its bits, with
the samples per stroke. -/

/-- The taps of the fixed filter of R339 at 16 or 48 kHz (`rate` 1, 2), in 2^-30 (log entry 85). They act where they meet the rule. -/
opaque Config.toneTaps (rate : Nat) : List Int

/-- The level in 1/100 dB that a detector of TYPE `ty` measures of its first or second tone, within the accuracy of R341 (log entry 85). -/
opaque Config.toneLevel (ty : Nat) (second : Bool) (window : List Int) : Int

/-- What a detector makes of a window that R341 neither accepts nor rejects (log entry 85). -/
opaque Config.toneGrey (ty : Nat) (window : List Int) (profile : List Nat) : Bool

/-- Where in its time a sample of a ramp is taken, in 2^-16 of it (R347; log entry 40). -/
opaque Config.rampAt : BitVec 16

/-- Sample `i` of a decoded frame of a codec: its type, the samples per stroke, the codec's state and the frame's bits. -/
opaque Config.framePcm (codec ft spp state : Nat) : List Bool → Nat → BitVec 16

/-- The state after a frame is decoded. -/
opaque Config.frameStep (codec ft spp state : Nat) : List Bool → Nat

/-- The state of G.726 with codes of `w` bits after samples are encoded. -/
opaque Config.adpcmStep (w state : Nat) : List Int → Nat

/-- Sample `i` of a concealment by a codec's own method. -/
opaque Config.plcPcm (codec spp state i : Nat) : BitVec 16

/-- The state after a concealment of `n` samples by a codec's own method. -/
opaque Config.plcStep (codec spp state n : Nat) : Nat

/-- Sample `i`, decoded as `v`, of the first frame after a concealment by a codec's own method. -/
opaque Config.plcRejoin (codec spp state i : Nat) (v : BitVec 16) : BitVec 16

/-- The pitch period that G.711 Appendix I finds in samples, newest first. -/
opaque Config.plcPitch (spp : Nat) : List Int → Nat

/-- How far back a concealed sample is taken, the first of the two of which it may be mixed. -/
opaque Config.plcAge (spp : Nat) : List Int → Nat → Nat

/-- How far back the second is taken. -/
opaque Config.plcAge2 (spp : Nat) : List Int → Nat → Nat

/-- Where between the two a concealed sample lies. -/
opaque Config.plcMix (spp : Nat) : List Int → Nat → Int

/-- Comfort noise of a sample, numbered on from stroke 0. -/
opaque Config.cngPcm (codec spp state i : Nat) : BitVec 16

/-- What DTX makes of a frame: 0 speech, 1 a SID, 2 no data; of an Opus window, 1 no data. -/
opaque Config.encKind (record spp state : Nat) : List Int → Nat

/-- Which of its three rates a frame of EVS at 5.9 kbit/s takes. -/
opaque Config.evsPick (record spp state : Nat) : List Int → Nat

/-- Bit `i` of an encoded frame. -/
opaque Config.encBit (record spp state : Nat) : List Int → Nat → Bool

/-- The state after a frame is encoded. -/
opaque Config.encStep (record spp state : Nat) : List Int → Nat

/-- The Opus packet of a window. -/
opaque Config.opusBytes (record spp state : Nat) : List Int → List (BitVec 8)

/-- The largest payload in bytes of an Opus record. -/
opaque Config.opusMax (record : Nat) : Nat

/-- Words that a codec or mixing pack declares for a record beyond the six that R321 places (R320, R321). -/
opaque Config.recExtra (kind rate mask : Nat) : Nat

/-- The members of the PCM items that an image's queue carries, where no section holds the number (R350; log entry 39). -/
opaque Config.members (image : BitVec 384) (queue : Nat) : Nat

/-- A KERNEL_ID is that of a conference kernel (R350, R490): the spec does not state the identities of the Verraolo kernels (log entry 39). -/
opaque Config.isConf : Nat → Bool

/-- Byte `a` of the boot ROM (R615), whose content the spec does not give (log entry 3). -/
opaque Config.bootRom : Nat → BitVec 8

/-- The manufacturer identity in IDCODE (R473), which stands in the BSDL file only (log entry 33). -/
opaque Config.jtagMaker : BitVec 11

/-- Where pin `i` of pin group `g` has its level, and its enable, in the boundary register: in the published BSDL file (R473; log entry 144). -/
opaque Config.bsdlLevel (g i : Nat) : Nat

/-- Where its enable stands. -/
opaque Config.bsdlEnable (g i : Nat) : Nat

/-- The content of maker zone `z` of a part as delivered (R638; log entry 4). -/
opaque Config.makerZone (z : Nat) : BitVec 512

/-- The identity key of a part as delivered (R584; log entry 4). -/
opaque Config.partKey : BitVec 384

end Sys2Proof
end

