-- ==== Sys2Proof/Machine/Events.lean ====
section
/-! DEFINITION. The event numbers of R610 and which of them their chapters mark "sump record" (R594). -/

namespace Sys2Proof.Machine

/-- Event 0 of R610. -/
def E.BLOCK_HELD : Nat := 0

/-- Event 1 of R610. -/
def E.OPT_FAULT : Nat := 1

/-- Event 2 of R610. -/
def E.RECOVERY : Nat := 2

/-- Event 3 of R610. -/
def E.WDOG_WARN : Nat := 3

/-- Event 4 of R610. -/
def E.WDOG_EXPIRE : Nat := 4

/-- Event 5 of R610. -/
def E.RES_SCRUB_DONE : Nat := 5

/-- Event 6 of R610. -/
def E.PWR_DONE : Nat := 6

/-- Event 7 of R610. -/
def E.BKUP_LOST : Nat := 7

/-- Event 8 of R610. -/
def E.IMG_LOAD_DONE : Nat := 8

/-- Event 9 of R610. -/
def E.IMG_LOAD_ERR : Nat := 9

/-- Event 10 of R610. -/
def E.CHANGEOVER_DONE : Nat := 10

/-- Event 11 of R610. -/
def E.CHANGEOVER_MISSED : Nat := 11

/-- Event 12 of R610. -/
def E.HOST_DOORBELL : Nat := 12

/-- Event 13 of R610. -/
def E.FW_DOORBELL : Nat := 13

/-- Event 14 of R610. -/
def E.MEDIA_CHANGE : Nat := 14

/-- Event 15 of R610. -/
def E.SW_EVENT : Nat := 15

/-- Event 16 of R610. -/
def E.TOKEN_OK : Nat := 16

/-- Event 17 of R610. -/
def E.TOKEN_FAIL : Nat := 17

/-- Event 18 of R610. -/
def E.SESSION_END : Nat := 18

/-- Event 19 of R610. -/
def E.KEY_LOADED : Nat := 19

/-- Event 20 of R610. -/
def E.OTP_WRITTEN : Nat := 20

/-- Event 21 of R610. -/
def E.OTP_WRITE_ERR : Nat := 21

/-- Event 22 of R610. -/
def E.DEBUG_OPEN : Nat := 22

/-- Event 23 of R610. -/
def E.AUDIT_READY : Nat := 23

/-- Event 24 of R610. -/
def E.AUDIT_FULL : Nat := 24

/-- Event 25 of R610. -/
def E.AUDIT_LOST : Nat := 25

/-- Event 26 of R610. -/
def E.ATTEST_DONE : Nat := 26

/-- Event 27 of R610. -/
def E.SUMP_FROZEN : Nat := 27

/-- Event 28 of R610. -/
def E.FATAL : Nat := 28

/-- Event 29 of R610. -/
def E.SEC_CMD_DONE : Nat := 29

/-- Event 30 of R610. -/
def E.SEC_CMD_ERR : Nat := 30

/-- Event 31 of R610. -/
def E.FW_VERIFY_FAIL : Nat := 31

/-- Event 32 of R610. -/
def E.CAL_DONE : Nat := 32

/-- Event 33 of R610. -/
def E.CAL_PRECOND : Nat := 33

/-- Event 34 of R610. -/
def E.CAL_AGED : Nat := 34

/-- Event 35 of R610. -/
def E.CAL_DEFER : Nat := 35

/-- Event 36 of R610. -/
def E.TEMP_WARN : Nat := 36

/-- Event 37 of R610. -/
def E.TEMP_CRIT : Nat := 37

/-- Event 38 of R610. -/
def E.TEMP_CLEAR : Nat := 38

/-- Event 39 of R610. -/
def E.VOLT_WARN : Nat := 39

/-- Event 40 of R610. -/
def E.VOLT_CLEAR : Nat := 40

/-- Event 41 of R610. -/
def E.CAL_START : Nat := 41

/-- Event 42 of R610. -/
def E.CAL_CMD_DONE : Nat := 42

/-- Event 43 of R610. -/
def E.CAL_CMD_ERR : Nat := 43

/-- Event 48 of R610. -/
def E.STK_TICK : Nat := 48

/-- Event 49 of R610. -/
def E.OVERRUN : Nat := 49

/-- Event 50 of R610. -/
def E.OVERRUN_L : Nat := 50

/-- Event 51 of R610. -/
def E.DEADLINE_MISS : Nat := 51

/-- Event 52 of R610. -/
def E.DEADLINE_MISS_L : Nat := 52

/-- Event 53 of R610. -/
def E.CANCELLED : Nat := 53

/-- Event 54 of R610. -/
def E.RL_DROP : Nat := 54

/-- Event 55 of R610. -/
def E.BACKPRESS : Nat := 55

/-- Event 56 of R610. -/
def E.RELEASE_OVF : Nat := 56

/-- Event 57 of R610. -/
def E.DEP_STALE : Nat := 57

/-- Event 58 of R610. -/
def E.ALIGN_LOST : Nat := 58

/-- Event 59 of R610. -/
def E.ALIGNED : Nat := 59

/-- Event 60 of R610. -/
def E.CLASSL_LATE : Nat := 60

/-- Event 61 of R610. -/
def E.TASK_CMD_DONE : Nat := 61

/-- Event 62 of R610. -/
def E.TASK_CMD_ERR : Nat := 62

/-- Event 63 of R610. -/
def E.ORIGIN_START : Nat := 63

/-- Event 80 of R610. -/
def E.QERR : Nat := 80

/-- Event 81 of R610. -/
def E.CENSUS_ERR : Nat := 81

/-- Event 82 of R610. -/
def E.CREDIT_RESYNC : Nat := 82

/-- Event 83 of R610. -/
def E.QTAG_ERR : Nat := 83

/-- Event 84 of R610. -/
def E.SPILL : Nat := 84

/-- Event 85 of R610. -/
def E.DROP_FULL : Nat := 85

/-- Event 86 of R610. -/
def E.SPILLWAY_FULL : Nat := 86

/-- Event 87 of R610. -/
def E.FLUSH_DONE : Nat := 87

/-- Event 88 of R610. -/
def E.RESIZE_DONE : Nat := 88

/-- Event 89 of R610. -/
def E.QCMD_ERR : Nat := 89

/-- Event 90 of R610. -/
def E.ISO_RETURN_DONE : Nat := 90

/-- Event 91 of R610. -/
def E.POISON_POP : Nat := 91

/-- Event 92 of R610. -/
def E.RES_ECC_CE : Nat := 92

/-- Event 93 of R610. -/
def E.RES_ECC_UE : Nat := 93

/-- Event 94 of R610. -/
def E.EMPTY_POP_L : Nat := 94

/-- Event 112 of R610. -/
def E.PKT_MALFORMED : Nat := 112

/-- Event 113 of R610. -/
def E.PKT_UNKNOWN_FLOW : Nat := 113

/-- Event 114 of R610. -/
def E.SRTP_AUTH_FAIL : Nat := 114

/-- Event 115 of R610. -/
def E.SRTP_REPLAY : Nat := 115

/-- Event 116 of R610. -/
def E.SRTP_KEY_SOFT : Nat := 116

/-- Event 117 of R610. -/
def E.SRTP_KEY_END : Nat := 117

/-- Event 118 of R610. -/
def E.EXC_DROP : Nat := 118

/-- Event 119 of R610. -/
def E.PT_MISMATCH : Nat := 119

/-- Event 120 of R610. -/
def E.FS_CMD_DONE : Nat := 120

/-- Event 121 of R610. -/
def E.FS_CMD_ERR : Nat := 121

/-- Event 122 of R610. -/
def E.SC_CMD_ERR : Nat := 122

/-- Event 123 of R610. -/
def E.EG_CMD_ERR : Nat := 123

/-- Event 124 of R610. -/
def E.RX_FIFO_DROP : Nat := 124

/-- Event 125 of R610. -/
def E.LEG_DOWN : Nat := 125

/-- Event 126 of R610. -/
def E.LEG_UP : Nat := 126

/-- Event 127 of R610. -/
def E.CIS_LATE : Nat := 127

/-- Event 128 of R610. -/
def E.CIS_LOSS : Nat := 128

/-- Event 129 of R610. -/
def E.CIS_OVERFLOW : Nat := 129

/-- Event 130 of R610. -/
def E.SRC_JUMP : Nat := 130

/-- Event 131 of R610. -/
def E.SRC_GONE : Nat := 131

/-- Event 132 of R610. -/
def E.SRC_BACK : Nat := 132

/-- Event 133 of R610. -/
def E.RATIO_LIMIT : Nat := 133

/-- Event 134 of R610. -/
def E.CIS_RESIZE_DONE : Nat := 134

/-- Event 135 of R610. -/
def E.CIS_FLUSH_DONE : Nat := 135

/-- Event 136 of R610. -/
def E.CIS_CMD_ERR : Nat := 136

/-- Event 137 of R610. -/
def E.CIS_CENSUS_ERR : Nat := 137

/-- Event 138 of R610. -/
def E.CIS_PLAY_START : Nat := 138

/-- Event 144 of R610. -/
def E.CNV_OVERRUN : Nat := 144

/-- Event 145 of R610. -/
def E.SWAP_DONE : Nat := 145

/-- Event 146 of R610. -/
def E.SWAP_PEND : Nat := 146

/-- Event 147 of R610. -/
def E.SWAP_MERGED : Nat := 147

/-- Event 148 of R610. -/
def E.CNV_SYNC_DONE : Nat := 148

/-- Event 149 of R610. -/
def E.CNV_CLIP : Nat := 149

/-- Event 150 of R610. -/
def E.LANE_JUMP : Nat := 150

/-- Event 151 of R610. -/
def E.LANE_LATE : Nat := 151

/-- Event 152 of R610. -/
def E.IN_FMT_ERR : Nat := 152

/-- Event 153 of R610. -/
def E.COEF_ECC_CE : Nat := 153

/-- Event 154 of R610. -/
def E.COEF_ECC_UE : Nat := 154

/-- Event 155 of R610. -/
def E.CNV_CMD_DONE : Nat := 155

/-- Event 156 of R610. -/
def E.CNV_CMD_ERR : Nat := 156

/-- Event 157 of R610. -/
def E.CNV_SRC_RESUME : Nat := 157

/-- Event 160 of R610. -/
def E.TONE_OVERRUN : Nat := 160

/-- Event 161 of R610. -/
def E.TONE_CLIP : Nat := 161

/-- Event 162 of R610. -/
def E.TONE_GEN_DONE : Nat := 162

/-- Event 163 of R610. -/
def E.TONE_ANS_PR : Nat := 163

/-- Event 164 of R610. -/
def E.TONE_IN_ERR : Nat := 164

/-- Event 165 of R610. -/
def E.TONE_CMD_DONE : Nat := 165

/-- Event 166 of R610. -/
def E.TONE_CMD_ERR : Nat := 166

/-- Event 168 of R610. -/
def E.CMP_OVERRUN : Nat := 168

/-- Event 169 of R610. -/
def E.CMP_VERIFY_FAIL : Nat := 169

/-- Event 170 of R610. -/
def E.CMP_OVER_CAP : Nat := 170

/-- Event 171 of R610. -/
def E.CMP_STALL : Nat := 171

/-- Event 172 of R610. -/
def E.CMP_DEC_ERR : Nat := 172

/-- Event 173 of R610. -/
def E.CMP_IN_ERR : Nat := 173

/-- Event 174 of R610. -/
def E.CMP_JOB_DONE : Nat := 174

/-- Event 175 of R610. -/
def E.CMP_CMD_ERR : Nat := 175

/-- Event 176 of R610. -/
def E.TIME_VALID : Nat := 176

/-- Event 177 of R610. -/
def E.XO_FAIL : Nat := 177

/-- Event 178 of R610. -/
def E.TIME_MODE_DONE : Nat := 178

/-- Event 179 of R610. -/
def E.TIME_ADJ_DONE : Nat := 179

/-- Event 180 of R610. -/
def E.TSQ_READY : Nat := 180

/-- Event 181 of R610. -/
def E.TSQ_OVF : Nat := 181

/-- Event 182 of R610. -/
def E.TRIG_FIRED : Nat := 182

/-- Event 183 of R610. -/
def E.TRIG_LATE : Nat := 183

/-- Event 184 of R610. -/
def E.TRIG_MISSED : Nat := 184

/-- Event 185 of R610. -/
def E.CAP_READY : Nat := 185

/-- Event 186 of R610. -/
def E.CAP_OVF : Nat := 186

/-- Event 187 of R610. -/
def E.PPS_IN_EDGE : Nat := 187

/-- Event 188 of R610. -/
def E.REF_QUAL : Nat := 188

/-- Event 189 of R610. -/
def E.REF_LOST : Nat := 189

/-- Event 190 of R610. -/
def E.DCO_LOCKED : Nat := 190

/-- Event 191 of R610. -/
def E.DCO_SWITCH : Nat := 191

/-- Event 192 of R610. -/
def E.DCO_HOLDOVER : Nat := 192

/-- Event 193 of R610. -/
def E.PATH_STEP : Nat := 193

/-- Event 194 of R610. -/
def E.PATH_ACCEPT : Nat := 194

/-- Event 195 of R610. -/
def E.ASYM_REJECT : Nat := 195

/-- Event 196 of R610. -/
def E.PATH_TRANSIENT : Nat := 196

/-- Event 197 of R610. -/
def E.TIME_CMD_DONE : Nat := 197

/-- Event 198 of R610. -/
def E.TIME_CMD_ERR : Nat := 198

/-- Event 208 of R610. -/
def E.ETH_LINK_UP : Nat := 208

/-- Event 209 of R610. -/
def E.ETH_LINK_DOWN : Nat := 209

/-- Event 210 of R610. -/
def E.ETH_FEC_UE : Nat := 210

/-- Event 211 of R610. -/
def E.ETH_TX_TS_LOST : Nat := 211

/-- Event 212 of R610. -/
def E.SYNC_SLIP : Nat := 212

/-- Event 213 of R610. -/
def E.LINE_LOST : Nat := 213

/-- Event 214 of R610. -/
def E.MADI_PARITY : Nat := 214

/-- Event 215 of R610. -/
def E.BSD_FAULT : Nat := 215

/-- Event 216 of R610. -/
def E.DDR_ECC_CE : Nat := 216

/-- Event 217 of R610. -/
def E.DDR_ECC_UE : Nat := 217

/-- Event 218 of R610. -/
def E.DDR_ADDR_ERR : Nat := 218

/-- Event 219 of R610. -/
def E.PCIE_LINK_UP : Nat := 219

/-- Event 220 of R610. -/
def E.PCIE_LINK_DOWN : Nat := 220

/-- Event 221 of R610. -/
def E.PCIE_BAD_ACC : Nat := 221

/-- Event 222 of R610. -/
def E.PCIE_HOST_DENIED : Nat := 222

/-- Event 223 of R610. -/
def E.PCIE_POISON_READ : Nat := 223

/-- The events that write a sump record when they are raised (R594); event 27 has the freezing record (R596), and the cell events are
handled by their cause (R274). -/
def evLogged (n : Nat) : Bool :=
  [1, 2, 4, 7, 9, 10, 11, 17, 20, 21, 22, 25, 31, 33, 37, 39, 50, 52, 58, 60, 80, 81, 93, 94, 117, 130, 137, 144, 154, 160, 168, 169, 177, 189, 191, 192, 193, 194, 195, 209, 213, 217].contains n

/-- The numbers R610 marks Reserved. -/
def evReserved (n : Nat) : Bool :=
  [44, 45, 46, 47, 64, 65, 66, 67, 68, 69, 70, 71, 72, 73, 74, 75, 76, 77, 78, 79, 95, 96, 97, 98, 99, 100, 101, 102, 103, 104, 105, 106, 107, 108, 109, 110, 111, 139, 140, 141, 142, 143, 158, 159, 167, 199, 200, 201, 202, 203, 204, 205, 206, 207].contains n

end Sys2Proof.Machine
end

