-- ==== Sys2Proof/Machine/Frac.lean ====
section
/-! DEFINITION. Exact fractions in lowest terms, for the arithmetic that the spec calls exact (R148, R157, R210). -/

namespace Sys2Proof.Machine

/-- A fraction `num / den`, `den` positive, in lowest terms. -/
structure Frac where
  num : Int := 0
  den : Nat := 1
  deriving DecidableEq, Repr, Inhabited

/-- `n / d` in lowest terms; 0 where `d` is 0. -/
def mkFrac (n : Int) (d : Nat) : Frac :=
  if d = 0 then {} else
    let g := Nat.gcd n.natAbs d
    { num := n / (g : Int), den := d / g }

/-- An integer. -/
def fInt (n : Int) : Frac := { num := n, den := 1 }

/-- The sum. -/
def Frac.add (a b : Frac) : Frac := mkFrac (a.num * b.den + b.num * a.den) (a.den * b.den)

/-- The difference. -/
def Frac.sub (a b : Frac) : Frac := mkFrac (a.num * b.den - b.num * a.den) (a.den * b.den)

/-- The product. -/
def Frac.mul (a b : Frac) : Frac := mkFrac (a.num * b.num) (a.den * b.den)

/-- The quotient; 0 where `b` is 0. -/
def Frac.div (a b : Frac) : Frac := mkFrac (a.num * b.den * b.num.sign) (a.den * b.num.natAbs)

/-- `a` is below `b`. -/
def Frac.lt (a b : Frac) : Bool := decide (a.num * b.den < b.num * a.den)

/-- The lesser. -/
def Frac.min (a b : Frac) : Frac := if b.lt a then b else a

/-- The greater. -/
def Frac.max (a b : Frac) : Frac := if a.lt b then b else a

/-- The greatest integer not above. -/
def Frac.floor (a : Frac) : Int := a.num / (a.den : Int)

/-- The least integer not below. -/
def Frac.ceil (a : Frac) : Int := -(-a.num / (a.den : Int))

/-- The magnitude. -/
def Frac.abs (a : Frac) : Frac := { a with num := (a.num.natAbs : Int) }

/-- Convergent rounding to an integer. -/
def Frac.round (a : Frac) : Int := roundEven a.num a.den

/-- Convergent rounding of `a * k` to an integer. -/
def Frac.roundMul (a : Frac) (k : Nat) : Int := roundEven (a.num * k) a.den

/-- Truncation toward zero. -/
def truncDiv (n : Int) (d : Nat) : Int := if n < 0 then -((n.natAbs / d : Nat) : Int) else ((n.natAbs / d : Nat) : Int)

end Sys2Proof.Machine
end

