-- ==== Sys2Proof/Machine/Regs.lean ====
section
/-! DEFINITION. The control space of R613: one `Fld` for each field of each register the spec tabulates, with its
address, bits, access type (R5), Reset value and Kept code (R11), and the map from an address to its fields. Bits no
field covers are Reserved (R9). Fields whose value follows from the rest of the state have a field here as well; what
they read is computed where they are read (Machine/Bus.lean). -/

namespace Sys2Proof.Machine

/-- The access types of R5. -/
inductive Acc where
  | ro
  | rw
  | wo
  | w1c
  | w1s
  | rc
  | rws
  deriving DecidableEq, Repr

/-- The Kept codes of R11: B, C, W and the dash. -/
inductive Kept where
  | backup
  | backupC
  | keep
  | main
  deriving DecidableEq, Repr

/-- A register field. -/
structure Fld where
  addr : Nat
  lo : Nat
  width : Nat
  ty : Acc
  reset : Nat
  kept : Kept
  deriving DecidableEq, Repr

/-- The key under which a field is stored: one for each bit position of each register. -/
def Fld.key (f : Fld) : Nat := f.addr * 32 + f.lo

/-- A register, or an array of registers: outer stride and count, inner stride and count. -/
structure RegRow where
  base : Nat
  s1 : Nat
  n1 : Nat
  s2 : Nat
  n2 : Nat
  flds : Nat → Nat → List Fld

/-- LOW warning limit of supply `k` in mV (R564). -/
def vthrLow (k : Nat) : Nat := [720, 768, 864, 1152, 1056, 1700, 1700, 1700, 1700, 1600].getD k 0

/-- HIGH warning limit of supply `k` in mV (R564). -/
def vthrHigh (k : Nat) : Nat := [780, 832, 936, 1248, 1144, 3450, 3450, 3450, 3450, 3600].getD k 0

/-- DESIGN CHOICE (unsafe, log entry 6): the maker default of calibration code `k`, which is burned into the part and
which no rule states. -/
def calMaker (_ : Nat) : Nat := 2048

/-- R616, bits 0 to 31: GLB_ID.ID. -/
def R.GLB_ID_ID : Fld := ⟨0x00000000, 0, 32, .ro, 1163284792, .backup⟩

/-- R616, bits 0 to 7: GLB_STEP.DIGIT. -/
def R.GLB_STEP_DIGIT : Fld := ⟨0x00000004, 0, 8, .ro, 49, .backup⟩

/-- R616, bits 8 to 15: GLB_STEP.LETTER. -/
def R.GLB_STEP_LETTER : Fld := ⟨0x00000004, 8, 8, .ro, 66, .backup⟩

/-- R616, bits 0 to 0: GLB_STAT.MEDIA. -/
def R.GLB_STAT_MEDIA : Fld := ⟨0x00000008, 0, 1, .ro, 0, .main⟩

/-- R616, bits 1 to 1: GLB_STAT.IMG_ACTIVE. -/
def R.GLB_STAT_IMG_ACTIVE : Fld := ⟨0x00000008, 1, 1, .ro, 0, .main⟩

/-- R616, bits 2 to 2: GLB_STAT.RECOVERY. -/
def R.GLB_STAT_RECOVERY : Fld := ⟨0x00000008, 2, 1, .ro, 0, .main⟩

/-- R616, bits 3 to 3: GLB_STAT.TIME_VALID. -/
def R.GLB_STAT_TIME_VALID : Fld := ⟨0x00000008, 3, 1, .ro, 0, .keep⟩

/-- R616, bits 4 to 4: GLB_STAT.ORIGIN. -/
def R.GLB_STAT_ORIGIN : Fld := ⟨0x00000008, 4, 1, .ro, 0, .keep⟩

/-- R616, bits 5 to 5: GLB_STAT.FAULT. -/
def R.GLB_STAT_FAULT : Fld := ⟨0x00000008, 5, 1, .ro, 0, .main⟩

/-- R616, bits 6 to 6: GLB_STAT.ALERT. -/
def R.GLB_STAT_ALERT : Fld := ⟨0x00000008, 6, 1, .ro, 0, .main⟩

/-- R616, bits 7 to 7: GLB_STAT.DEBUG. -/
def R.GLB_STAT_DEBUG : Fld := ⟨0x00000008, 7, 1, .ro, 0, .main⟩

/-- R616, bits 8 to 9: GLB_STAT.PSTATE. -/
def R.GLB_STAT_PSTATE : Fld := ⟨0x00000008, 8, 2, .ro, 0, .main⟩

/-- R616, bits 10 to 10: GLB_STAT.CAL_DEFAULTS. -/
def R.GLB_STAT_CAL_DEFAULTS : Fld := ⟨0x00000008, 10, 1, .ro, 1, .keep⟩

/-- R616, bits 11 to 11: GLB_STAT.OPT_FAULT. -/
def R.GLB_STAT_OPT_FAULT : Fld := ⟨0x00000008, 11, 1, .ro, 0, .main⟩

/-- R616, bits 0 to 7: GLB_SW_EVT.CODE. -/
def R.GLB_SW_EVT_CODE : Fld := ⟨0x0000000C, 0, 8, .rw, 0, .main⟩

/-- R616, bits 0 to 31: GLB_DB_H2F.MSG. -/
def R.GLB_DB_H2F_MSG : Fld := ⟨0x00000010, 0, 32, .rw, 0, .main⟩

/-- R616, bits 0 to 31: GLB_DB_F2H.MSG. -/
def R.GLB_DB_F2H_MSG : Fld := ⟨0x00000014, 0, 32, .rw, 0, .main⟩

/-- R616, bits 0 to 0: GLB_REQ.FW. -/
def R.GLB_REQ_FW : Fld := ⟨0x00000018, 0, 1, .ro, 0, .main⟩

/-- R616, bits 0 to 31: GLB_SERIAL.B. -/
def R.GLB_SERIAL_B (k : Nat) : Fld := ⟨0x00000020 + 4 * k, 0, 32, .ro, 0, .main⟩

/-- R546, bits 0 to 0: RST_STAT.KA_VALID. -/
def R.RST_STAT_KA_VALID : Fld := ⟨0x00010000, 0, 1, .ro, 0, .keep⟩

/-- R546, bits 1 to 1: RST_STAT.RES_UNVER. -/
def R.RST_STAT_RES_UNVER : Fld := ⟨0x00010000, 1, 1, .ro, 0, .keep⟩

/-- R546, bits 2 to 2: RST_STAT.OPT_FAULT. -/
def R.RST_STAT_OPT_FAULT : Fld := ⟨0x00010000, 2, 1, .ro, 0, .main⟩

/-- R546, bits 3 to 3: RST_STAT.RECOVERY. -/
def R.RST_STAT_RECOVERY : Fld := ⟨0x00010000, 3, 1, .ro, 0, .main⟩

/-- R546, bits 4 to 4: RST_STAT.VBAT_LOST. -/
def R.RST_STAT_VBAT_LOST : Fld := ⟨0x00010000, 4, 1, .rws, 1, .backup⟩

/-- R546, bits 5 to 5: RST_STAT.RECOV_NEXT. -/
def R.RST_STAT_RECOV_NEXT : Fld := ⟨0x00010000, 5, 1, .ro, 0, .backup⟩

/-- R546, bits 6 to 6: RST_STAT.SCRUB_BUSY. -/
def R.RST_STAT_SCRUB_BUSY : Fld := ⟨0x00010000, 6, 1, .ro, 0, .main⟩

/-- R546, bits 7 to 7: RST_STAT.WDOG_N. -/
def R.RST_STAT_WDOG_N : Fld := ⟨0x00010000, 7, 1, .ro, 0, .main⟩

/-- R546, bits 0 to 1: RST_CAUSE.KIND. -/
def R.RST_CAUSE_KIND : Fld := ⟨0x00010004, 0, 2, .ro, 0, .backupC⟩

/-- R546, bits 2 to 2: RST_CAUSE.WDOG. -/
def R.RST_CAUSE_WDOG : Fld := ⟨0x00010004, 2, 1, .ro, 0, .backupC⟩

/-- R546, bits 3 to 3: RST_CAUSE.KEEP_DENIED. -/
def R.RST_CAUSE_KEEP_DENIED : Fld := ⟨0x00010004, 3, 1, .ro, 0, .backupC⟩

/-- R546, bits 4 to 4: RST_CAUSE.D2_EXIT. -/
def R.RST_CAUSE_D2_EXIT : Fld := ⟨0x00010004, 4, 1, .ro, 0, .backupC⟩

/-- R546, bits 0 to 15: RST_COUNT.COUNT. -/
def R.RST_COUNT_COUNT : Fld := ⟨0x00010008, 0, 16, .ro, 0, .backup⟩

/-- R546, bits 16 to 19: RST_COUNT.THRESH. -/
def R.RST_COUNT_THRESH : Fld := ⟨0x00010008, 16, 4, .ro, 4, .main⟩

/-- R545, bits 0 to 3: RST_CMD.OP. -/
def R.RST_CMD_OP : Fld := ⟨0x0001000C, 0, 4, .wo, 0, .main⟩

/-- R545, bits 4 to 4: RST_CMD.BUSY. -/
def R.RST_CMD_BUSY : Fld := ⟨0x0001000C, 4, 1, .ro, 0, .main⟩

/-- R545, bits 5 to 5: RST_CMD.ERR. -/
def R.RST_CMD_ERR : Fld := ⟨0x0001000C, 5, 1, .rws, 0, .main⟩

/-- R545, bits 6 to 7: RST_CMD.ERR_CODE. -/
def R.RST_CMD_ERR_CODE : Fld := ⟨0x0001000C, 6, 2, .ro, 0, .main⟩

/-- R547, bits 0 to 1: RST_PWR.STATE. -/
def R.RST_PWR_STATE : Fld := ⟨0x00010010, 0, 2, .ro, 0, .main⟩

/-- R547, bits 2 to 2: RST_PWR.PEND. -/
def R.RST_PWR_PEND : Fld := ⟨0x00010010, 2, 1, .ro, 0, .main⟩

/-- R547, bits 0 to 0: RST_WDOG_CTL.EN. -/
def R.RST_WDOG_CTL_EN : Fld := ⟨0x00010018, 0, 1, .ro, 0, .main⟩

/-- R547, bits 1 to 1: RST_WDOG_CTL.WARNED. -/
def R.RST_WDOG_CTL_WARNED : Fld := ⟨0x00010018, 1, 1, .ro, 0, .main⟩

/-- R547, bits 4 to 19: RST_WDOG_CTL.TIMEOUT. -/
def R.RST_WDOG_CTL_TIMEOUT : Fld := ⟨0x00010018, 4, 16, .rw, 0, .main⟩

/-- R547, bits 0 to 15: RST_WDOG_KICK.KEY. -/
def R.RST_WDOG_KICK_KEY : Fld := ⟨0x0001001C, 0, 16, .wo, 0, .main⟩

/-- R547, bits 0 to 13: RST_BRST.BRST. -/
def R.RST_BRST_BRST : Fld := ⟨0x00010020, 0, 14, .rw, 0, .main⟩

/-- R547, bits 0 to 13: RST_HELD.BLK. -/
def R.RST_HELD_BLK : Fld := ⟨0x00010024, 0, 14, .ro, 0, .main⟩

/-- R547, bits 16 to 16: RST_HELD.CELL. -/
def R.RST_HELD_CELL : Fld := ⟨0x00010024, 16, 1, .ro, 0, .main⟩

/-- R547, bits 17 to 17: RST_HELD.TDM. -/
def R.RST_HELD_TDM : Fld := ⟨0x00010024, 17, 1, .ro, 0, .main⟩

/-- R547, bits 18 to 18: RST_HELD.DDR_A. -/
def R.RST_HELD_DDR_A : Fld := ⟨0x00010024, 18, 1, .ro, 0, .keep⟩

/-- R547, bits 19 to 19: RST_HELD.DDR_B. -/
def R.RST_HELD_DDR_B : Fld := ⟨0x00010024, 19, 1, .ro, 0, .keep⟩

/-- R547, bits 20 to 20: RST_HELD.PCIE. -/
def R.RST_HELD_PCIE : Fld := ⟨0x00010024, 20, 1, .ro, 0, .main⟩

/-- R547, bits 21 to 21: RST_HELD.TICK. -/
def R.RST_HELD_TICK : Fld := ⟨0x00010024, 21, 1, .ro, 0, .main⟩

/-- R547, bits 0 to 2: RST_RECOV.CAUSE. -/
def R.RST_RECOV_CAUSE : Fld := ⟨0x00010028, 0, 3, .ro, 0, .main⟩

/-- R547, bits 0 to 31: RST_OPT.B. -/
def R.RST_OPT_B (k : Nat) : Fld := ⟨0x00010100 + 4 * k, 0, 32, .ro, 0, .main⟩

/-- R547, bits 0 to 7: RST_OPT_STAT.FAIL. -/
def R.RST_OPT_STAT_FAIL : Fld := ⟨0x00010300, 0, 8, .ro, 0, .main⟩

/-- R547, bits 8 to 15: RST_OPT_STAT.BLANK. -/
def R.RST_OPT_STAT_BLANK : Fld := ⟨0x00010300, 8, 8, .ro, 0, .main⟩

/-- R547, bits 16 to 31: RST_OPT_STAT.CE. -/
def R.RST_OPT_STAT_CE : Fld := ⟨0x00010300, 16, 16, .ro, 0, .main⟩

/-- R568, bits 0 to 15: CAL_CTL.PERIOD_S. -/
def R.CAL_CTL_PERIOD_S : Fld := ⟨0x00020000, 0, 16, .rw, 3600, .keep⟩

/-- R568, bits 16 to 16: CAL_CTL.AUTO_AGED. -/
def R.CAL_CTL_AUTO_AGED : Fld := ⟨0x00020000, 16, 1, .rw, 1, .keep⟩

/-- R568, bits 0 to 5: CAL_STAT.REQ. -/
def R.CAL_STAT_REQ : Fld := ⟨0x00020004, 0, 6, .ro, 0, .keep⟩

/-- R568, bits 6 to 11: CAL_STAT.AGED. -/
def R.CAL_STAT_AGED : Fld := ⟨0x00020004, 6, 6, .ro, 0, .keep⟩

/-- R568, bits 12 to 17: CAL_STAT.STALE. -/
def R.CAL_STAT_STALE : Fld := ⟨0x00020004, 12, 6, .ro, 0, .keep⟩

/-- R568, bits 18 to 18: CAL_STAT.RUNNING. -/
def R.CAL_STAT_RUNNING : Fld := ⟨0x00020004, 18, 1, .ro, 0, .keep⟩

/-- R568, bits 19 to 22: CAL_STAT.PRECOND. -/
def R.CAL_STAT_PRECOND : Fld := ⟨0x00020004, 19, 4, .rws, 0, .keep⟩

/-- R568, bits 23 to 23: CAL_STAT.DEFAULTS. -/
def R.CAL_STAT_DEFAULTS : Fld := ⟨0x00020004, 23, 1, .ro, 1, .keep⟩

/-- R568, bits 0 to 5: CAL_QW.TRIG. -/
def R.CAL_QW_TRIG : Fld := ⟨0x00020008, 0, 6, .rw, 0, .keep⟩

/-- R568, bits 6 to 6: CAL_QW.EN. -/
def R.CAL_QW_EN : Fld := ⟨0x00020008, 6, 1, .rw, 0, .keep⟩

/-- R568, bits 7 to 14: CAL_QW.STROKES. -/
def R.CAL_QW_STROKES : Fld := ⟨0x00020008, 7, 8, .rw, 0, .keep⟩

/-- R567, bits 0 to 3: CAL_CMD.OP. -/
def R.CAL_CMD_OP : Fld := ⟨0x00020010, 0, 4, .wo, 0, .main⟩

/-- R567, bits 4 to 4: CAL_CMD.BUSY. -/
def R.CAL_CMD_BUSY : Fld := ⟨0x00020010, 4, 1, .ro, 0, .main⟩

/-- R567, bits 5 to 5: CAL_CMD.ERR. -/
def R.CAL_CMD_ERR : Fld := ⟨0x00020010, 5, 1, .rws, 0, .main⟩

/-- R567, bits 6 to 7: CAL_CMD.ERR_CODE. -/
def R.CAL_CMD_ERR_CODE : Fld := ⟨0x00020010, 6, 2, .ro, 0, .main⟩

/-- R568, bits 0 to 5: CAL_ARG.MASK. -/
def R.CAL_ARG_MASK : Fld := ⟨0x00020014, 0, 6, .rw, 0, .main⟩

/-- R568, bits 0 to 2: CAL_IDX.TGT. -/
def R.CAL_IDX_TGT : Fld := ⟨0x00020018, 0, 3, .rw, 0, .main⟩

/-- R568, bits 0 to 31: CAL_DATA.D. -/
def R.CAL_DATA_D (k : Nat) : Fld := ⟨0x00020040 + 4 * k, 0, 32, .ro, 0, .main⟩

/-- R568, bits 0 to 11: CAL_CODE.REC. -/
def R.CAL_CODE_REC (k : Nat) : Fld := ⟨0x00020080 + 4 * k, 0, 12, .ro, calMaker k, .keep⟩

/-- R568, bits 12 to 23: CAL_CODE.APPLIED. -/
def R.CAL_CODE_APPLIED (k : Nat) : Fld := ⟨0x00020080 + 4 * k, 12, 12, .ro, calMaker k, .keep⟩

/-- R568, bits 24 to 24: CAL_CODE.STALE. -/
def R.CAL_CODE_STALE (k : Nat) : Fld := ⟨0x00020080 + 4 * k, 24, 1, .ro, 0, .keep⟩

/-- R568, bits 0 to 15: CAL_TEMP.T. -/
def R.CAL_TEMP_T (k : Nat) : Fld := ⟨0x00020100 + 4 * k, 0, 16, .ro, 0, .main⟩

/-- R568, bits 16 to 16: CAL_TEMP.STALE. -/
def R.CAL_TEMP_STALE (k : Nat) : Fld := ⟨0x00020100 + 4 * k, 16, 1, .ro, 0, .main⟩

/-- R568, bits 0 to 15: CAL_TMAX.T. -/
def R.CAL_TMAX_T : Fld := ⟨0x00020120, 0, 16, .ro, 0, .main⟩

/-- R568, bits 16 to 16: CAL_TMAX.STALE. -/
def R.CAL_TMAX_STALE : Fld := ⟨0x00020120, 16, 1, .ro, 0, .main⟩

/-- R568, bits 17 to 19: CAL_TMAX.SENSOR. -/
def R.CAL_TMAX_SENSOR : Fld := ⟨0x00020120, 17, 3, .ro, 0, .main⟩

/-- R568, bits 0 to 15: CAL_VOLT.MV. -/
def R.CAL_VOLT_MV (k : Nat) : Fld := ⟨0x00020140 + 4 * k, 0, 16, .ro, 0, .main⟩

/-- R568, bits 16 to 16: CAL_VOLT.STALE. -/
def R.CAL_VOLT_STALE (k : Nat) : Fld := ⟨0x00020140 + 4 * k, 16, 1, .ro, 0, .main⟩

/-- R568, bits 0 to 15: CAL_VTHR.LOW. -/
def R.CAL_VTHR_LOW (k : Nat) : Fld := ⟨0x00020180 + 4 * k, 0, 16, .rw, vthrLow k, .keep⟩

/-- R568, bits 16 to 31: CAL_VTHR.HIGH. -/
def R.CAL_VTHR_HIGH (k : Nat) : Fld := ⟨0x00020180 + 4 * k, 16, 16, .rw, vthrHigh k, .keep⟩

/-- R568, bits 0 to 7: CAL_TTHR.HI. -/
def R.CAL_TTHR_HI : Fld := ⟨0x000201C0, 0, 8, .rw, 115, .keep⟩

/-- R568, bits 8 to 15: CAL_TTHR.LO. -/
def R.CAL_TTHR_LO : Fld := ⟨0x000201C0, 8, 8, .rw, 206, .keep⟩

/-- R568, bits 0 to 15: CAL_XRES.MV. -/
def R.CAL_XRES_MV : Fld := ⟨0x000201C4, 0, 16, .ro, 0, .keep⟩

/-- R600, bits 0 to 0: SEC_STAT.HOST_OPER. -/
def R.SEC_STAT_HOST_OPER : Fld := ⟨0x00030000, 0, 1, .ro, 0, .main⟩

/-- R600, bits 1 to 1: SEC_STAT.DEBUG. -/
def R.SEC_STAT_DEBUG : Fld := ⟨0x00030000, 1, 1, .ro, 0, .main⟩

/-- R600, bits 2 to 2: SEC_STAT.ID_VALID. -/
def R.SEC_STAT_ID_VALID : Fld := ⟨0x00030000, 2, 1, .ro, 0, .main⟩

/-- R600, bits 3 to 3: SEC_STAT.ROTATED. -/
def R.SEC_STAT_ROTATED : Fld := ⟨0x00030000, 3, 1, .ro, 0, .main⟩

/-- R600, bits 4 to 7: SEC_STAT.TOK_RESULT. -/
def R.SEC_STAT_TOK_RESULT : Fld := ⟨0x00030000, 4, 4, .ro, 0, .main⟩

/-- R600, bits 8 to 10: SEC_STAT.HELD. -/
def R.SEC_STAT_HELD : Fld := ⟨0x00030000, 8, 3, .ro, 0, .main⟩

/-- R599, bits 0 to 3: SEC_CMD.OP. -/
def R.SEC_CMD_OP : Fld := ⟨0x00030004, 0, 4, .wo, 0, .main⟩

/-- R599, bits 4 to 4: SEC_CMD.BUSY. -/
def R.SEC_CMD_BUSY : Fld := ⟨0x00030004, 4, 1, .ro, 0, .main⟩

/-- R599, bits 5 to 5: SEC_CMD.ERR. -/
def R.SEC_CMD_ERR : Fld := ⟨0x00030004, 5, 1, .rws, 0, .main⟩

/-- R599, bits 6 to 8: SEC_CMD.ERR_CODE. -/
def R.SEC_CMD_ERR_CODE : Fld := ⟨0x00030004, 6, 3, .ro, 0, .main⟩

/-- R600, bits 0 to 1: SEC_IDX.ROLE. -/
def R.SEC_IDX_ROLE : Fld := ⟨0x00030008, 0, 2, .rw, 0, .main⟩

/-- R600, bits 0 to 16: SEC_SESSION.LEFT. -/
def R.SEC_SESSION_LEFT : Fld := ⟨0x00030010, 0, 17, .ro, 0, .main⟩

/-- R600, bits 0 to 31: SEC_CHAL.D. -/
def R.SEC_CHAL_D (k : Nat) : Fld := ⟨0x00030020 + 4 * k, 0, 32, .ro, 0, .main⟩

/-- R600, bits 0 to 31: SEC_KEY.D. -/
def R.SEC_KEY_D (k : Nat) : Fld := ⟨0x00030060 + 4 * k, 0, 32, .rw, 0, .main⟩

/-- R600, bits 0 to 31: SEC_TOKEN.D. -/
def R.SEC_TOKEN_D (k : Nat) : Fld := ⟨0x00030100 + 4 * k, 0, 32, .rw, 0, .main⟩

/-- R600, bits 0 to 31: SEC_ARG.D. -/
def R.SEC_ARG_D (k : Nat) : Fld := ⟨0x00030240 + 4 * k, 0, 32, .rw, 0, .main⟩

/-- R600, bits 0 to 31: SEC_ID_PUB.D. -/
def R.SEC_ID_PUB_D (k : Nat) : Fld := ⟨0x00030300 + 4 * k, 0, 32, .ro, 0, .main⟩

/-- R600, bits 0 to 31: SEC_NONCE.D. -/
def R.SEC_NONCE_D (k : Nat) : Fld := ⟨0x00030380 + 4 * k, 0, 32, .rw, 0, .main⟩

/-- R600, bits 0 to 31: SEC_REPORT.D. -/
def R.SEC_REPORT_D (k : Nat) : Fld := ⟨0x00030400 + 4 * k, 0, 32, .ro, 0, .main⟩

/-- R600, bits 0 to 31: SEC_AUD_D.D. -/
def R.SEC_AUD_D_D (k : Nat) : Fld := ⟨0x00030600 + 4 * k, 0, 32, .ro, 0, .keep⟩

/-- R600, bits 0 to 5: SEC_AUD_STAT.LEVEL. -/
def R.SEC_AUD_STAT_LEVEL : Fld := ⟨0x000306E0, 0, 6, .ro, 0, .keep⟩

/-- R600, bits 16 to 31: SEC_AUD_STAT.LOST. -/
def R.SEC_AUD_STAT_LOST : Fld := ⟨0x000306E0, 16, 16, .ro, 0, .backup⟩

/-- R600, bits 0 to 31: SEC_AUD_HEAD.D. -/
def R.SEC_AUD_HEAD_D (k : Nat) : Fld := ⟨0x00030700 + 4 * k, 0, 32, .ro, 0, .backup⟩

/-- R600, bits 0 to 31: SEC_CNT.COUNT. -/
def R.SEC_CNT_COUNT (k : Nat) : Fld := ⟨0x00030740 + 4 * k, 0, 32, .rc, 0, .main⟩

/-- R618, bits 0 to 3: EVT_CTL.CORE_EN. -/
def R.EVT_CTL_CORE_EN : Fld := ⟨0x00040000, 0, 4, .rw, 0, .main⟩

/-- R618, bits 4 to 4: EVT_CTL.MSIX_EN. -/
def R.EVT_CTL_MSIX_EN : Fld := ⟨0x00040000, 4, 1, .rw, 0, .main⟩

/-- R618, bits 5 to 5: EVT_CTL.ALERT_EN. -/
def R.EVT_CTL_ALERT_EN : Fld := ⟨0x00040000, 5, 1, .rw, 0, .main⟩

/-- R618, bits 0 to 3: EVT_STAT.CORE_IRQ. -/
def R.EVT_STAT_CORE_IRQ : Fld := ⟨0x00040004, 0, 4, .ro, 0, .main⟩

/-- R618, bits 4 to 4: EVT_STAT.ALERT. -/
def R.EVT_STAT_ALERT : Fld := ⟨0x00040004, 4, 1, .ro, 0, .main⟩

/-- R618, bits 5 to 5: EVT_STAT.INJ_ERR. -/
def R.EVT_STAT_INJ_ERR : Fld := ⟨0x00040004, 5, 1, .rws, 0, .main⟩

/-- R618, bits 6 to 6: EVT_STAT.MSG_HELD. -/
def R.EVT_STAT_MSG_HELD : Fld := ⟨0x00040004, 6, 1, .ro, 0, .main⟩

/-- R618, bits 0 to 7: EVT_INJECT.EVENT. -/
def R.EVT_INJECT_EVENT : Fld := ⟨0x00040008, 0, 8, .wo, 0, .main⟩

/-- R618, bits 0 to 7: EVT_LAST.EVENT. -/
def R.EVT_LAST_EVENT : Fld := ⟨0x0004000C, 0, 8, .ro, 0, .main⟩

/-- R618, bits 8 to 31: EVT_LAST.STROKE. -/
def R.EVT_LAST_STROKE : Fld := ⟨0x0004000C, 8, 24, .ro, 0, .main⟩

/-- R618, bits 0 to 31: EVT_TOTAL.COUNT. -/
def R.EVT_TOTAL_COUNT : Fld := ⟨0x00040010, 0, 32, .rc, 0, .main⟩

/-- R618, bits 0 to 31: EVT_INJ_CNT.COUNT. -/
def R.EVT_INJ_CNT_COUNT : Fld := ⟨0x00040014, 0, 32, .rc, 0, .main⟩

/-- R618, bits 0 to 8: EVT_CORE_NEXT.EVENT. -/
def R.EVT_CORE_NEXT_EVENT (k : Nat) : Fld := ⟨0x00040020 + 4 * k, 0, 9, .ro, 256, .main⟩

/-- R618, bits 0 to 8: EVT_HOST_NEXT.EVENT. -/
def R.EVT_HOST_NEXT_EVENT : Fld := ⟨0x00040030, 0, 9, .ro, 256, .main⟩

/-- R618, bits 0 to 31: EVT_RAW.BITS. -/
def R.EVT_RAW_BITS (k : Nat) : Fld := ⟨0x00040100 + 4 * k, 0, 32, .w1c, 0, .main⟩

/-- R618, bits 0 to 31: EVT_CPEND.BITS. -/
def R.EVT_CPEND_BITS (n k : Nat) : Fld := ⟨0x00040120 + 32 * n + 4 * k, 0, 32, .w1c, 0, .main⟩

/-- R618, bits 0 to 31: EVT_HPEND.BITS. -/
def R.EVT_HPEND_BITS (k : Nat) : Fld := ⟨0x000401A0 + 4 * k, 0, 32, .w1c, 0, .main⟩

/-- R618, bits 0 to 31: EVT_APEND.BITS. -/
def R.EVT_APEND_BITS (k : Nat) : Fld := ⟨0x000401C0 + 4 * k, 0, 32, .w1c, 0, .main⟩

/-- R617, bits 0 to 3: EVT_ROUTE.CORES. -/
def R.EVT_ROUTE_CORES (k : Nat) : Fld := ⟨0x00040400 + 4 * k, 0, 4, .rw, 0, .main⟩

/-- R617, bits 4 to 11: EVT_ROUTE.VEC. -/
def R.EVT_ROUTE_VEC (k : Nat) : Fld := ⟨0x00040400 + 4 * k, 4, 8, .rw, 0, .main⟩

/-- R617, bits 12 to 12: EVT_ROUTE.MSIX. -/
def R.EVT_ROUTE_MSIX (k : Nat) : Fld := ⟨0x00040400 + 4 * k, 12, 1, .rw, 0, .main⟩

/-- R617, bits 13 to 13: EVT_ROUTE.ALERT. -/
def R.EVT_ROUTE_ALERT (k : Nat) : Fld := ⟨0x00040400 + 4 * k, 13, 1, .rw, 0, .main⟩

/-- R600, bits 0 to 0: SUMP_STAT.FROZEN. -/
def R.SUMP_STAT_FROZEN : Fld := ⟨0x00050000, 0, 1, .ro, 0, .backup⟩

/-- R600, bits 1 to 3: SUMP_STAT.CAUSE. -/
def R.SUMP_STAT_CAUSE : Fld := ⟨0x00050000, 1, 3, .ro, 0, .backup⟩

/-- R600, bits 4 to 4: SUMP_STAT.FAULT. -/
def R.SUMP_STAT_FAULT : Fld := ⟨0x00050000, 4, 1, .ro, 0, .main⟩

/-- R600, bits 8 to 15: SUMP_STAT.FREEZE_CNT. -/
def R.SUMP_STAT_FREEZE_CNT : Fld := ⟨0x00050000, 8, 8, .ro, 0, .backup⟩

/-- R599, bits 0 to 3: SUMP_CMD.OP. -/
def R.SUMP_CMD_OP : Fld := ⟨0x00050004, 0, 4, .wo, 0, .main⟩

/-- R599, bits 4 to 4: SUMP_CMD.BUSY. -/
def R.SUMP_CMD_BUSY : Fld := ⟨0x00050004, 4, 1, .ro, 0, .main⟩

/-- R599, bits 5 to 5: SUMP_CMD.ERR. -/
def R.SUMP_CMD_ERR : Fld := ⟨0x00050004, 5, 1, .rws, 0, .main⟩

/-- R599, bits 6 to 7: SUMP_CMD.ERR_CODE. -/
def R.SUMP_CMD_ERR_CODE : Fld := ⟨0x00050004, 6, 2, .ro, 0, .main⟩

/-- R600, bits 0 to 11: SUMP_RD_IDX.IDX. -/
def R.SUMP_RD_IDX_IDX : Fld := ⟨0x00050008, 0, 12, .rw, 0, .main⟩

/-- R600, bits 0 to 31: SUMP_D.D. -/
def R.SUMP_D_D (k : Nat) : Fld := ⟨0x00050010 + 4 * k, 0, 32, .ro, 0, .backup⟩

/-- R600, bits 0 to 11: SUMP_WP.IDX. -/
def R.SUMP_WP_IDX : Fld := ⟨0x00050020, 0, 12, .ro, 0, .backup⟩

/-- R600, bits 12 to 12: SUMP_WP.WRAPPED. -/
def R.SUMP_WP_WRAPPED : Fld := ⟨0x00050020, 12, 1, .ro, 0, .backup⟩

/-- R600, bits 0 to 11: SUMP_FREEZE.IDX. -/
def R.SUMP_FREEZE_IDX : Fld := ⟨0x00050024, 0, 12, .ro, 0, .backup⟩

/-- R600, bits 12 to 20: SUMP_FREEZE.USED. -/
def R.SUMP_FREEZE_USED : Fld := ⟨0x00050024, 12, 9, .ro, 0, .backup⟩

/-- R600, bits 0 to 31: SUMP_TOTAL.N. -/
def R.SUMP_TOTAL_N : Fld := ⟨0x00050028, 0, 32, .ro, 0, .backup⟩

/-- R600, bits 0 to 31: SUMP_DROPPED.N. -/
def R.SUMP_DROPPED_N : Fld := ⟨0x0005002C, 0, 32, .ro, 0, .backup⟩

/-- R600, bits 0 to 31: SUMP_FATAL.MASK. -/
def R.SUMP_FATAL_MASK (k : Nat) : Fld := ⟨0x00050040 + 4 * k, 0, 32, .rw, 0, .main⟩

/-- R82, bits 0 to 0: STK_CTL.EN. -/
def R.STK_CTL_EN : Fld := ⟨0x00100000, 0, 1, .w1s, 0, .keep⟩

/-- R82, bits 1 to 1: STK_CTL.MEDIA. -/
def R.STK_CTL_MEDIA : Fld := ⟨0x00100000, 1, 1, .ro, 0, .main⟩

/-- R82, bits 4 to 7: STK_CTL.TICK_DIV. -/
def R.STK_CTL_TICK_DIV : Fld := ⟨0x00100000, 4, 4, .rw, 13, .keep⟩

/-- R82, bits 8 to 8: STK_CTL.REORIGIN. -/
def R.STK_CTL_REORIGIN : Fld := ⟨0x00100000, 8, 1, .wo, 0, .main⟩

/-- R83, bits 0 to 0: STK_STAT.RUNNING. -/
def R.STK_STAT_RUNNING : Fld := ⟨0x00100004, 0, 1, .ro, 0, .keep⟩

/-- R83, bits 1 to 1: STK_STAT.ALIGNED. -/
def R.STK_STAT_ALIGNED : Fld := ⟨0x00100004, 1, 1, .ro, 0, .keep⟩

/-- R83, bits 2 to 2: STK_STAT.ALIGN_LOST. -/
def R.STK_STAT_ALIGN_LOST : Fld := ⟨0x00100004, 2, 1, .rws, 0, .keep⟩

/-- R83, bits 3 to 3: STK_STAT.CLK_INVALID. -/
def R.STK_STAT_CLK_INVALID : Fld := ⟨0x00100004, 3, 1, .ro, 0, .keep⟩

/-- R83, bits 4 to 4: STK_STAT.BP. -/
def R.STK_STAT_BP : Fld := ⟨0x00100004, 4, 1, .ro, 0, .main⟩

/-- R86, bits 0 to 16: STK_PHASE_NS.NS. -/
def R.STK_PHASE_NS_NS : Fld := ⟨0x00100008, 0, 17, .rw, 0, .keep⟩

/-- R86, bits 0 to 15: STK_PHASE_SUB.SUB. -/
def R.STK_PHASE_SUB_SUB : Fld := ⟨0x0010000C, 0, 16, .rw, 0, .keep⟩

/-- R86, bits 0 to 31: STK_NUM_LO.NUM. -/
def R.STK_NUM_LO_NUM : Fld := ⟨0x00100010, 0, 32, .ro, 0, .keep⟩

/-- R86, bits 0 to 31: STK_NUM_HI.NUM. -/
def R.STK_NUM_HI_NUM : Fld := ⟨0x00100014, 0, 32, .ro, 0, .keep⟩

/-- R86, bits 0 to 17: STK_CC.CC. -/
def R.STK_CC_CC : Fld := ⟨0x00100018, 0, 18, .ro, 0, .keep⟩

/-- R84, bits 0 to 15: STK_ALIGN.WINDOW. -/
def R.STK_ALIGN_WINDOW : Fld := ⟨0x0010001C, 0, 16, .rw, 1000, .keep⟩

/-- R84, bits 16 to 23: STK_ALIGN.SLEW. -/
def R.STK_ALIGN_SLEW : Fld := ⟨0x0010001C, 16, 8, .rw, 10, .keep⟩

/-- R86, bits 0 to 31: STK_ALIGN_ERR.ERR. -/
def R.STK_ALIGN_ERR_ERR : Fld := ⟨0x00100020, 0, 32, .ro, 0, .keep⟩

/-- R86, bits 0 to 31: STK_NUM_BIAS.BIAS. -/
def R.STK_NUM_BIAS_BIAS : Fld := ⟨0x00100024, 0, 32, .ro, 0, .keep⟩

/-- R86, bits 0 to 16: STK_TASK_IDX.IDX. -/
def R.STK_TASK_IDX_IDX : Fld := ⟨0x00100030, 0, 17, .rw, 0, .main⟩

/-- R85, bits 0 to 3: STK_TASK_CMD.OP. -/
def R.STK_TASK_CMD_OP : Fld := ⟨0x00100034, 0, 4, .wo, 0, .main⟩

/-- R85, bits 4 to 4: STK_TASK_CMD.BUSY. -/
def R.STK_TASK_CMD_BUSY : Fld := ⟨0x00100034, 4, 1, .ro, 0, .main⟩

/-- R85, bits 5 to 5: STK_TASK_CMD.ERR. -/
def R.STK_TASK_CMD_ERR : Fld := ⟨0x00100034, 5, 1, .rws, 0, .main⟩

/-- R85, bits 6 to 7: STK_TASK_CMD.ERR_CODE. -/
def R.STK_TASK_CMD_ERR_CODE : Fld := ⟨0x00100034, 6, 2, .ro, 0, .main⟩

/-- R86, bits 0 to 31: STK_TASK_DATA.D. -/
def R.STK_TASK_DATA_D (k : Nat) : Fld := ⟨0x00100040 + 4 * k, 0, 32, .ro, 0, .main⟩

/-- R86, bits 0 to 11: STK_RL_HW.HW. -/
def R.STK_RL_HW_HW : Fld := ⟨0x00100060, 0, 12, .rw, 1792, .main⟩

/-- R86, bits 0 to 16: STK_LAST_FAULT.TASK. -/
def R.STK_LAST_FAULT_TASK : Fld := ⟨0x00100064, 0, 17, .ro, 0, .main⟩

/-- R86, bits 17 to 19: STK_LAST_FAULT.KIND. -/
def R.STK_LAST_FAULT_KIND : Fld := ⟨0x00100064, 17, 3, .ro, 0, .main⟩

/-- R86, bits 20 to 25: STK_LAST_FAULT.CELL. -/
def R.STK_LAST_FAULT_CELL : Fld := ⟨0x00100064, 20, 6, .ro, 0, .main⟩

/-- R86, bits 0 to 31: STK_CNT.COUNT. -/
def R.STK_CNT_COUNT (k : Nat) : Fld := ⟨0x00100080 + 4 * k, 0, 32, .rc, 0, .main⟩

/-- R86, bits 0 to 13: STK_CELL_FD.LEN. -/
def R.STK_CELL_FD_LEN (k : Nat) : Fld := ⟨0x00100400 + 4 * k, 0, 14, .ro, 0, .main⟩

/-- R86, bits 0 to 11: STK_CELL_RL.OCC. -/
def R.STK_CELL_RL_OCC (k : Nat) : Fld := ⟨0x00100500 + 4 * k, 0, 12, .ro, 0, .main⟩

/-- R86, bits 12 to 20: STK_CELL_RL.OCC_L. -/
def R.STK_CELL_RL_OCC_L (k : Nat) : Fld := ⟨0x00100500 + 4 * k, 12, 9, .ro, 0, .main⟩

/-- R507, bits 0 to 3: STK_IMG_CMD.OP. -/
def R.STK_IMG_CMD_OP : Fld := ⟨0x00100800, 0, 4, .wo, 0, .main⟩

/-- R507, bits 4 to 4: STK_IMG_CMD.BUSY. -/
def R.STK_IMG_CMD_BUSY : Fld := ⟨0x00100800, 4, 1, .ro, 0, .main⟩

/-- R507, bits 5 to 5: STK_IMG_CMD.ERR. -/
def R.STK_IMG_CMD_ERR : Fld := ⟨0x00100800, 5, 1, .rws, 0, .main⟩

/-- R507, bits 6 to 7: STK_IMG_CMD.ERR_CODE. -/
def R.STK_IMG_CMD_ERR_CODE : Fld := ⟨0x00100800, 6, 2, .ro, 0, .main⟩

/-- R508, bits 0 to 2: STK_IMG_STAT.SHADOW. -/
def R.STK_IMG_STAT_SHADOW : Fld := ⟨0x00100804, 0, 3, .ro, 0, .main⟩

/-- R508, bits 3 to 3: STK_IMG_STAT.ACTIVE. -/
def R.STK_IMG_STAT_ACTIVE : Fld := ⟨0x00100804, 3, 1, .ro, 0, .main⟩

/-- R508, bits 4 to 4: STK_IMG_STAT.MISSED. -/
def R.STK_IMG_STAT_MISSED : Fld := ⟨0x00100804, 4, 1, .rws, 0, .keep⟩

/-- R508, bits 5 to 8: STK_IMG_STAT.LOAD_CODE. -/
def R.STK_IMG_STAT_LOAD_CODE : Fld := ⟨0x00100804, 5, 4, .ro, 0, .main⟩

/-- R508, bits 0 to 31: STK_IMG_SRC_LO.A. -/
def R.STK_IMG_SRC_LO_A : Fld := ⟨0x00100808, 0, 32, .rw, 0, .main⟩

/-- R508, bits 0 to 3: STK_IMG_SRC_HI.A. -/
def R.STK_IMG_SRC_HI_A : Fld := ⟨0x0010080C, 0, 4, .rw, 0, .main⟩

/-- R508, bits 0 to 28: STK_IMG_LEN.BYTES. -/
def R.STK_IMG_LEN_BYTES : Fld := ⟨0x00100810, 0, 29, .rw, 0, .main⟩

/-- R508, bits 0 to 31: STK_IMG_STROKE_LO.N. -/
def R.STK_IMG_STROKE_LO_N : Fld := ⟨0x00100814, 0, 32, .rw, 0, .main⟩

/-- R508, bits 0 to 31: STK_IMG_STROKE_HI.N. -/
def R.STK_IMG_STROKE_HI_N : Fld := ⟨0x00100818, 0, 32, .rw, 0, .main⟩

/-- R508, bits 0 to 7: STK_IMG_ERR.SECTION. -/
def R.STK_IMG_ERR_SECTION : Fld := ⟨0x0010081C, 0, 8, .ro, 0, .main⟩

/-- R508, bits 0 to 31: STK_IMG_ERR_OFS.OFS. -/
def R.STK_IMG_ERR_OFS_OFS : Fld := ⟨0x00100820, 0, 32, .ro, 0, .main⟩

/-- R508, bits 0 to 31: STK_IMG_ACT_ID.ID. -/
def R.STK_IMG_ACT_ID_ID : Fld := ⟨0x00100824, 0, 32, .ro, 0, .keep⟩

/-- R508, bits 0 to 31: STK_IMG_ACT_VER.VER. -/
def R.STK_IMG_ACT_VER_VER : Fld := ⟨0x00100828, 0, 32, .ro, 0, .keep⟩

/-- R508, bits 0 to 31: STK_IMG_SHD_ID.ID. -/
def R.STK_IMG_SHD_ID_ID : Fld := ⟨0x0010082C, 0, 32, .ro, 0, .main⟩

/-- R508, bits 0 to 31: STK_IMG_SHD_VER.VER. -/
def R.STK_IMG_SHD_VER_VER : Fld := ⟨0x00100830, 0, 32, .ro, 0, .main⟩

/-- R508, bits 0 to 31: STK_IMG_LAST_LO.N. -/
def R.STK_IMG_LAST_LO_N : Fld := ⟨0x00100834, 0, 32, .ro, 0, .keep⟩

/-- R508, bits 0 to 31: STK_IMG_LAST_HI.N. -/
def R.STK_IMG_LAST_HI_N : Fld := ⟨0x00100838, 0, 32, .ro, 0, .keep⟩

/-- R508, bits 0 to 31: STK_IMG_ACT_HASH.H. -/
def R.STK_IMG_ACT_HASH_H (k : Nat) : Fld := ⟨0x00100840 + 4 * k, 0, 32, .ro, 0, .keep⟩

/-- R508, bits 0 to 31: STK_IMG_SHD_HASH.H. -/
def R.STK_IMG_SHD_HASH_H (k : Nat) : Fld := ⟨0x00100880 + 4 * k, 0, 32, .ro, 0, .main⟩

/-- R125, bits 0 to 0: QF_STAT.CENSUS_OK. -/
def R.QF_STAT_CENSUS_OK : Fld := ⟨0x00200000, 0, 1, .ro, 0, .main⟩

/-- R125, bits 1 to 1: QF_STAT.ECC_UE. -/
def R.QF_STAT_ECC_UE : Fld := ⟨0x00200000, 1, 1, .rws, 0, .main⟩

/-- R125, bits 2 to 2: QF_STAT.ECC_CE. -/
def R.QF_STAT_ECC_CE : Fld := ⟨0x00200000, 2, 1, .rws, 0, .main⟩

/-- R125, bits 0 to 23: QF_ECC_ADDR.ADDR. -/
def R.QF_ECC_ADDR_ADDR : Fld := ⟨0x00200004, 0, 24, .ro, 0, .main⟩

/-- R125, bits 0 to 0: QF_CENSUS_CTL.FATAL. -/
def R.QF_CENSUS_CTL_FATAL : Fld := ⟨0x00200008, 0, 1, .rw, 0, .main⟩

/-- R125, bits 0 to 0: QF_CENSUS_STAT.DONE. -/
def R.QF_CENSUS_STAT_DONE : Fld := ⟨0x0020000C, 0, 1, .ro, 0, .main⟩

/-- R125, bits 1 to 1: QF_CENSUS_STAT.ERR. -/
def R.QF_CENSUS_STAT_ERR : Fld := ⟨0x0020000C, 1, 1, .rws, 0, .main⟩

/-- R125, bits 2 to 3: QF_CENSUS_STAT.KIND. -/
def R.QF_CENSUS_STAT_KIND : Fld := ⟨0x0020000C, 2, 2, .ro, 0, .main⟩

/-- R125, bits 0 to 31: QF_CENSUS_STROKE.NUM. -/
def R.QF_CENSUS_STROKE_NUM : Fld := ⟨0x00200010, 0, 32, .ro, 0, .main⟩

/-- R125, bits 0 to 15: QF_CENSUS_FIRST.ID. -/
def R.QF_CENSUS_FIRST_ID : Fld := ⟨0x00200014, 0, 16, .ro, 0, .main⟩

/-- R125, bits 0 to 31: QF_CENSUS_DELTA.D. -/
def R.QF_CENSUS_DELTA_D : Fld := ⟨0x00200018, 0, 32, .ro, 0, .main⟩

/-- R125, bits 0 to 31: QF_CENSUS_FAILS.COUNT. -/
def R.QF_CENSUS_FAILS_COUNT : Fld := ⟨0x0020001C, 0, 32, .rc, 0, .main⟩

/-- R125, bits 0 to 15: QF_LAST_Q.Q. -/
def R.QF_LAST_Q_Q : Fld := ⟨0x00200020, 0, 16, .ro, 0, .main⟩

/-- R125, bits 16 to 16: QF_LAST_Q.PTR. -/
def R.QF_LAST_Q_PTR : Fld := ⟨0x00200020, 16, 1, .ro, 0, .main⟩

/-- R123, bits 0 to 15: QF_QCMD.Q. -/
def R.QF_QCMD_Q : Fld := ⟨0x00200030, 0, 16, .rw, 0, .main⟩

/-- R123, bits 16 to 19: QF_QCMD.OP. -/
def R.QF_QCMD_OP : Fld := ⟨0x00200030, 16, 4, .wo, 0, .main⟩

/-- R123, bits 20 to 20: QF_QCMD.BUSY. -/
def R.QF_QCMD_BUSY : Fld := ⟨0x00200030, 20, 1, .ro, 0, .main⟩

/-- R123, bits 21 to 21: QF_QCMD.ERR. -/
def R.QF_QCMD_ERR : Fld := ⟨0x00200030, 21, 1, .rws, 0, .main⟩

/-- R123, bits 22 to 23: QF_QCMD.ERR_CODE. -/
def R.QF_QCMD_ERR_CODE : Fld := ⟨0x00200030, 22, 2, .ro, 0, .main⟩

/-- R125, bits 0 to 15: QF_QARG.SLOTS. -/
def R.QF_QARG_SLOTS : Fld := ⟨0x00200034, 0, 16, .rw, 0, .main⟩

/-- R124, bits 0 to 31: QF_QCNT.COUNT. -/
def R.QF_QCNT_COUNT (k : Nat) : Fld := ⟨0x00200040 + 4 * k, 0, 32, .ro, 0, .main⟩

/-- R177, bits 0 to 0: PKT_CTL.RX_EN. -/
def R.PKT_CTL_RX_EN : Fld := ⟨0x01000000, 0, 1, .rw, 0, .main⟩

/-- R177, bits 1 to 1: PKT_CTL.TX_EN. -/
def R.PKT_CTL_TX_EN : Fld := ⟨0x01000000, 1, 1, .rw, 0, .main⟩

/-- R177, bits 0 to 0: PKT_STAT.FIFO_DROP. -/
def R.PKT_STAT_FIFO_DROP : Fld := ⟨0x01000004, 0, 1, .rws, 0, .main⟩

/-- R177, bits 1 to 1: PKT_STAT.KEY_SOFT. -/
def R.PKT_STAT_KEY_SOFT : Fld := ⟨0x01000004, 1, 1, .rws, 0, .main⟩

/-- R177, bits 0 to 31: PKT_HASH_SEED.SEED. -/
def R.PKT_HASH_SEED_SEED : Fld := ⟨0x01000008, 0, 32, .ro, 0, .main⟩

/-- R176, bits 0 to 3: PKT_FS_CMD.OP. -/
def R.PKT_FS_CMD_OP : Fld := ⟨0x01000010, 0, 4, .wo, 0, .main⟩

/-- R176, bits 4 to 4: PKT_FS_CMD.BUSY. -/
def R.PKT_FS_CMD_BUSY : Fld := ⟨0x01000010, 4, 1, .ro, 0, .main⟩

/-- R176, bits 5 to 5: PKT_FS_CMD.ERR. -/
def R.PKT_FS_CMD_ERR : Fld := ⟨0x01000010, 5, 1, .rws, 0, .main⟩

/-- R176, bits 6 to 8: PKT_FS_CMD.ERR_CODE. -/
def R.PKT_FS_CMD_ERR_CODE : Fld := ⟨0x01000010, 6, 3, .ro, 0, .main⟩

/-- R177, bits 0 to 19: PKT_FS_IDX.IDX. -/
def R.PKT_FS_IDX_IDX : Fld := ⟨0x01000014, 0, 20, .rw, 0, .main⟩

/-- R177, bits 0 to 31: PKT_FS_DATA.D. -/
def R.PKT_FS_DATA_D (k : Nat) : Fld := ⟨0x01000020 + 4 * k, 0, 32, .rw, 0, .main⟩

/-- R177, bits 0 to 3: PKT_SC_CMD.OP. -/
def R.PKT_SC_CMD_OP : Fld := ⟨0x01000060, 0, 4, .wo, 0, .main⟩

/-- R177, bits 4 to 4: PKT_SC_CMD.BUSY. -/
def R.PKT_SC_CMD_BUSY : Fld := ⟨0x01000060, 4, 1, .ro, 0, .main⟩

/-- R177, bits 5 to 5: PKT_SC_CMD.ERR. -/
def R.PKT_SC_CMD_ERR : Fld := ⟨0x01000060, 5, 1, .rws, 0, .main⟩

/-- R177, bits 6 to 8: PKT_SC_CMD.ERR_CODE. -/
def R.PKT_SC_CMD_ERR_CODE : Fld := ⟨0x01000060, 6, 3, .ro, 0, .main⟩

/-- R177, bits 0 to 14: PKT_SC_IDX.IDX. -/
def R.PKT_SC_IDX_IDX : Fld := ⟨0x01000064, 0, 15, .rw, 0, .main⟩

/-- R177, bits 0 to 31: PKT_SC_DATA.D. -/
def R.PKT_SC_DATA_D (k : Nat) : Fld := ⟨0x01000080 + 4 * k, 0, 32, .rw, 0, .main⟩

/-- R177, bits 0 to 3: PKT_EG_CMD.OP. -/
def R.PKT_EG_CMD_OP : Fld := ⟨0x01000100, 0, 4, .wo, 0, .main⟩

/-- R177, bits 4 to 4: PKT_EG_CMD.BUSY. -/
def R.PKT_EG_CMD_BUSY : Fld := ⟨0x01000100, 4, 1, .ro, 0, .main⟩

/-- R177, bits 5 to 5: PKT_EG_CMD.ERR. -/
def R.PKT_EG_CMD_ERR : Fld := ⟨0x01000100, 5, 1, .rws, 0, .main⟩

/-- R177, bits 6 to 8: PKT_EG_CMD.ERR_CODE. -/
def R.PKT_EG_CMD_ERR_CODE : Fld := ⟨0x01000100, 6, 3, .ro, 0, .main⟩

/-- R177, bits 0 to 13: PKT_EG_IDX.IDX. -/
def R.PKT_EG_IDX_IDX : Fld := ⟨0x01000104, 0, 14, .rw, 0, .main⟩

/-- R177, bits 0 to 31: PKT_EG_DATA.D. -/
def R.PKT_EG_DATA_D (k : Nat) : Fld := ⟨0x01000140 + 4 * k, 0, 32, .ro, 0, .main⟩

/-- R177, bits 0 to 15: PKT_EXC_LIM.LIM. -/
def R.PKT_EXC_LIM_LIM (k : Nat) : Fld := ⟨0x01000180 + 4 * k, 0, 16, .ro, 0, .main⟩

/-- R177, bits 0 to 31: PKT_CNT.COUNT. -/
def R.PKT_CNT_COUNT (k : Nat) : Fld := ⟨0x01000200 + 4 * k, 0, 32, .rc, 0, .main⟩

/-- R179, bits 0 to 0: CIS_STAT.CENSUS_ERR. -/
def R.CIS_STAT_CENSUS_ERR : Fld := ⟨0x01400000, 0, 1, .rws, 0, .main⟩

/-- R179, bits 1 to 1: CIS_STAT.JUMP. -/
def R.CIS_STAT_JUMP : Fld := ⟨0x01400000, 1, 1, .rws, 0, .main⟩

/-- R178, bits 0 to 3: CIS_CMD.OP. -/
def R.CIS_CMD_OP : Fld := ⟨0x01400010, 0, 4, .wo, 0, .main⟩

/-- R178, bits 4 to 4: CIS_CMD.BUSY. -/
def R.CIS_CMD_BUSY : Fld := ⟨0x01400010, 4, 1, .ro, 0, .main⟩

/-- R178, bits 5 to 5: CIS_CMD.ERR. -/
def R.CIS_CMD_ERR : Fld := ⟨0x01400010, 5, 1, .rws, 0, .main⟩

/-- R178, bits 6 to 7: CIS_CMD.ERR_CODE. -/
def R.CIS_CMD_ERR_CODE : Fld := ⟨0x01400010, 6, 2, .ro, 0, .main⟩

/-- R179, bits 0 to 13: CIS_IDX.IDX. -/
def R.CIS_IDX_IDX : Fld := ⟨0x01400014, 0, 14, .rw, 0, .main⟩

/-- R179, bits 0 to 31: CIS_ARG.ARG. -/
def R.CIS_ARG_ARG : Fld := ⟨0x01400018, 0, 32, .rw, 0, .main⟩

/-- R179, bits 0 to 13: CIS_LAST.IDX. -/
def R.CIS_LAST_IDX : Fld := ⟨0x0140001C, 0, 14, .ro, 0, .main⟩

/-- R179, bits 0 to 31: CIS_DATA.D. -/
def R.CIS_DATA_D (k : Nat) : Fld := ⟨0x01400040 + 4 * k, 0, 32, .ro, 0, .main⟩

/-- R224, bits 0 to 0: CNV_STAT.PASS_OVR. -/
def R.CNV_STAT_PASS_OVR : Fld := ⟨0x01800000, 0, 1, .rws, 0, .main⟩

/-- R224, bits 1 to 1: CNV_STAT.COEF_UE. -/
def R.CNV_STAT_COEF_UE : Fld := ⟨0x01800000, 1, 1, .rws, 0, .main⟩

/-- R224, bits 2 to 2: CNV_STAT.COEF_CE. -/
def R.CNV_STAT_COEF_CE : Fld := ⟨0x01800000, 2, 1, .rws, 0, .main⟩

/-- R224, bits 3 to 3: CNV_STAT.CLIP. -/
def R.CNV_STAT_CLIP : Fld := ⟨0x01800000, 3, 1, .rws, 0, .main⟩

/-- R224, bits 4 to 4: CNV_STAT.COEF_ERR. -/
def R.CNV_STAT_COEF_ERR : Fld := ⟨0x01800000, 4, 1, .rws, 0, .main⟩

/-- R223, bits 0 to 3: CNV_CMD.OP. -/
def R.CNV_CMD_OP : Fld := ⟨0x01800010, 0, 4, .wo, 0, .main⟩

/-- R223, bits 4 to 4: CNV_CMD.BUSY. -/
def R.CNV_CMD_BUSY : Fld := ⟨0x01800010, 4, 1, .ro, 0, .main⟩

/-- R223, bits 5 to 5: CNV_CMD.ERR. -/
def R.CNV_CMD_ERR : Fld := ⟨0x01800010, 5, 1, .rws, 0, .main⟩

/-- R223, bits 6 to 7: CNV_CMD.ERR_CODE. -/
def R.CNV_CMD_ERR_CODE : Fld := ⟨0x01800010, 6, 2, .ro, 0, .main⟩

/-- R224, bits 0 to 12: CNV_IDX.IDX. -/
def R.CNV_IDX_IDX : Fld := ⟨0x01800014, 0, 13, .rw, 0, .main⟩

/-- R224, bits 0 to 31: CNV_ARG.ARG. -/
def R.CNV_ARG_ARG : Fld := ⟨0x01800018, 0, 32, .rw, 0, .main⟩

/-- R224, bits 0 to 31: CNV_ARG2.ARG. -/
def R.CNV_ARG2_ARG : Fld := ⟨0x0180001C, 0, 32, .rw, 0, .main⟩

/-- R224, bits 0 to 12: CNV_LAST.IDX. -/
def R.CNV_LAST_IDX : Fld := ⟨0x01800020, 0, 13, .ro, 0, .main⟩

/-- R224, bits 13 to 15: CNV_LAST.KIND. -/
def R.CNV_LAST_KIND : Fld := ⟨0x01800020, 13, 3, .ro, 0, .main⟩

/-- R224, bits 0 to 18: CNV_COEF_ADDR.ADDR. -/
def R.CNV_COEF_ADDR_ADDR : Fld := ⟨0x01800030, 0, 19, .rw, 0, .main⟩

/-- R224, bits 0 to 23: CNV_COEF_DATA.C. -/
def R.CNV_COEF_DATA_C : Fld := ⟨0x01800034, 0, 24, .wo, 0, .main⟩

/-- R224, bits 0 to 31: CNV_DATA.D. -/
def R.CNV_DATA_D (k : Nat) : Fld := ⟨0x01800040 + 4 * k, 0, 32, .ro, 0, .main⟩

/-- R224, bits 0 to 31: CNV_CNT.COUNT. -/
def R.CNV_CNT_COUNT (k : Nat) : Fld := ⟨0x01800080 + 4 * k, 0, 32, .rc, 0, .main⟩

/-- R271, bits 0 to 0: CELL_CTL.BRST. -/
def R.CELL_CTL_BRST (n : Nat) : Fld := ⟨0x01C00000 + 65536 * n, 0, 1, .rw, 0, .main⟩

/-- R271, bits 0 to 1: CELL_STAT.PWR. -/
def R.CELL_STAT_PWR (n : Nat) : Fld := ⟨0x01C00004 + 65536 * n, 0, 2, .ro, 0, .main⟩

/-- R271, bits 2 to 2: CELL_STAT.IN_RESET. -/
def R.CELL_STAT_IN_RESET (n : Nat) : Fld := ⟨0x01C00004 + 65536 * n, 2, 1, .ro, 0, .main⟩

/-- R271, bits 3 to 3: CELL_STAT.ISO_DONE. -/
def R.CELL_STAT_ISO_DONE (n : Nat) : Fld := ⟨0x01C00004 + 65536 * n, 3, 1, .ro, 0, .main⟩

/-- R271, bits 4 to 4: CELL_STAT.RUN. -/
def R.CELL_STAT_RUN (n : Nat) : Fld := ⟨0x01C00004 + 65536 * n, 4, 1, .ro, 0, .main⟩

/-- R271, bits 5 to 5: CELL_STAT.FD. -/
def R.CELL_STAT_FD (n : Nat) : Fld := ⟨0x01C00004 + 65536 * n, 5, 1, .ro, 0, .main⟩

/-- R271, bits 6 to 22: CELL_STAT.TASK. -/
def R.CELL_STAT_TASK (n : Nat) : Fld := ⟨0x01C00004 + 65536 * n, 6, 17, .ro, 0, .main⟩

/-- R272, bits 0 to 0: CELL_EVT_STAT.KERNEL_FAULT. -/
def R.CELL_EVT_STAT_KERNEL_FAULT (n : Nat) : Fld := ⟨0x01C00008 + 65536 * n, 0, 1, .w1c, 0, .main⟩

/-- R272, bits 1 to 1: CELL_EVT_STAT.AG_FAULT. -/
def R.CELL_EVT_STAT_AG_FAULT (n : Nat) : Fld := ⟨0x01C00008 + 65536 * n, 1, 1, .w1c, 0, .main⟩

/-- R272, bits 2 to 2: CELL_EVT_STAT.DMA_ERR. -/
def R.CELL_EVT_STAT_DMA_ERR (n : Nat) : Fld := ⟨0x01C00008 + 65536 * n, 2, 1, .w1c, 0, .main⟩

/-- R272, bits 3 to 3: CELL_EVT_STAT.ACC_OVF. -/
def R.CELL_EVT_STAT_ACC_OVF (n : Nat) : Fld := ⟨0x01C00008 + 65536 * n, 3, 1, .w1c, 0, .main⟩

/-- R272, bits 4 to 4: CELL_EVT_STAT.RED_SAT. -/
def R.CELL_EVT_STAT_RED_SAT (n : Nat) : Fld := ⟨0x01C00008 + 65536 * n, 4, 1, .w1c, 0, .main⟩

/-- R272, bits 5 to 5: CELL_EVT_STAT.LM_ECC_CE. -/
def R.CELL_EVT_STAT_LM_ECC_CE (n : Nat) : Fld := ⟨0x01C00008 + 65536 * n, 5, 1, .w1c, 0, .main⟩

/-- R272, bits 6 to 6: CELL_EVT_STAT.LM_ECC_UE. -/
def R.CELL_EVT_STAT_LM_ECC_UE (n : Nat) : Fld := ⟨0x01C00008 + 65536 * n, 6, 1, .w1c, 0, .main⟩

/-- R272, bits 7 to 7: CELL_EVT_STAT.CP_FORCED. -/
def R.CELL_EVT_STAT_CP_FORCED (n : Nat) : Fld := ⟨0x01C00008 + 65536 * n, 7, 1, .w1c, 0, .main⟩

/-- R272, bits 8 to 8: CELL_EVT_STAT.CONTRACT_ERR. -/
def R.CELL_EVT_STAT_CONTRACT_ERR (n : Nat) : Fld := ⟨0x01C00008 + 65536 * n, 8, 1, .w1c, 0, .main⟩

/-- R272, bits 9 to 9: CELL_EVT_STAT.KPACK_ERR. -/
def R.CELL_EVT_STAT_KPACK_ERR (n : Nat) : Fld := ⟨0x01C00008 + 65536 * n, 9, 1, .w1c, 0, .main⟩

/-- R272, bits 10 to 10: CELL_EVT_STAT.WAKE_DONE. -/
def R.CELL_EVT_STAT_WAKE_DONE (n : Nat) : Fld := ⟨0x01C00008 + 65536 * n, 10, 1, .w1c, 0, .main⟩

/-- R272, bits 0 to 0: CELL_EVT_EN.KERNEL_FAULT. -/
def R.CELL_EVT_EN_KERNEL_FAULT (n : Nat) : Fld := ⟨0x01C0000C + 65536 * n, 0, 1, .rw, 0, .main⟩

/-- R272, bits 1 to 1: CELL_EVT_EN.AG_FAULT. -/
def R.CELL_EVT_EN_AG_FAULT (n : Nat) : Fld := ⟨0x01C0000C + 65536 * n, 1, 1, .rw, 0, .main⟩

/-- R272, bits 2 to 2: CELL_EVT_EN.DMA_ERR. -/
def R.CELL_EVT_EN_DMA_ERR (n : Nat) : Fld := ⟨0x01C0000C + 65536 * n, 2, 1, .rw, 0, .main⟩

/-- R272, bits 3 to 3: CELL_EVT_EN.ACC_OVF. -/
def R.CELL_EVT_EN_ACC_OVF (n : Nat) : Fld := ⟨0x01C0000C + 65536 * n, 3, 1, .rw, 0, .main⟩

/-- R272, bits 4 to 4: CELL_EVT_EN.RED_SAT. -/
def R.CELL_EVT_EN_RED_SAT (n : Nat) : Fld := ⟨0x01C0000C + 65536 * n, 4, 1, .rw, 0, .main⟩

/-- R272, bits 5 to 5: CELL_EVT_EN.LM_ECC_CE. -/
def R.CELL_EVT_EN_LM_ECC_CE (n : Nat) : Fld := ⟨0x01C0000C + 65536 * n, 5, 1, .rw, 0, .main⟩

/-- R272, bits 6 to 6: CELL_EVT_EN.LM_ECC_UE. -/
def R.CELL_EVT_EN_LM_ECC_UE (n : Nat) : Fld := ⟨0x01C0000C + 65536 * n, 6, 1, .rw, 0, .main⟩

/-- R272, bits 7 to 7: CELL_EVT_EN.CP_FORCED. -/
def R.CELL_EVT_EN_CP_FORCED (n : Nat) : Fld := ⟨0x01C0000C + 65536 * n, 7, 1, .rw, 0, .main⟩

/-- R272, bits 8 to 8: CELL_EVT_EN.CONTRACT_ERR. -/
def R.CELL_EVT_EN_CONTRACT_ERR (n : Nat) : Fld := ⟨0x01C0000C + 65536 * n, 8, 1, .rw, 0, .main⟩

/-- R272, bits 9 to 9: CELL_EVT_EN.KPACK_ERR. -/
def R.CELL_EVT_EN_KPACK_ERR (n : Nat) : Fld := ⟨0x01C0000C + 65536 * n, 9, 1, .rw, 0, .main⟩

/-- R272, bits 10 to 10: CELL_EVT_EN.WAKE_DONE. -/
def R.CELL_EVT_EN_WAKE_DONE (n : Nat) : Fld := ⟨0x01C0000C + 65536 * n, 10, 1, .rw, 0, .main⟩

/-- R273, bits 0 to 11: CELL_ACC_OVF.LANES. -/
def R.CELL_ACC_OVF_LANES (n : Nat) : Fld := ⟨0x01C00010 + 65536 * n, 0, 12, .rws, 0, .main⟩

/-- R273, bits 0 to 16: CELL_LAST.TASK. -/
def R.CELL_LAST_TASK (n : Nat) : Fld := ⟨0x01C00014 + 65536 * n, 0, 17, .ro, 0, .main⟩

/-- R273, bits 17 to 20: CELL_LAST.CAUSE. -/
def R.CELL_LAST_CAUSE (n : Nat) : Fld := ⟨0x01C00014 + 65536 * n, 17, 4, .ro, 0, .main⟩

/-- R273, bits 0 to 14: CELL_ECC_ADDR.ADDR. -/
def R.CELL_ECC_ADDR_ADDR (n : Nat) : Fld := ⟨0x01C00018 + 65536 * n, 0, 15, .ro, 0, .main⟩

/-- R273, bits 0 to 14: CELL_LM_CODE.BASE. -/
def R.CELL_LM_CODE_BASE (n : Nat) : Fld := ⟨0x01C0001C + 65536 * n, 0, 15, .ro, 0, .main⟩

/-- R273, bits 0 to 31: CELL_PACK.ID. -/
def R.CELL_PACK_ID (n k : Nat) : Fld := ⟨0x01C00020 + 65536 * n + 4 * k, 0, 32, .ro, 0, .main⟩

/-- R273, bits 0 to 31: CELL_PACKV.VER. -/
def R.CELL_PACKV_VER (n k : Nat) : Fld := ⟨0x01C00040 + 65536 * n + 4 * k, 0, 32, .ro, 0, .main⟩

/-- R273, bits 0 to 14: CELL_LM_STATE.BASE. -/
def R.CELL_LM_STATE_BASE (n : Nat) : Fld := ⟨0x01C00060 + 65536 * n, 0, 15, .ro, 0, .main⟩

/-- R273, bits 0 to 31: CELL_CNT.COUNT. -/
def R.CELL_CNT_COUNT (n k : Nat) : Fld := ⟨0x01C00080 + 65536 * n + 4 * k, 0, 32, .rc, 0, .main⟩

/-- R358, bits 0 to 0: TONE_STAT.PASS_OVR. -/
def R.TONE_STAT_PASS_OVR : Fld := ⟨0x02000000, 0, 1, .rws, 0, .main⟩

/-- R358, bits 1 to 1: TONE_STAT.CLIP. -/
def R.TONE_STAT_CLIP : Fld := ⟨0x02000000, 1, 1, .rws, 0, .main⟩

/-- R357, bits 0 to 3: TONE_CMD.OP. -/
def R.TONE_CMD_OP : Fld := ⟨0x02000010, 0, 4, .wo, 0, .main⟩

/-- R357, bits 4 to 4: TONE_CMD.BUSY. -/
def R.TONE_CMD_BUSY : Fld := ⟨0x02000010, 4, 1, .ro, 0, .main⟩

/-- R357, bits 5 to 5: TONE_CMD.ERR. -/
def R.TONE_CMD_ERR : Fld := ⟨0x02000010, 5, 1, .rws, 0, .main⟩

/-- R357, bits 6 to 7: TONE_CMD.ERR_CODE. -/
def R.TONE_CMD_ERR_CODE : Fld := ⟨0x02000010, 6, 2, .ro, 0, .main⟩

/-- R358, bits 0 to 13: TONE_IDX.IDX. -/
def R.TONE_IDX_IDX : Fld := ⟨0x02000014, 0, 14, .rw, 0, .main⟩

/-- R358, bits 0 to 31: TONE_ARG.ARG. -/
def R.TONE_ARG_ARG : Fld := ⟨0x02000018, 0, 32, .rw, 0, .main⟩

/-- R358, bits 0 to 13: TONE_LAST.IDX. -/
def R.TONE_LAST_IDX : Fld := ⟨0x0200001C, 0, 14, .ro, 0, .main⟩

/-- R358, bits 14 to 14: TONE_LAST.GEN. -/
def R.TONE_LAST_GEN : Fld := ⟨0x0200001C, 14, 1, .ro, 0, .main⟩

/-- R358, bits 0 to 31: TONE_DATA.D. -/
def R.TONE_DATA_D (k : Nat) : Fld := ⟨0x02000040 + 4 * k, 0, 32, .ro, 0, .main⟩

/-- R358, bits 0 to 31: TONE_CNT.COUNT. -/
def R.TONE_CNT_COUNT (k : Nat) : Fld := ⟨0x02000080 + 4 * k, 0, 32, .rc, 0, .main⟩

/-- R388, bits 0 to 0: CMP_STAT.PASS_OVR. -/
def R.CMP_STAT_PASS_OVR : Fld := ⟨0x02100000, 0, 1, .rws, 0, .main⟩

/-- R388, bits 1 to 1: CMP_STAT.VERIFY. -/
def R.CMP_STAT_VERIFY : Fld := ⟨0x02100000, 1, 1, .rws, 0, .main⟩

/-- R388, bits 2 to 2: CMP_STAT.FATAL. -/
def R.CMP_STAT_FATAL : Fld := ⟨0x02100000, 2, 1, .rws, 0, .main⟩

/-- R387, bits 0 to 3: CMP_CMD.OP. -/
def R.CMP_CMD_OP : Fld := ⟨0x02100010, 0, 4, .wo, 0, .main⟩

/-- R387, bits 4 to 4: CMP_CMD.BUSY. -/
def R.CMP_CMD_BUSY : Fld := ⟨0x02100010, 4, 1, .ro, 0, .main⟩

/-- R387, bits 5 to 5: CMP_CMD.ERR. -/
def R.CMP_CMD_ERR : Fld := ⟨0x02100010, 5, 1, .rws, 0, .main⟩

/-- R387, bits 6 to 7: CMP_CMD.ERR_CODE. -/
def R.CMP_CMD_ERR_CODE : Fld := ⟨0x02100010, 6, 2, .ro, 0, .main⟩

/-- R388, bits 0 to 8: CMP_IDX.IDX. -/
def R.CMP_IDX_IDX : Fld := ⟨0x02100014, 0, 9, .rw, 0, .main⟩

/-- R388, bits 0 to 8: CMP_LAST.STREAM. -/
def R.CMP_LAST_STREAM : Fld := ⟨0x0210001C, 0, 9, .ro, 0, .main⟩

/-- R388, bits 9 to 11: CMP_LAST.REASON. -/
def R.CMP_LAST_REASON : Fld := ⟨0x0210001C, 9, 3, .ro, 0, .main⟩

/-- R387, bits 0 to 3: CMP_JOB_CMD.OP. -/
def R.CMP_JOB_CMD_OP : Fld := ⟨0x02100020, 0, 4, .wo, 0, .main⟩

/-- R387, bits 5 to 5: CMP_JOB_CMD.ERR. -/
def R.CMP_JOB_CMD_ERR : Fld := ⟨0x02100020, 5, 1, .rws, 0, .main⟩

/-- R387, bits 6 to 7: CMP_JOB_CMD.ERR_CODE. -/
def R.CMP_JOB_CMD_ERR_CODE : Fld := ⟨0x02100020, 6, 2, .ro, 0, .main⟩

/-- R388, bits 0 to 0: CMP_JOB_STAT.BUSY. -/
def R.CMP_JOB_STAT_BUSY : Fld := ⟨0x02100024, 0, 1, .ro, 0, .main⟩

/-- R388, bits 1 to 3: CMP_JOB_STAT.STATUS. -/
def R.CMP_JOB_STAT_STATUS : Fld := ⟨0x02100024, 1, 3, .ro, 0, .main⟩

/-- R388, bits 8 to 31: CMP_JOB_STAT.BLOCKS. -/
def R.CMP_JOB_STAT_BLOCKS : Fld := ⟨0x02100024, 8, 24, .ro, 0, .main⟩

/-- R388, bits 0 to 31: CMP_JOB_CONSUMED.N. -/
def R.CMP_JOB_CONSUMED_N : Fld := ⟨0x02100028, 0, 32, .ro, 0, .main⟩

/-- R388, bits 0 to 31: CMP_JOB_PRODUCED.N. -/
def R.CMP_JOB_PRODUCED_N : Fld := ⟨0x0210002C, 0, 32, .ro, 0, .main⟩

/-- R388, bits 0 to 31: CMP_DATA.D. -/
def R.CMP_DATA_D (k : Nat) : Fld := ⟨0x02100040 + 4 * k, 0, 32, .ro, 0, .main⟩

/-- R388, bits 0 to 31: CMP_JOB_DESC.D. -/
def R.CMP_JOB_DESC_D (k : Nat) : Fld := ⟨0x02100060 + 4 * k, 0, 32, .rw, 0, .main⟩

/-- R388, bits 0 to 31: CMP_CNT.COUNT. -/
def R.CMP_CNT_COUNT (k : Nat) : Fld := ⟨0x021000A0 + 4 * k, 0, 32, .rc, 0, .main⟩

/-- R429, bits 0 to 0: TIME_CTL.MODE. -/
def R.TIME_CTL_MODE : Fld := ⟨0x02200000, 0, 1, .ro, 0, .keep⟩

/-- R429, bits 1 to 1: TIME_CTL.MODE_PEND. -/
def R.TIME_CTL_MODE_PEND : Fld := ⟨0x02200000, 1, 1, .ro, 0, .keep⟩

/-- R429, bits 4 to 7: TIME_CTL.ONESTEP. -/
def R.TIME_CTL_ONESTEP : Fld := ⟨0x02200000, 4, 4, .rw, 0, .main⟩

/-- R429, bits 0 to 0: TIME_STAT.VALID. -/
def R.TIME_STAT_VALID : Fld := ⟨0x02200004, 0, 1, .ro, 0, .keep⟩

/-- R429, bits 1 to 1: TIME_STAT.XO_FAIL. -/
def R.TIME_STAT_XO_FAIL : Fld := ⟨0x02200004, 1, 1, .rws, 0, .keep⟩

/-- R429, bits 2 to 5: TIME_STAT.TSQ_OVF. -/
def R.TIME_STAT_TSQ_OVF : Fld := ⟨0x02200004, 2, 4, .rws, 0, .main⟩

/-- R429, bits 6 to 6: TIME_STAT.CAP_OVF. -/
def R.TIME_STAT_CAP_OVF : Fld := ⟨0x02200004, 6, 1, .rws, 0, .main⟩

/-- R429, bits 7 to 7: TIME_STAT.SLEWING. -/
def R.TIME_STAT_SLEWING : Fld := ⟨0x02200004, 7, 1, .ro, 0, .keep⟩

/-- R428, bits 0 to 3: TIME_CMD.OP. -/
def R.TIME_CMD_OP : Fld := ⟨0x02200010, 0, 4, .wo, 0, .main⟩

/-- R428, bits 4 to 4: TIME_CMD.BUSY. -/
def R.TIME_CMD_BUSY : Fld := ⟨0x02200010, 4, 1, .ro, 0, .main⟩

/-- R428, bits 5 to 5: TIME_CMD.ERR. -/
def R.TIME_CMD_ERR : Fld := ⟨0x02200010, 5, 1, .rws, 0, .main⟩

/-- R428, bits 6 to 8: TIME_CMD.ERR_CODE. -/
def R.TIME_CMD_ERR_CODE : Fld := ⟨0x02200010, 6, 3, .ro, 0, .main⟩

/-- R430, bits 0 to 5: TIME_IDX.IDX. -/
def R.TIME_IDX_IDX : Fld := ⟨0x02200014, 0, 6, .rw, 0, .main⟩

/-- R430, bits 0 to 31: TIME_ARG.ARG. -/
def R.TIME_ARG_ARG (k : Nat) : Fld := ⟨0x02200020 + 4 * k, 0, 32, .rw, 0, .main⟩

/-- R430, bits 0 to 31: TIME_NOW0.NS. -/
def R.TIME_NOW0_NS : Fld := ⟨0x02200040, 0, 32, .ro, 0, .keep⟩

/-- R430, bits 0 to 31: TIME_NOW1.SEC. -/
def R.TIME_NOW1_SEC : Fld := ⟨0x02200044, 0, 32, .ro, 0, .keep⟩

/-- R430, bits 0 to 15: TIME_NOW2.SEC. -/
def R.TIME_NOW2_SEC : Fld := ⟨0x02200048, 0, 16, .ro, 0, .keep⟩

/-- R430, bits 16 to 31: TIME_NOW2.SUB. -/
def R.TIME_NOW2_SUB : Fld := ⟨0x02200048, 16, 16, .ro, 0, .keep⟩

/-- R430, bits 0 to 31: TIME_RAW_LO.C. -/
def R.TIME_RAW_LO_C : Fld := ⟨0x02200050, 0, 32, .ro, 0, .keep⟩

/-- R430, bits 0 to 31: TIME_RAW_HI.C. -/
def R.TIME_RAW_HI_C : Fld := ⟨0x02200054, 0, 32, .ro, 0, .keep⟩

/-- R430, bits 0 to 31: TIME_FREQ_LO.F. -/
def R.TIME_FREQ_LO_F : Fld := ⟨0x02200058, 0, 32, .ro, 0, .keep⟩

/-- R430, bits 0 to 5: TIME_FREQ_HI.F. -/
def R.TIME_FREQ_HI_F : Fld := ⟨0x0220005C, 0, 6, .ro, 0, .keep⟩

/-- R430, bits 0 to 16: TIME_SLEW_LIM.NSPS. -/
def R.TIME_SLEW_LIM_NSPS : Fld := ⟨0x02200060, 0, 17, .rw, 10000, .keep⟩

/-- R430, bits 0 to 31: TIME_SLEW_REM.A. -/
def R.TIME_SLEW_REM_A : Fld := ⟨0x02200064, 0, 32, .ro, 0, .keep⟩

/-- R430, bits 0 to 31: TIME_TSQ_D.D. -/
def R.TIME_TSQ_D_D (n k : Nat) : Fld := ⟨0x02200080 + 16 * n + 4 * k, 0, 32, .ro, 0, .main⟩

/-- R430, bits 0 to 6: TIME_TSQ_HEAD.LEVEL. -/
def R.TIME_TSQ_HEAD_LEVEL (k : Nat) : Fld := ⟨0x022000C0 + 4 * k, 0, 7, .ro, 0, .main⟩

/-- R430, bits 16 to 31: TIME_TSQ_HEAD.DROP. -/
def R.TIME_TSQ_HEAD_DROP (k : Nat) : Fld := ⟨0x022000C0 + 4 * k, 16, 16, .rc, 0, .main⟩

/-- R430, bits 0 to 31: TIME_PORT_TXLAT.LAT. -/
def R.TIME_PORT_TXLAT_LAT (k : Nat) : Fld := ⟨0x022000D0 + 4 * k, 0, 32, .rw, 0, .main⟩

/-- R430, bits 0 to 31: TIME_PORT_RXLAT.LAT. -/
def R.TIME_PORT_RXLAT_LAT (k : Nat) : Fld := ⟨0x022000E0 + 4 * k, 0, 32, .rw, 0, .main⟩

/-- R430, bits 0 to 31: TIME_PORT_ASYM.ASYM. -/
def R.TIME_PORT_ASYM_ASYM (k : Nat) : Fld := ⟨0x022000F0 + 4 * k, 0, 32, .rw, 0, .main⟩

/-- R430, bits 0 to 3: TIME_CAP_SEL.UNIT. -/
def R.TIME_CAP_SEL_UNIT : Fld := ⟨0x02200100, 0, 4, .rw, 0, .main⟩

/-- R430, bits 0 to 31: TIME_CAP_D.D. -/
def R.TIME_CAP_D_D (k : Nat) : Fld := ⟨0x02200104 + 4 * k, 0, 32, .ro, 0, .main⟩

/-- R430, bits 0 to 9: TIME_REF_CFG.QUAL_PPM. -/
def R.TIME_REF_CFG_QUAL_PPM : Fld := ⟨0x02200120, 0, 10, .rw, 50, .keep⟩

/-- R430, bits 10 to 17: TIME_REF_CFG.QUAL_S. -/
def R.TIME_REF_CFG_QUAL_S : Fld := ⟨0x02200120, 10, 8, .rw, 10, .keep⟩

/-- R430, bits 18 to 21: TIME_REF_CFG.WRATE. -/
def R.TIME_REF_CFG_WRATE : Fld := ⟨0x02200120, 18, 4, .rw, 4, .keep⟩

/-- R430, bits 22 to 31: TIME_REF_CFG.PPS_OFS. -/
def R.TIME_REF_CFG_PPS_OFS : Fld := ⟨0x02200120, 22, 10, .rw, 0, .keep⟩

/-- R430, bits 0 to 2: TIME_REF_STAT.QUAL. -/
def R.TIME_REF_STAT_QUAL : Fld := ⟨0x02200124, 0, 3, .ro, 0, .main⟩

/-- R430, bits 0 to 31: TIME_PPS_TS0.NS. -/
def R.TIME_PPS_TS0_NS : Fld := ⟨0x02200128, 0, 32, .ro, 0, .main⟩

/-- R430, bits 0 to 31: TIME_PPS_TS1.SEC. -/
def R.TIME_PPS_TS1_SEC : Fld := ⟨0x0220012C, 0, 32, .ro, 0, .main⟩

/-- R430, bits 0 to 15: TIME_PPS_TS2.SEC. -/
def R.TIME_PPS_TS2_SEC : Fld := ⟨0x02200130, 0, 16, .ro, 0, .main⟩

/-- R430, bits 16 to 16: TIME_PPS_TS2.STALE. -/
def R.TIME_PPS_TS2_STALE : Fld := ⟨0x02200130, 16, 1, .ro, 0, .main⟩

/-- R430, bits 0 to 31: TIME_OUT_CFG.EN. -/
def R.TIME_OUT_CFG_EN : Fld := ⟨0x02200134, 0, 32, .ro, 0, .main⟩

/-- R430, bits 0 to 1: TIME_DCO_CTL.MODE. -/
def R.TIME_DCO_CTL_MODE : Fld := ⟨0x02200140, 0, 2, .ro, 2, .keep⟩

/-- R430, bits 2 to 7: TIME_DCO_CTL.SEL. -/
def R.TIME_DCO_CTL_SEL : Fld := ⟨0x02200140, 2, 6, .ro, 0, .keep⟩

/-- R430, bits 0 to 0: TIME_DCO_STAT.LOCKED. -/
def R.TIME_DCO_STAT_LOCKED : Fld := ⟨0x02200144, 0, 1, .ro, 0, .keep⟩

/-- R430, bits 1 to 1: TIME_DCO_STAT.ON_ALT. -/
def R.TIME_DCO_STAT_ON_ALT : Fld := ⟨0x02200144, 1, 1, .ro, 0, .keep⟩

/-- R430, bits 0 to 31: TIME_DCO_FREQ_LO.D. -/
def R.TIME_DCO_FREQ_LO_D : Fld := ⟨0x02200148, 0, 32, .rw, 0, .keep⟩

/-- R430, bits 0 to 5: TIME_DCO_FREQ_HI.D. -/
def R.TIME_DCO_FREQ_HI_D : Fld := ⟨0x0220014C, 0, 6, .rw, 0, .keep⟩

/-- R430, bits 0 to 16: TIME_SA_CTL.STEP_THR. -/
def R.TIME_SA_CTL_STEP_THR : Fld := ⟨0x02200160, 0, 17, .rw, 100, .main⟩

/-- R430, bits 17 to 26: TIME_SA_CTL.CONFIRM. -/
def R.TIME_SA_CTL_CONFIRM : Fld := ⟨0x02200160, 17, 10, .rw, 30, .main⟩

/-- R430, bits 27 to 27: TIME_SA_CTL.ASYM_AUTO. -/
def R.TIME_SA_CTL_ASYM_AUTO : Fld := ⟨0x02200160, 27, 1, .rw, 1, .main⟩

/-- R430, bits 0 to 0: TIME_SA_STAT.VERIFY. -/
def R.TIME_SA_STAT_VERIFY : Fld := ⟨0x02200164, 0, 1, .ro, 0, .main⟩

/-- R430, bits 1 to 2: TIME_SA_STAT.PATH. -/
def R.TIME_SA_STAT_PATH : Fld := ⟨0x02200164, 1, 2, .ro, 0, .main⟩

/-- R430, bits 0 to 31: TIME_SA_EST.EST. -/
def R.TIME_SA_EST_EST (k : Nat) : Fld := ⟨0x02200170 + 4 * k, 0, 32, .ro, 0, .main⟩

/-- R430, bits 0 to 31: TIME_DATA.D. -/
def R.TIME_DATA_D (k : Nat) : Fld := ⟨0x02200180 + 4 * k, 0, 32, .ro, 0, .main⟩

/-- R430, bits 0 to 31: TIME_CNT.COUNT. -/
def R.TIME_CNT_COUNT (k : Nat) : Fld := ⟨0x022001A0 + 4 * k, 0, 32, .rc, 0, .main⟩

/-- R475, bits 0 to 0: ETH_CTL.AN_RESTART. -/
def R.ETH_CTL_AN_RESTART (n : Nat) : Fld := ⟨0x02300000 + 4096 * n, 0, 1, .wo, 0, .main⟩

/-- R475, bits 1 to 2: ETH_CTL.LOOP. -/
def R.ETH_CTL_LOOP (n : Nat) : Fld := ⟨0x02300000 + 4096 * n, 1, 2, .rw, 0, .main⟩

/-- R475, bits 0 to 0: ETH_STAT.LINK. -/
def R.ETH_STAT_LINK (n : Nat) : Fld := ⟨0x02300004 + 4096 * n, 0, 1, .ro, 0, .main⟩

/-- R475, bits 1 to 1: ETH_STAT.LINK_CHG. -/
def R.ETH_STAT_LINK_CHG (n : Nat) : Fld := ⟨0x02300004 + 4096 * n, 1, 1, .rws, 0, .main⟩

/-- R475, bits 2 to 3: ETH_STAT.FEC. -/
def R.ETH_STAT_FEC (n : Nat) : Fld := ⟨0x02300004 + 4096 * n, 2, 2, .ro, 0, .main⟩

/-- R475, bits 4 to 4: ETH_STAT.RATE. -/
def R.ETH_STAT_RATE (n : Nat) : Fld := ⟨0x02300004 + 4096 * n, 4, 1, .ro, 0, .main⟩

/-- R475, bits 5 to 5: ETH_STAT.TRAINING. -/
def R.ETH_STAT_TRAINING (n : Nat) : Fld := ⟨0x02300004 + 4096 * n, 5, 1, .ro, 0, .main⟩

/-- R475, bits 0 to 15: ETH_LAST_TS.TS_ID. -/
def R.ETH_LAST_TS_TS_ID (n : Nat) : Fld := ⟨0x02300008 + 4096 * n, 0, 16, .ro, 0, .main⟩

/-- R475, bits 0 to 31: ETH_CNT.COUNT. -/
def R.ETH_CNT_COUNT (n k : Nat) : Fld := ⟨0x02300040 + 4096 * n + 4 * k, 0, 32, .rc, 0, .main⟩

/-- R476, bits 0 to 0: TDM_CTL.BRST. -/
def R.TDM_CTL_BRST (n : Nat) : Fld := ⟨0x02380000 + 256 * n, 0, 1, .rw, 0, .main⟩

/-- R476, bits 0 to 0: TDM_STAT.CLK_OK. -/
def R.TDM_STAT_CLK_OK (n : Nat) : Fld := ⟨0x02380004 + 256 * n, 0, 1, .ro, 0, .keep⟩

/-- R476, bits 1 to 1: TDM_STAT.LOCK. -/
def R.TDM_STAT_LOCK (n : Nat) : Fld := ⟨0x02380004 + 256 * n, 1, 1, .ro, 0, .keep⟩

/-- R476, bits 2 to 2: TDM_STAT.SLIP. -/
def R.TDM_STAT_SLIP (n : Nat) : Fld := ⟨0x02380004 + 256 * n, 2, 1, .rws, 0, .keep⟩

/-- R476, bits 3 to 3: TDM_STAT.LINE_LOST. -/
def R.TDM_STAT_LINE_LOST (n : Nat) : Fld := ⟨0x02380004 + 256 * n, 3, 1, .rws, 0, .keep⟩

/-- R476, bits 4 to 4: TDM_STAT.IN_RESET. -/
def R.TDM_STAT_IN_RESET (n : Nat) : Fld := ⟨0x02380004 + 256 * n, 4, 1, .ro, 0, .main⟩

/-- R476, bits 0 to 31: TDM_PHASE.P. -/
def R.TDM_PHASE_P (n : Nat) : Fld := ⟨0x02380008 + 256 * n, 0, 32, .ro, 0, .keep⟩

/-- R476, bits 0 to 31: TDM_CNT.COUNT. -/
def R.TDM_CNT_COUNT (n k : Nat) : Fld := ⟨0x02380020 + 256 * n + 4 * k, 0, 32, .rc, 0, .keep⟩

/-- R476, bits 0 to 0: MADI_CTL.BRST. -/
def R.MADI_CTL_BRST (n : Nat) : Fld := ⟨0x02384000 + 256 * n, 0, 1, .rw, 0, .main⟩

/-- R476, bits 0 to 0: MADI_STAT.CLK_OK. -/
def R.MADI_STAT_CLK_OK (n : Nat) : Fld := ⟨0x02384004 + 256 * n, 0, 1, .ro, 0, .keep⟩

/-- R476, bits 1 to 1: MADI_STAT.LOCK. -/
def R.MADI_STAT_LOCK (n : Nat) : Fld := ⟨0x02384004 + 256 * n, 1, 1, .ro, 0, .keep⟩

/-- R476, bits 2 to 2: MADI_STAT.SLIP. -/
def R.MADI_STAT_SLIP (n : Nat) : Fld := ⟨0x02384004 + 256 * n, 2, 1, .rws, 0, .keep⟩

/-- R476, bits 3 to 3: MADI_STAT.LINE_LOST. -/
def R.MADI_STAT_LINE_LOST (n : Nat) : Fld := ⟨0x02384004 + 256 * n, 3, 1, .rws, 0, .keep⟩

/-- R476, bits 4 to 4: MADI_STAT.IN_RESET. -/
def R.MADI_STAT_IN_RESET (n : Nat) : Fld := ⟨0x02384004 + 256 * n, 4, 1, .ro, 0, .main⟩

/-- R476, bits 5 to 5: MADI_STAT.PARITY. -/
def R.MADI_STAT_PARITY (n : Nat) : Fld := ⟨0x02384004 + 256 * n, 5, 1, .rws, 0, .keep⟩

/-- R476, bits 0 to 31: MADI_PHASE.P. -/
def R.MADI_PHASE_P (n : Nat) : Fld := ⟨0x02384008 + 256 * n, 0, 32, .ro, 0, .keep⟩

/-- R476, bits 0 to 31: MADI_CS.B. -/
def R.MADI_CS_B (n k : Nat) : Fld := ⟨0x02384010 + 256 * n + 4 * k, 0, 32, .ro, 0, .keep⟩

/-- R476, bits 0 to 31: MADI_ACT.A. -/
def R.MADI_ACT_A (n k : Nat) : Fld := ⟨0x02384030 + 256 * n + 4 * k, 0, 32, .ro, 0, .keep⟩

/-- R476, bits 0 to 31: MADI_CNT.COUNT. -/
def R.MADI_CNT_COUNT (n k : Nat) : Fld := ⟨0x02384040 + 256 * n + 4 * k, 0, 32, .rc, 0, .keep⟩

/-- R476, bits 0 to 15: BSD_STAT.IN_OK. -/
def R.BSD_STAT_IN_OK : Fld := ⟨0x02386000, 0, 16, .ro, 0, .main⟩

/-- R476, bits 16 to 19: BSD_STAT.CLK_OK. -/
def R.BSD_STAT_CLK_OK : Fld := ⟨0x02386000, 16, 4, .ro, 0, .main⟩

/-- R476, bits 0 to 31: BSD_CNT.COUNT. -/
def R.BSD_CNT_COUNT (k : Nat) : Fld := ⟨0x02386010 + 4 * k, 0, 32, .rc, 0, .main⟩

/-- R477, bits 0 to 0: DDR_CFG.A_EN. -/
def R.DDR_CFG_A_EN : Fld := ⟨0x02800000, 0, 1, .rw, 0, .keep⟩

/-- R477, bits 1 to 1: DDR_CFG.B_EN. -/
def R.DDR_CFG_B_EN : Fld := ⟨0x02800000, 1, 1, .rw, 0, .keep⟩

/-- R477, bits 2 to 2: DDR_CFG.INTERLEAVE. -/
def R.DDR_CFG_INTERLEAVE : Fld := ⟨0x02800000, 2, 1, .rw, 0, .keep⟩

/-- R477, bits 3 to 7: DDR_CFG.SIZE_A. -/
def R.DDR_CFG_SIZE_A : Fld := ⟨0x02800000, 3, 5, .rw, 0, .keep⟩

/-- R477, bits 8 to 12: DDR_CFG.SIZE_B. -/
def R.DDR_CFG_SIZE_B : Fld := ⟨0x02800000, 8, 5, .rw, 0, .keep⟩

/-- R477, bits 13 to 15: DDR_CFG.SPEED. -/
def R.DDR_CFG_SPEED : Fld := ⟨0x02800000, 13, 3, .rw, 0, .keep⟩

/-- R477, bits 16 to 16: DDR_CFG.WIDTH. -/
def R.DDR_CFG_WIDTH : Fld := ⟨0x02800000, 16, 1, .rw, 0, .keep⟩

/-- R477, bits 17 to 17: DDR_CFG.RANKS. -/
def R.DDR_CFG_RANKS : Fld := ⟨0x02800000, 17, 1, .rw, 0, .keep⟩

/-- R477, bits 18 to 19: DDR_CFG.DENSITY. -/
def R.DDR_CFG_DENSITY : Fld := ⟨0x02800000, 18, 2, .rw, 0, .keep⟩

/-- R477, bits 0 to 0: DDR_STAT.INIT_DONE. -/
def R.DDR_STAT_INIT_DONE : Fld := ⟨0x02800004, 0, 1, .ro, 0, .keep⟩

/-- R477, bits 1 to 1: DDR_STAT.SR_A. -/
def R.DDR_STAT_SR_A : Fld := ⟨0x02800004, 1, 1, .ro, 0, .keep⟩

/-- R477, bits 2 to 2: DDR_STAT.SR_B. -/
def R.DDR_STAT_SR_B : Fld := ⟨0x02800004, 2, 1, .ro, 0, .keep⟩

/-- R477, bits 3 to 3: DDR_STAT.ECC_CE. -/
def R.DDR_STAT_ECC_CE : Fld := ⟨0x02800004, 3, 1, .rws, 0, .keep⟩

/-- R477, bits 4 to 4: DDR_STAT.ECC_UE. -/
def R.DDR_STAT_ECC_UE : Fld := ⟨0x02800004, 4, 1, .rws, 0, .keep⟩

/-- R477, bits 5 to 5: DDR_STAT.ADDR_ERR. -/
def R.DDR_STAT_ADDR_ERR : Fld := ⟨0x02800004, 5, 1, .rws, 0, .keep⟩

/-- R477, bits 0 to 31: DDR_ECC_ADDR_LO.A. -/
def R.DDR_ECC_ADDR_LO_A : Fld := ⟨0x02800008, 0, 32, .ro, 0, .keep⟩

/-- R477, bits 0 to 3: DDR_ECC_ADDR_HI.A. -/
def R.DDR_ECC_ADDR_HI_A : Fld := ⟨0x0280000C, 0, 4, .ro, 0, .keep⟩

/-- R477, bits 0 to 31: DDR_CNT.COUNT. -/
def R.DDR_CNT_COUNT (k : Nat) : Fld := ⟨0x02800040 + 4 * k, 0, 32, .rc, 0, .keep⟩

/-- R478, bits 0 to 0: PCIE_CTL.LTSSM_EN. -/
def R.PCIE_CTL_LTSSM_EN : Fld := ⟨0x02C00000, 0, 1, .rw, 0, .main⟩

/-- R478, bits 0 to 0: PCIE_STAT.LINK_UP. -/
def R.PCIE_STAT_LINK_UP : Fld := ⟨0x02C00004, 0, 1, .ro, 0, .main⟩

/-- R478, bits 1 to 3: PCIE_STAT.SPEED. -/
def R.PCIE_STAT_SPEED : Fld := ⟨0x02C00004, 1, 3, .ro, 0, .main⟩

/-- R478, bits 4 to 6: PCIE_STAT.WIDTH. -/
def R.PCIE_STAT_WIDTH : Fld := ⟨0x02C00004, 4, 3, .ro, 0, .main⟩

/-- R478, bits 7 to 7: PCIE_STAT.BAD_ACC. -/
def R.PCIE_STAT_BAD_ACC : Fld := ⟨0x02C00004, 7, 1, .rws, 0, .main⟩

/-- R478, bits 8 to 8: PCIE_STAT.DENIED. -/
def R.PCIE_STAT_DENIED : Fld := ⟨0x02C00004, 8, 1, .rws, 0, .main⟩

/-- R478, bits 9 to 9: PCIE_STAT.POISON_RD. -/
def R.PCIE_STAT_POISON_RD : Fld := ⟨0x02C00004, 9, 1, .rws, 0, .main⟩

/-- R478, bits 0 to 10: PCIE_DDR_BASE.BASE. -/
def R.PCIE_DDR_BASE_BASE : Fld := ⟨0x02C00008, 0, 11, .rw, 0, .main⟩

/-- R478, bits 0 to 31: PCIE_CNT.COUNT. -/
def R.PCIE_CNT_COUNT (k : Nat) : Fld := ⟨0x02C00040 + 4 * k, 0, 32, .rc, 0, .main⟩

/-- R468, bits 0 to 31: PCIE_MSIX_LO.A. -/
def R.PCIE_MSIX_LO_A (k : Nat) : Fld := ⟨0x02C01000 + 16 * k, 0, 32, .rw, 0, .main⟩

/-- R468, bits 0 to 31: PCIE_MSIX_HI.A. -/
def R.PCIE_MSIX_HI_A (k : Nat) : Fld := ⟨0x02C01004 + 16 * k, 0, 32, .rw, 0, .main⟩

/-- R468, bits 0 to 31: PCIE_MSIX_DATA.D. -/
def R.PCIE_MSIX_DATA_D (k : Nat) : Fld := ⟨0x02C01008 + 16 * k, 0, 32, .rw, 0, .main⟩

/-- R468, bits 0 to 0: PCIE_MSIX_CTL.MASK. -/
def R.PCIE_MSIX_CTL_MASK (k : Nat) : Fld := ⟨0x02C0100C + 16 * k, 0, 1, .rw, 1, .main⟩

/-- R468, bits 0 to 31: PCIE_PBA.PEND. -/
def R.PCIE_PBA_PEND (k : Nat) : Fld := ⟨0x02C02000 + 4 * k, 0, 32, .ro, 0, .main⟩

/-- The registers of BAR0 in ascending address, part 1. -/
def regRows1 : List RegRow := [
  ⟨0x00000000, 1, 1, 1, 1, fun _ _ => [R.GLB_ID_ID]⟩,
  ⟨0x00000004, 1, 1, 1, 1, fun _ _ => [R.GLB_STEP_DIGIT, R.GLB_STEP_LETTER]⟩,
  ⟨0x00000008, 1, 1, 1, 1, fun _ _ => [R.GLB_STAT_MEDIA, R.GLB_STAT_IMG_ACTIVE, R.GLB_STAT_RECOVERY, R.GLB_STAT_TIME_VALID, R.GLB_STAT_ORIGIN, R.GLB_STAT_FAULT, R.GLB_STAT_ALERT, R.GLB_STAT_DEBUG, R.GLB_STAT_PSTATE, R.GLB_STAT_CAL_DEFAULTS, R.GLB_STAT_OPT_FAULT]⟩,
  ⟨0x0000000C, 1, 1, 1, 1, fun _ _ => [R.GLB_SW_EVT_CODE]⟩,
  ⟨0x00000010, 1, 1, 1, 1, fun _ _ => [R.GLB_DB_H2F_MSG]⟩,
  ⟨0x00000014, 1, 1, 1, 1, fun _ _ => [R.GLB_DB_F2H_MSG]⟩,
  ⟨0x00000018, 1, 1, 1, 1, fun _ _ => [R.GLB_REQ_FW]⟩,
  ⟨0x00000020, 1, 1, 4, 4, fun _ k => [R.GLB_SERIAL_B k]⟩,
  ⟨0x00010000, 1, 1, 1, 1, fun _ _ => [R.RST_STAT_KA_VALID, R.RST_STAT_RES_UNVER, R.RST_STAT_OPT_FAULT, R.RST_STAT_RECOVERY, R.RST_STAT_VBAT_LOST, R.RST_STAT_RECOV_NEXT, R.RST_STAT_SCRUB_BUSY, R.RST_STAT_WDOG_N]⟩,
  ⟨0x00010004, 1, 1, 1, 1, fun _ _ => [R.RST_CAUSE_KIND, R.RST_CAUSE_WDOG, R.RST_CAUSE_KEEP_DENIED, R.RST_CAUSE_D2_EXIT]⟩,
  ⟨0x00010008, 1, 1, 1, 1, fun _ _ => [R.RST_COUNT_COUNT, R.RST_COUNT_THRESH]⟩,
  ⟨0x0001000C, 1, 1, 1, 1, fun _ _ => [R.RST_CMD_OP, R.RST_CMD_BUSY, R.RST_CMD_ERR, R.RST_CMD_ERR_CODE]⟩,
  ⟨0x00010010, 1, 1, 1, 1, fun _ _ => [R.RST_PWR_STATE, R.RST_PWR_PEND]⟩,
  ⟨0x00010018, 1, 1, 1, 1, fun _ _ => [R.RST_WDOG_CTL_EN, R.RST_WDOG_CTL_WARNED, R.RST_WDOG_CTL_TIMEOUT]⟩,
  ⟨0x0001001C, 1, 1, 1, 1, fun _ _ => [R.RST_WDOG_KICK_KEY]⟩,
  ⟨0x00010020, 1, 1, 1, 1, fun _ _ => [R.RST_BRST_BRST]⟩,
  ⟨0x00010024, 1, 1, 1, 1, fun _ _ => [R.RST_HELD_BLK, R.RST_HELD_CELL, R.RST_HELD_TDM, R.RST_HELD_DDR_A, R.RST_HELD_DDR_B, R.RST_HELD_PCIE, R.RST_HELD_TICK]⟩,
  ⟨0x00010028, 1, 1, 1, 1, fun _ _ => [R.RST_RECOV_CAUSE]⟩,
  ⟨0x00010100, 1, 1, 4, 128, fun _ k => [R.RST_OPT_B k]⟩,
  ⟨0x00010300, 1, 1, 1, 1, fun _ _ => [R.RST_OPT_STAT_FAIL, R.RST_OPT_STAT_BLANK, R.RST_OPT_STAT_CE]⟩,
  ⟨0x00020000, 1, 1, 1, 1, fun _ _ => [R.CAL_CTL_PERIOD_S, R.CAL_CTL_AUTO_AGED]⟩,
  ⟨0x00020004, 1, 1, 1, 1, fun _ _ => [R.CAL_STAT_REQ, R.CAL_STAT_AGED, R.CAL_STAT_STALE, R.CAL_STAT_RUNNING, R.CAL_STAT_PRECOND, R.CAL_STAT_DEFAULTS]⟩,
  ⟨0x00020008, 1, 1, 1, 1, fun _ _ => [R.CAL_QW_TRIG, R.CAL_QW_EN, R.CAL_QW_STROKES]⟩,
  ⟨0x00020010, 1, 1, 1, 1, fun _ _ => [R.CAL_CMD_OP, R.CAL_CMD_BUSY, R.CAL_CMD_ERR, R.CAL_CMD_ERR_CODE]⟩,
  ⟨0x00020014, 1, 1, 1, 1, fun _ _ => [R.CAL_ARG_MASK]⟩,
  ⟨0x00020018, 1, 1, 1, 1, fun _ _ => [R.CAL_IDX_TGT]⟩,
  ⟨0x00020040, 1, 1, 4, 4, fun _ k => [R.CAL_DATA_D k]⟩,
  ⟨0x00020080, 1, 1, 4, 18, fun _ k => [R.CAL_CODE_REC k, R.CAL_CODE_APPLIED k, R.CAL_CODE_STALE k]⟩,
  ⟨0x00020100, 1, 1, 4, 8, fun _ k => [R.CAL_TEMP_T k, R.CAL_TEMP_STALE k]⟩,
  ⟨0x00020120, 1, 1, 1, 1, fun _ _ => [R.CAL_TMAX_T, R.CAL_TMAX_STALE, R.CAL_TMAX_SENSOR]⟩,
  ⟨0x00020140, 1, 1, 4, 10, fun _ k => [R.CAL_VOLT_MV k, R.CAL_VOLT_STALE k]⟩,
  ⟨0x00020180, 1, 1, 4, 10, fun _ k => [R.CAL_VTHR_LOW k, R.CAL_VTHR_HIGH k]⟩,
  ⟨0x000201C0, 1, 1, 1, 1, fun _ _ => [R.CAL_TTHR_HI, R.CAL_TTHR_LO]⟩,
  ⟨0x000201C4, 1, 1, 1, 1, fun _ _ => [R.CAL_XRES_MV]⟩,
  ⟨0x00030000, 1, 1, 1, 1, fun _ _ => [R.SEC_STAT_HOST_OPER, R.SEC_STAT_DEBUG, R.SEC_STAT_ID_VALID, R.SEC_STAT_ROTATED, R.SEC_STAT_TOK_RESULT, R.SEC_STAT_HELD]⟩,
  ⟨0x00030004, 1, 1, 1, 1, fun _ _ => [R.SEC_CMD_OP, R.SEC_CMD_BUSY, R.SEC_CMD_ERR, R.SEC_CMD_ERR_CODE]⟩,
  ⟨0x00030008, 1, 1, 1, 1, fun _ _ => [R.SEC_IDX_ROLE]⟩,
  ⟨0x00030010, 1, 1, 1, 1, fun _ _ => [R.SEC_SESSION_LEFT]⟩,
  ⟨0x00030020, 1, 1, 4, 12, fun _ k => [R.SEC_CHAL_D k]⟩,
  ⟨0x00030060, 1, 1, 4, 24, fun _ k => [R.SEC_KEY_D k]⟩]

/-- The registers of BAR0 in ascending address, part 2. -/
def regRows2 : List RegRow := [
  ⟨0x00030100, 1, 1, 4, 80, fun _ k => [R.SEC_TOKEN_D k]⟩,
  ⟨0x00030240, 1, 1, 4, 17, fun _ k => [R.SEC_ARG_D k]⟩,
  ⟨0x00030300, 1, 1, 4, 24, fun _ k => [R.SEC_ID_PUB_D k]⟩,
  ⟨0x00030380, 1, 1, 4, 12, fun _ k => [R.SEC_NONCE_D k]⟩,
  ⟨0x00030400, 1, 1, 4, 108, fun _ k => [R.SEC_REPORT_D k]⟩,
  ⟨0x00030600, 1, 1, 4, 56, fun _ k => [R.SEC_AUD_D_D k]⟩,
  ⟨0x000306E0, 1, 1, 1, 1, fun _ _ => [R.SEC_AUD_STAT_LEVEL, R.SEC_AUD_STAT_LOST]⟩,
  ⟨0x00030700, 1, 1, 4, 12, fun _ k => [R.SEC_AUD_HEAD_D k]⟩,
  ⟨0x00030740, 1, 1, 4, 4, fun _ k => [R.SEC_CNT_COUNT k]⟩,
  ⟨0x00040000, 1, 1, 1, 1, fun _ _ => [R.EVT_CTL_CORE_EN, R.EVT_CTL_MSIX_EN, R.EVT_CTL_ALERT_EN]⟩,
  ⟨0x00040004, 1, 1, 1, 1, fun _ _ => [R.EVT_STAT_CORE_IRQ, R.EVT_STAT_ALERT, R.EVT_STAT_INJ_ERR, R.EVT_STAT_MSG_HELD]⟩,
  ⟨0x00040008, 1, 1, 1, 1, fun _ _ => [R.EVT_INJECT_EVENT]⟩,
  ⟨0x0004000C, 1, 1, 1, 1, fun _ _ => [R.EVT_LAST_EVENT, R.EVT_LAST_STROKE]⟩,
  ⟨0x00040010, 1, 1, 1, 1, fun _ _ => [R.EVT_TOTAL_COUNT]⟩,
  ⟨0x00040014, 1, 1, 1, 1, fun _ _ => [R.EVT_INJ_CNT_COUNT]⟩,
  ⟨0x00040020, 1, 1, 4, 4, fun _ k => [R.EVT_CORE_NEXT_EVENT k]⟩,
  ⟨0x00040030, 1, 1, 1, 1, fun _ _ => [R.EVT_HOST_NEXT_EVENT]⟩,
  ⟨0x00040100, 1, 1, 4, 8, fun _ k => [R.EVT_RAW_BITS k]⟩,
  ⟨0x00040120, 32, 4, 4, 8, fun n k => [R.EVT_CPEND_BITS n k]⟩,
  ⟨0x000401A0, 1, 1, 4, 8, fun _ k => [R.EVT_HPEND_BITS k]⟩,
  ⟨0x000401C0, 1, 1, 4, 8, fun _ k => [R.EVT_APEND_BITS k]⟩,
  ⟨0x00040400, 1, 1, 4, 256, fun _ k => [R.EVT_ROUTE_CORES k, R.EVT_ROUTE_VEC k, R.EVT_ROUTE_MSIX k, R.EVT_ROUTE_ALERT k]⟩,
  ⟨0x00050000, 1, 1, 1, 1, fun _ _ => [R.SUMP_STAT_FROZEN, R.SUMP_STAT_CAUSE, R.SUMP_STAT_FAULT, R.SUMP_STAT_FREEZE_CNT]⟩,
  ⟨0x00050004, 1, 1, 1, 1, fun _ _ => [R.SUMP_CMD_OP, R.SUMP_CMD_BUSY, R.SUMP_CMD_ERR, R.SUMP_CMD_ERR_CODE]⟩,
  ⟨0x00050008, 1, 1, 1, 1, fun _ _ => [R.SUMP_RD_IDX_IDX]⟩,
  ⟨0x00050010, 1, 1, 4, 4, fun _ k => [R.SUMP_D_D k]⟩,
  ⟨0x00050020, 1, 1, 1, 1, fun _ _ => [R.SUMP_WP_IDX, R.SUMP_WP_WRAPPED]⟩,
  ⟨0x00050024, 1, 1, 1, 1, fun _ _ => [R.SUMP_FREEZE_IDX, R.SUMP_FREEZE_USED]⟩,
  ⟨0x00050028, 1, 1, 1, 1, fun _ _ => [R.SUMP_TOTAL_N]⟩,
  ⟨0x0005002C, 1, 1, 1, 1, fun _ _ => [R.SUMP_DROPPED_N]⟩,
  ⟨0x00050040, 1, 1, 4, 8, fun _ k => [R.SUMP_FATAL_MASK k]⟩,
  ⟨0x00100000, 1, 1, 1, 1, fun _ _ => [R.STK_CTL_EN, R.STK_CTL_MEDIA, R.STK_CTL_TICK_DIV, R.STK_CTL_REORIGIN]⟩,
  ⟨0x00100004, 1, 1, 1, 1, fun _ _ => [R.STK_STAT_RUNNING, R.STK_STAT_ALIGNED, R.STK_STAT_ALIGN_LOST, R.STK_STAT_CLK_INVALID, R.STK_STAT_BP]⟩,
  ⟨0x00100008, 1, 1, 1, 1, fun _ _ => [R.STK_PHASE_NS_NS]⟩,
  ⟨0x0010000C, 1, 1, 1, 1, fun _ _ => [R.STK_PHASE_SUB_SUB]⟩,
  ⟨0x00100010, 1, 1, 1, 1, fun _ _ => [R.STK_NUM_LO_NUM]⟩,
  ⟨0x00100014, 1, 1, 1, 1, fun _ _ => [R.STK_NUM_HI_NUM]⟩,
  ⟨0x00100018, 1, 1, 1, 1, fun _ _ => [R.STK_CC_CC]⟩,
  ⟨0x0010001C, 1, 1, 1, 1, fun _ _ => [R.STK_ALIGN_WINDOW, R.STK_ALIGN_SLEW]⟩,
  ⟨0x00100020, 1, 1, 1, 1, fun _ _ => [R.STK_ALIGN_ERR_ERR]⟩]

/-- The registers of BAR0 in ascending address, part 3. -/
def regRows3 : List RegRow := [
  ⟨0x00100024, 1, 1, 1, 1, fun _ _ => [R.STK_NUM_BIAS_BIAS]⟩,
  ⟨0x00100030, 1, 1, 1, 1, fun _ _ => [R.STK_TASK_IDX_IDX]⟩,
  ⟨0x00100034, 1, 1, 1, 1, fun _ _ => [R.STK_TASK_CMD_OP, R.STK_TASK_CMD_BUSY, R.STK_TASK_CMD_ERR, R.STK_TASK_CMD_ERR_CODE]⟩,
  ⟨0x00100040, 1, 1, 4, 8, fun _ k => [R.STK_TASK_DATA_D k]⟩,
  ⟨0x00100060, 1, 1, 1, 1, fun _ _ => [R.STK_RL_HW_HW]⟩,
  ⟨0x00100064, 1, 1, 1, 1, fun _ _ => [R.STK_LAST_FAULT_TASK, R.STK_LAST_FAULT_KIND, R.STK_LAST_FAULT_CELL]⟩,
  ⟨0x00100080, 1, 1, 4, 6, fun _ k => [R.STK_CNT_COUNT k]⟩,
  ⟨0x00100400, 1, 1, 4, 64, fun _ k => [R.STK_CELL_FD_LEN k]⟩,
  ⟨0x00100500, 1, 1, 4, 64, fun _ k => [R.STK_CELL_RL_OCC k, R.STK_CELL_RL_OCC_L k]⟩,
  ⟨0x00100800, 1, 1, 1, 1, fun _ _ => [R.STK_IMG_CMD_OP, R.STK_IMG_CMD_BUSY, R.STK_IMG_CMD_ERR, R.STK_IMG_CMD_ERR_CODE]⟩,
  ⟨0x00100804, 1, 1, 1, 1, fun _ _ => [R.STK_IMG_STAT_SHADOW, R.STK_IMG_STAT_ACTIVE, R.STK_IMG_STAT_MISSED, R.STK_IMG_STAT_LOAD_CODE]⟩,
  ⟨0x00100808, 1, 1, 1, 1, fun _ _ => [R.STK_IMG_SRC_LO_A]⟩,
  ⟨0x0010080C, 1, 1, 1, 1, fun _ _ => [R.STK_IMG_SRC_HI_A]⟩,
  ⟨0x00100810, 1, 1, 1, 1, fun _ _ => [R.STK_IMG_LEN_BYTES]⟩,
  ⟨0x00100814, 1, 1, 1, 1, fun _ _ => [R.STK_IMG_STROKE_LO_N]⟩,
  ⟨0x00100818, 1, 1, 1, 1, fun _ _ => [R.STK_IMG_STROKE_HI_N]⟩,
  ⟨0x0010081C, 1, 1, 1, 1, fun _ _ => [R.STK_IMG_ERR_SECTION]⟩,
  ⟨0x00100820, 1, 1, 1, 1, fun _ _ => [R.STK_IMG_ERR_OFS_OFS]⟩,
  ⟨0x00100824, 1, 1, 1, 1, fun _ _ => [R.STK_IMG_ACT_ID_ID]⟩,
  ⟨0x00100828, 1, 1, 1, 1, fun _ _ => [R.STK_IMG_ACT_VER_VER]⟩,
  ⟨0x0010082C, 1, 1, 1, 1, fun _ _ => [R.STK_IMG_SHD_ID_ID]⟩,
  ⟨0x00100830, 1, 1, 1, 1, fun _ _ => [R.STK_IMG_SHD_VER_VER]⟩,
  ⟨0x00100834, 1, 1, 1, 1, fun _ _ => [R.STK_IMG_LAST_LO_N]⟩,
  ⟨0x00100838, 1, 1, 1, 1, fun _ _ => [R.STK_IMG_LAST_HI_N]⟩,
  ⟨0x00100840, 1, 1, 4, 12, fun _ k => [R.STK_IMG_ACT_HASH_H k]⟩,
  ⟨0x00100880, 1, 1, 4, 12, fun _ k => [R.STK_IMG_SHD_HASH_H k]⟩,
  ⟨0x00200000, 1, 1, 1, 1, fun _ _ => [R.QF_STAT_CENSUS_OK, R.QF_STAT_ECC_UE, R.QF_STAT_ECC_CE]⟩,
  ⟨0x00200004, 1, 1, 1, 1, fun _ _ => [R.QF_ECC_ADDR_ADDR]⟩,
  ⟨0x00200008, 1, 1, 1, 1, fun _ _ => [R.QF_CENSUS_CTL_FATAL]⟩,
  ⟨0x0020000C, 1, 1, 1, 1, fun _ _ => [R.QF_CENSUS_STAT_DONE, R.QF_CENSUS_STAT_ERR, R.QF_CENSUS_STAT_KIND]⟩,
  ⟨0x00200010, 1, 1, 1, 1, fun _ _ => [R.QF_CENSUS_STROKE_NUM]⟩,
  ⟨0x00200014, 1, 1, 1, 1, fun _ _ => [R.QF_CENSUS_FIRST_ID]⟩,
  ⟨0x00200018, 1, 1, 1, 1, fun _ _ => [R.QF_CENSUS_DELTA_D]⟩,
  ⟨0x0020001C, 1, 1, 1, 1, fun _ _ => [R.QF_CENSUS_FAILS_COUNT]⟩,
  ⟨0x00200020, 1, 1, 1, 1, fun _ _ => [R.QF_LAST_Q_Q, R.QF_LAST_Q_PTR]⟩,
  ⟨0x00200030, 1, 1, 1, 1, fun _ _ => [R.QF_QCMD_Q, R.QF_QCMD_OP, R.QF_QCMD_BUSY, R.QF_QCMD_ERR, R.QF_QCMD_ERR_CODE]⟩,
  ⟨0x00200034, 1, 1, 1, 1, fun _ _ => [R.QF_QARG_SLOTS]⟩,
  ⟨0x00200040, 1, 1, 4, 10, fun _ k => [R.QF_QCNT_COUNT k]⟩,
  ⟨0x01000000, 1, 1, 1, 1, fun _ _ => [R.PKT_CTL_RX_EN, R.PKT_CTL_TX_EN]⟩,
  ⟨0x01000004, 1, 1, 1, 1, fun _ _ => [R.PKT_STAT_FIFO_DROP, R.PKT_STAT_KEY_SOFT]⟩]

/-- The registers of BAR0 in ascending address, part 4. -/
def regRows4 : List RegRow := [
  ⟨0x01000008, 1, 1, 1, 1, fun _ _ => [R.PKT_HASH_SEED_SEED]⟩,
  ⟨0x01000010, 1, 1, 1, 1, fun _ _ => [R.PKT_FS_CMD_OP, R.PKT_FS_CMD_BUSY, R.PKT_FS_CMD_ERR, R.PKT_FS_CMD_ERR_CODE]⟩,
  ⟨0x01000014, 1, 1, 1, 1, fun _ _ => [R.PKT_FS_IDX_IDX]⟩,
  ⟨0x01000020, 1, 1, 4, 9, fun _ k => [R.PKT_FS_DATA_D k]⟩,
  ⟨0x01000060, 1, 1, 1, 1, fun _ _ => [R.PKT_SC_CMD_OP, R.PKT_SC_CMD_BUSY, R.PKT_SC_CMD_ERR, R.PKT_SC_CMD_ERR_CODE]⟩,
  ⟨0x01000064, 1, 1, 1, 1, fun _ _ => [R.PKT_SC_IDX_IDX]⟩,
  ⟨0x01000080, 1, 1, 4, 32, fun _ k => [R.PKT_SC_DATA_D k]⟩,
  ⟨0x01000100, 1, 1, 1, 1, fun _ _ => [R.PKT_EG_CMD_OP, R.PKT_EG_CMD_BUSY, R.PKT_EG_CMD_ERR, R.PKT_EG_CMD_ERR_CODE]⟩,
  ⟨0x01000104, 1, 1, 1, 1, fun _ _ => [R.PKT_EG_IDX_IDX]⟩,
  ⟨0x01000140, 1, 1, 4, 16, fun _ k => [R.PKT_EG_DATA_D k]⟩,
  ⟨0x01000180, 1, 1, 4, 5, fun _ k => [R.PKT_EXC_LIM_LIM k]⟩,
  ⟨0x01000200, 1, 1, 4, 16, fun _ k => [R.PKT_CNT_COUNT k]⟩,
  ⟨0x01400000, 1, 1, 1, 1, fun _ _ => [R.CIS_STAT_CENSUS_ERR, R.CIS_STAT_JUMP]⟩,
  ⟨0x01400010, 1, 1, 1, 1, fun _ _ => [R.CIS_CMD_OP, R.CIS_CMD_BUSY, R.CIS_CMD_ERR, R.CIS_CMD_ERR_CODE]⟩,
  ⟨0x01400014, 1, 1, 1, 1, fun _ _ => [R.CIS_IDX_IDX]⟩,
  ⟨0x01400018, 1, 1, 1, 1, fun _ _ => [R.CIS_ARG_ARG]⟩,
  ⟨0x0140001C, 1, 1, 1, 1, fun _ _ => [R.CIS_LAST_IDX]⟩,
  ⟨0x01400040, 1, 1, 4, 16, fun _ k => [R.CIS_DATA_D k]⟩,
  ⟨0x01800000, 1, 1, 1, 1, fun _ _ => [R.CNV_STAT_PASS_OVR, R.CNV_STAT_COEF_UE, R.CNV_STAT_COEF_CE, R.CNV_STAT_CLIP, R.CNV_STAT_COEF_ERR]⟩,
  ⟨0x01800010, 1, 1, 1, 1, fun _ _ => [R.CNV_CMD_OP, R.CNV_CMD_BUSY, R.CNV_CMD_ERR, R.CNV_CMD_ERR_CODE]⟩,
  ⟨0x01800014, 1, 1, 1, 1, fun _ _ => [R.CNV_IDX_IDX]⟩,
  ⟨0x01800018, 1, 1, 1, 1, fun _ _ => [R.CNV_ARG_ARG]⟩,
  ⟨0x0180001C, 1, 1, 1, 1, fun _ _ => [R.CNV_ARG2_ARG]⟩,
  ⟨0x01800020, 1, 1, 1, 1, fun _ _ => [R.CNV_LAST_IDX, R.CNV_LAST_KIND]⟩,
  ⟨0x01800030, 1, 1, 1, 1, fun _ _ => [R.CNV_COEF_ADDR_ADDR]⟩,
  ⟨0x01800034, 1, 1, 1, 1, fun _ _ => [R.CNV_COEF_DATA_C]⟩,
  ⟨0x01800040, 1, 1, 4, 16, fun _ k => [R.CNV_DATA_D k]⟩,
  ⟨0x01800080, 1, 1, 4, 8, fun _ k => [R.CNV_CNT_COUNT k]⟩,
  ⟨0x01C00000, 65536, 64, 1, 1, fun n _ => [R.CELL_CTL_BRST n]⟩,
  ⟨0x01C00004, 65536, 64, 1, 1, fun n _ => [R.CELL_STAT_PWR n, R.CELL_STAT_IN_RESET n, R.CELL_STAT_ISO_DONE n, R.CELL_STAT_RUN n, R.CELL_STAT_FD n, R.CELL_STAT_TASK n]⟩,
  ⟨0x01C00008, 65536, 64, 1, 1, fun n _ => [R.CELL_EVT_STAT_KERNEL_FAULT n, R.CELL_EVT_STAT_AG_FAULT n, R.CELL_EVT_STAT_DMA_ERR n, R.CELL_EVT_STAT_ACC_OVF n, R.CELL_EVT_STAT_RED_SAT n, R.CELL_EVT_STAT_LM_ECC_CE n, R.CELL_EVT_STAT_LM_ECC_UE n, R.CELL_EVT_STAT_CP_FORCED n, R.CELL_EVT_STAT_CONTRACT_ERR n, R.CELL_EVT_STAT_KPACK_ERR n, R.CELL_EVT_STAT_WAKE_DONE n]⟩,
  ⟨0x01C0000C, 65536, 64, 1, 1, fun n _ => [R.CELL_EVT_EN_KERNEL_FAULT n, R.CELL_EVT_EN_AG_FAULT n, R.CELL_EVT_EN_DMA_ERR n, R.CELL_EVT_EN_ACC_OVF n, R.CELL_EVT_EN_RED_SAT n, R.CELL_EVT_EN_LM_ECC_CE n, R.CELL_EVT_EN_LM_ECC_UE n, R.CELL_EVT_EN_CP_FORCED n, R.CELL_EVT_EN_CONTRACT_ERR n, R.CELL_EVT_EN_KPACK_ERR n, R.CELL_EVT_EN_WAKE_DONE n]⟩,
  ⟨0x01C00010, 65536, 64, 1, 1, fun n _ => [R.CELL_ACC_OVF_LANES n]⟩,
  ⟨0x01C00014, 65536, 64, 1, 1, fun n _ => [R.CELL_LAST_TASK n, R.CELL_LAST_CAUSE n]⟩,
  ⟨0x01C00018, 65536, 64, 1, 1, fun n _ => [R.CELL_ECC_ADDR_ADDR n]⟩,
  ⟨0x01C0001C, 65536, 64, 1, 1, fun n _ => [R.CELL_LM_CODE_BASE n]⟩,
  ⟨0x01C00020, 65536, 64, 4, 8, fun n k => [R.CELL_PACK_ID n k]⟩,
  ⟨0x01C00040, 65536, 64, 4, 8, fun n k => [R.CELL_PACKV_VER n k]⟩,
  ⟨0x01C00060, 65536, 64, 1, 1, fun n _ => [R.CELL_LM_STATE_BASE n]⟩,
  ⟨0x01C00080, 65536, 64, 4, 8, fun n k => [R.CELL_CNT_COUNT n k]⟩]

/-- The registers of BAR0 in ascending address, part 5. -/
def regRows5 : List RegRow := [
  ⟨0x02000000, 1, 1, 1, 1, fun _ _ => [R.TONE_STAT_PASS_OVR, R.TONE_STAT_CLIP]⟩,
  ⟨0x02000010, 1, 1, 1, 1, fun _ _ => [R.TONE_CMD_OP, R.TONE_CMD_BUSY, R.TONE_CMD_ERR, R.TONE_CMD_ERR_CODE]⟩,
  ⟨0x02000014, 1, 1, 1, 1, fun _ _ => [R.TONE_IDX_IDX]⟩,
  ⟨0x02000018, 1, 1, 1, 1, fun _ _ => [R.TONE_ARG_ARG]⟩,
  ⟨0x0200001C, 1, 1, 1, 1, fun _ _ => [R.TONE_LAST_IDX, R.TONE_LAST_GEN]⟩,
  ⟨0x02000040, 1, 1, 4, 8, fun _ k => [R.TONE_DATA_D k]⟩,
  ⟨0x02000080, 1, 1, 4, 8, fun _ k => [R.TONE_CNT_COUNT k]⟩,
  ⟨0x02100000, 1, 1, 1, 1, fun _ _ => [R.CMP_STAT_PASS_OVR, R.CMP_STAT_VERIFY, R.CMP_STAT_FATAL]⟩,
  ⟨0x02100010, 1, 1, 1, 1, fun _ _ => [R.CMP_CMD_OP, R.CMP_CMD_BUSY, R.CMP_CMD_ERR, R.CMP_CMD_ERR_CODE]⟩,
  ⟨0x02100014, 1, 1, 1, 1, fun _ _ => [R.CMP_IDX_IDX]⟩,
  ⟨0x0210001C, 1, 1, 1, 1, fun _ _ => [R.CMP_LAST_STREAM, R.CMP_LAST_REASON]⟩,
  ⟨0x02100020, 1, 1, 1, 1, fun _ _ => [R.CMP_JOB_CMD_OP, R.CMP_JOB_CMD_ERR, R.CMP_JOB_CMD_ERR_CODE]⟩,
  ⟨0x02100024, 1, 1, 1, 1, fun _ _ => [R.CMP_JOB_STAT_BUSY, R.CMP_JOB_STAT_STATUS, R.CMP_JOB_STAT_BLOCKS]⟩,
  ⟨0x02100028, 1, 1, 1, 1, fun _ _ => [R.CMP_JOB_CONSUMED_N]⟩,
  ⟨0x0210002C, 1, 1, 1, 1, fun _ _ => [R.CMP_JOB_PRODUCED_N]⟩,
  ⟨0x02100040, 1, 1, 4, 8, fun _ k => [R.CMP_DATA_D k]⟩,
  ⟨0x02100060, 1, 1, 4, 9, fun _ k => [R.CMP_JOB_DESC_D k]⟩,
  ⟨0x021000A0, 1, 1, 4, 8, fun _ k => [R.CMP_CNT_COUNT k]⟩,
  ⟨0x02200000, 1, 1, 1, 1, fun _ _ => [R.TIME_CTL_MODE, R.TIME_CTL_MODE_PEND, R.TIME_CTL_ONESTEP]⟩,
  ⟨0x02200004, 1, 1, 1, 1, fun _ _ => [R.TIME_STAT_VALID, R.TIME_STAT_XO_FAIL, R.TIME_STAT_TSQ_OVF, R.TIME_STAT_CAP_OVF, R.TIME_STAT_SLEWING]⟩,
  ⟨0x02200010, 1, 1, 1, 1, fun _ _ => [R.TIME_CMD_OP, R.TIME_CMD_BUSY, R.TIME_CMD_ERR, R.TIME_CMD_ERR_CODE]⟩,
  ⟨0x02200014, 1, 1, 1, 1, fun _ _ => [R.TIME_IDX_IDX]⟩,
  ⟨0x02200020, 1, 1, 4, 6, fun _ k => [R.TIME_ARG_ARG k]⟩,
  ⟨0x02200040, 1, 1, 1, 1, fun _ _ => [R.TIME_NOW0_NS]⟩,
  ⟨0x02200044, 1, 1, 1, 1, fun _ _ => [R.TIME_NOW1_SEC]⟩,
  ⟨0x02200048, 1, 1, 1, 1, fun _ _ => [R.TIME_NOW2_SEC, R.TIME_NOW2_SUB]⟩,
  ⟨0x02200050, 1, 1, 1, 1, fun _ _ => [R.TIME_RAW_LO_C]⟩,
  ⟨0x02200054, 1, 1, 1, 1, fun _ _ => [R.TIME_RAW_HI_C]⟩,
  ⟨0x02200058, 1, 1, 1, 1, fun _ _ => [R.TIME_FREQ_LO_F]⟩,
  ⟨0x0220005C, 1, 1, 1, 1, fun _ _ => [R.TIME_FREQ_HI_F]⟩,
  ⟨0x02200060, 1, 1, 1, 1, fun _ _ => [R.TIME_SLEW_LIM_NSPS]⟩,
  ⟨0x02200064, 1, 1, 1, 1, fun _ _ => [R.TIME_SLEW_REM_A]⟩,
  ⟨0x02200080, 16, 4, 4, 4, fun n k => [R.TIME_TSQ_D_D n k]⟩,
  ⟨0x022000C0, 1, 1, 4, 4, fun _ k => [R.TIME_TSQ_HEAD_LEVEL k, R.TIME_TSQ_HEAD_DROP k]⟩,
  ⟨0x022000D0, 1, 1, 4, 4, fun _ k => [R.TIME_PORT_TXLAT_LAT k]⟩,
  ⟨0x022000E0, 1, 1, 4, 4, fun _ k => [R.TIME_PORT_RXLAT_LAT k]⟩,
  ⟨0x022000F0, 1, 1, 4, 4, fun _ k => [R.TIME_PORT_ASYM_ASYM k]⟩,
  ⟨0x02200100, 1, 1, 1, 1, fun _ _ => [R.TIME_CAP_SEL_UNIT]⟩,
  ⟨0x02200104, 1, 1, 4, 4, fun _ k => [R.TIME_CAP_D_D k]⟩,
  ⟨0x02200120, 1, 1, 1, 1, fun _ _ => [R.TIME_REF_CFG_QUAL_PPM, R.TIME_REF_CFG_QUAL_S, R.TIME_REF_CFG_WRATE, R.TIME_REF_CFG_PPS_OFS]⟩]

/-- The registers of BAR0 in ascending address, part 6. -/
def regRows6 : List RegRow := [
  ⟨0x02200124, 1, 1, 1, 1, fun _ _ => [R.TIME_REF_STAT_QUAL]⟩,
  ⟨0x02200128, 1, 1, 1, 1, fun _ _ => [R.TIME_PPS_TS0_NS]⟩,
  ⟨0x0220012C, 1, 1, 1, 1, fun _ _ => [R.TIME_PPS_TS1_SEC]⟩,
  ⟨0x02200130, 1, 1, 1, 1, fun _ _ => [R.TIME_PPS_TS2_SEC, R.TIME_PPS_TS2_STALE]⟩,
  ⟨0x02200134, 1, 1, 1, 1, fun _ _ => [R.TIME_OUT_CFG_EN]⟩,
  ⟨0x02200140, 1, 1, 1, 1, fun _ _ => [R.TIME_DCO_CTL_MODE, R.TIME_DCO_CTL_SEL]⟩,
  ⟨0x02200144, 1, 1, 1, 1, fun _ _ => [R.TIME_DCO_STAT_LOCKED, R.TIME_DCO_STAT_ON_ALT]⟩,
  ⟨0x02200148, 1, 1, 1, 1, fun _ _ => [R.TIME_DCO_FREQ_LO_D]⟩,
  ⟨0x0220014C, 1, 1, 1, 1, fun _ _ => [R.TIME_DCO_FREQ_HI_D]⟩,
  ⟨0x02200160, 1, 1, 1, 1, fun _ _ => [R.TIME_SA_CTL_STEP_THR, R.TIME_SA_CTL_CONFIRM, R.TIME_SA_CTL_ASYM_AUTO]⟩,
  ⟨0x02200164, 1, 1, 1, 1, fun _ _ => [R.TIME_SA_STAT_VERIFY, R.TIME_SA_STAT_PATH]⟩,
  ⟨0x02200170, 1, 1, 4, 4, fun _ k => [R.TIME_SA_EST_EST k]⟩,
  ⟨0x02200180, 1, 1, 4, 8, fun _ k => [R.TIME_DATA_D k]⟩,
  ⟨0x022001A0, 1, 1, 4, 8, fun _ k => [R.TIME_CNT_COUNT k]⟩,
  ⟨0x02300000, 4096, 4, 1, 1, fun n _ => [R.ETH_CTL_AN_RESTART n, R.ETH_CTL_LOOP n]⟩,
  ⟨0x02300004, 4096, 4, 1, 1, fun n _ => [R.ETH_STAT_LINK n, R.ETH_STAT_LINK_CHG n, R.ETH_STAT_FEC n, R.ETH_STAT_RATE n, R.ETH_STAT_TRAINING n]⟩,
  ⟨0x02300008, 4096, 4, 1, 1, fun n _ => [R.ETH_LAST_TS_TS_ID n]⟩,
  ⟨0x02300040, 4096, 4, 4, 12, fun n k => [R.ETH_CNT_COUNT n k]⟩,
  ⟨0x02380000, 256, 32, 1, 1, fun n _ => [R.TDM_CTL_BRST n]⟩,
  ⟨0x02380004, 256, 32, 1, 1, fun n _ => [R.TDM_STAT_CLK_OK n, R.TDM_STAT_LOCK n, R.TDM_STAT_SLIP n, R.TDM_STAT_LINE_LOST n, R.TDM_STAT_IN_RESET n]⟩,
  ⟨0x02380008, 256, 32, 1, 1, fun n _ => [R.TDM_PHASE_P n]⟩,
  ⟨0x02380020, 256, 32, 4, 4, fun n k => [R.TDM_CNT_COUNT n k]⟩,
  ⟨0x02384000, 256, 4, 1, 1, fun n _ => [R.MADI_CTL_BRST n]⟩,
  ⟨0x02384004, 256, 4, 1, 1, fun n _ => [R.MADI_STAT_CLK_OK n, R.MADI_STAT_LOCK n, R.MADI_STAT_SLIP n, R.MADI_STAT_LINE_LOST n, R.MADI_STAT_IN_RESET n, R.MADI_STAT_PARITY n]⟩,
  ⟨0x02384008, 256, 4, 1, 1, fun n _ => [R.MADI_PHASE_P n]⟩,
  ⟨0x02384010, 256, 4, 4, 6, fun n k => [R.MADI_CS_B n k]⟩,
  ⟨0x02384030, 256, 4, 4, 2, fun n k => [R.MADI_ACT_A n k]⟩,
  ⟨0x02384040, 256, 4, 4, 4, fun n k => [R.MADI_CNT_COUNT n k]⟩,
  ⟨0x02386000, 1, 1, 1, 1, fun _ _ => [R.BSD_STAT_IN_OK, R.BSD_STAT_CLK_OK]⟩,
  ⟨0x02386010, 1, 1, 4, 4, fun _ k => [R.BSD_CNT_COUNT k]⟩,
  ⟨0x02800000, 1, 1, 1, 1, fun _ _ => [R.DDR_CFG_A_EN, R.DDR_CFG_B_EN, R.DDR_CFG_INTERLEAVE, R.DDR_CFG_SIZE_A, R.DDR_CFG_SIZE_B, R.DDR_CFG_SPEED, R.DDR_CFG_WIDTH, R.DDR_CFG_RANKS, R.DDR_CFG_DENSITY]⟩,
  ⟨0x02800004, 1, 1, 1, 1, fun _ _ => [R.DDR_STAT_INIT_DONE, R.DDR_STAT_SR_A, R.DDR_STAT_SR_B, R.DDR_STAT_ECC_CE, R.DDR_STAT_ECC_UE, R.DDR_STAT_ADDR_ERR]⟩,
  ⟨0x02800008, 1, 1, 1, 1, fun _ _ => [R.DDR_ECC_ADDR_LO_A]⟩,
  ⟨0x0280000C, 1, 1, 1, 1, fun _ _ => [R.DDR_ECC_ADDR_HI_A]⟩,
  ⟨0x02800040, 1, 1, 4, 6, fun _ k => [R.DDR_CNT_COUNT k]⟩,
  ⟨0x02C00000, 1, 1, 1, 1, fun _ _ => [R.PCIE_CTL_LTSSM_EN]⟩,
  ⟨0x02C00004, 1, 1, 1, 1, fun _ _ => [R.PCIE_STAT_LINK_UP, R.PCIE_STAT_SPEED, R.PCIE_STAT_WIDTH, R.PCIE_STAT_BAD_ACC, R.PCIE_STAT_DENIED, R.PCIE_STAT_POISON_RD]⟩,
  ⟨0x02C00008, 1, 1, 1, 1, fun _ _ => [R.PCIE_DDR_BASE_BASE]⟩,
  ⟨0x02C00040, 1, 1, 4, 4, fun _ k => [R.PCIE_CNT_COUNT k]⟩,
  ⟨0x02C01000, 1, 1, 16, 256, fun _ k => [R.PCIE_MSIX_LO_A k]⟩]

/-- The registers of BAR0 in ascending address, part 7. -/
def regRows7 : List RegRow := [
  ⟨0x02C01004, 1, 1, 16, 256, fun _ k => [R.PCIE_MSIX_HI_A k]⟩,
  ⟨0x02C01008, 1, 1, 16, 256, fun _ k => [R.PCIE_MSIX_DATA_D k]⟩,
  ⟨0x02C0100C, 1, 1, 16, 256, fun _ k => [R.PCIE_MSIX_CTL_MASK k]⟩,
  ⟨0x02C02000, 1, 1, 4, 8, fun _ k => [R.PCIE_PBA_PEND k]⟩]

/-- Every register of BAR0 (R613), in ascending address. -/
def regRows : List RegRow := regRows1 ++ regRows2 ++ regRows3 ++ regRows4 ++ regRows5 ++ regRows6 ++ regRows7

/-- The fields of the register at address `a` of BAR0, `none` where no register lies (R465). -/
def fieldsIn (a : Nat) : List RegRow → Option (List Fld)
  | [] => none
  | r :: rest =>
    let o := a - r.base
    let i := if r.n1 = 1 then 0 else o / r.s1
    let p := if r.n1 = 1 then o else o % r.s1
    if r.base ≤ a ∧ i < r.n1 ∧ p % r.s2 = 0 ∧ p / r.s2 < r.n2 then some (r.flds i (p / r.s2)) else fieldsIn a rest

/-- The fields of the register at address `a` of BAR0, `none` where no register lies (R465). -/
def fieldsAt (a : Nat) : Option (List Fld) := if a % 4 = 0 then fieldsIn a regRows else none

end Sys2Proof.Machine
end

