-- ==== Sys2Proof/Machine/State.lean ====
section
/-! DEFINITION. The state of the EVQ8200 as plain data: the register fields, the run-time state of every block, the two
image banks, the memories, and the queue of the commands that wait. What it holds follows the list in INVENTORY.md. -/

namespace Sys2Proof.Machine

/-- A sparse map: keys strictly rising, one entry a key. What an unlisted key stands for is said at each use. -/
abbrev Kv (α : Type) := List (Nat × α)

/-- Why the machine stops. No rule of the spec stops it: every refusal and every error of the EVQ8200 is an effect on
its state, so this type has no constructor. -/
inductive Fault where
  deriving DecidableEq, Repr

/-- Why a command has no meaning. -/
inductive Refusal where
  /-- Raised by the dispatcher for a command this model has not reached (safe). -/
  | notModelled (mnemonic : String)
  deriving DecidableEq, Repr

/-- A record of the sump log (R593) on its way there: its SOURCE, its 128 bits, and that its event is fatal (R595). -/
structure SumpRec where
  src : Nat
  word : BitVec 128
  fatal : Bool := false
  deriving DecidableEq, Repr, Inhabited

/-- A freeze of the sump log (R596): its CODE and ARG0, and the STROKE, NS and NOCLK of its record. -/
structure SumpFz where
  cause : Nat
  a0 : Nat := 0
  stroke : Nat := 0
  ns : Nat := 0
  noclk : Bool := false
  deriving DecidableEq, Repr, Inhabited

/-- What one cell-clock cycle holds, for the rules that speak of one cycle: `stamp` names the cycle, `hw` gives the bits that hardware has set in it in each
W1C or RWS field (R6), `rc` for each RC field its value before the cycle and what it has counted in it (R7), `old` what a field of EVT_ROUTE held before a write in it
(R612), `evs` the events raised in it, ascending (R612, R618), `vec` that its vectors have their number (R607). For the sump log, whose records of one cycle are
ordered among themselves (R594, R598), `snap` holds what its registers held as the cycle began, empty until the cycle has touched the log, `recs` the records raised
in the cycle and `fzs` its freezes by a command or a reset, each in the order in which they came. -/
structure Cyc where
  stamp : Nat := 0
  hw : Kv Word := []
  rc : Kv (Nat × Nat) := []
  old : Kv Word := []
  evs : List Nat := []
  vec : Bool := false
  snap : List Nat := []
  recs : List SumpRec := []
  fzs : List SumpFz := []
  deriving DecidableEq, Repr, Inhabited

/-- The write that a command register last accepted (R640): its absolute cycle, and its instant in ns from the XO. -/
structure BusyRt where
  cc : Nat := 0
  ns : Nat := 0
  deriving DecidableEq, Repr, Inhabited

/-- The stored register fields, one map for each Kept code of R11. The key is `Fld.key`; an unlisted field holds its
Reset value, and a listed one does not. `cyc` is what the last cycle with a set or a count holds; `busy` holds, by the
address of its register, the command that each command register accepted last. -/
structure RegStore where
  backup : Kv Word := []
  backupC : Kv Word := []
  keep : Kv Word := []
  main : Kv Word := []
  cyc : Cyc := {}
  busy : Kv BusyRt := []
  deriving DecidableEq, Repr, Inhabited

/-- An event raised in the step that runs, with what its sump record holds (R593); `logs` says that its chapter marks
it "sump record", `inj` that it is an injection (R608), `silent` that only its
record is made (R274). -/
structure Ev where
  num : Nat
  arg0 : Nat := 0
  arg1 : Nat := 0
  code : Nat := 0
  logs : Bool := false
  inj : Bool := false
  silent : Bool := false
  deriving DecidableEq, Repr, Inhabited

/-- MSI-X: the due vectors not yet sent, each with the number of the cycle in which it fell due (R605, R607); `cyc` counts the cycles in which one
could. The table and the PBA are register fields. -/
structure Msix where
  due : Kv Nat := []
  cyc : Nat := 0
  deriving DecidableEq, Repr, Inhabited

/-- A physical-memory-protection entry of a core (R18): its configuration byte and its address in units of four bytes. -/
structure PmpEntry where
  cfg : BitVec 8 := 0
  addr : BitVec 54 := 0
  deriving DecidableEq, Repr, Inhabited

/-- A management core (R18): its privilege mode, machine or user, and its 16 protection entries, an unlisted one off. -/
structure CoreRt where
  user : Bool := false
  pmp : Kv PmpEntry := []
  deriving DecidableEq, Repr, Inhabited

/-- The UART (R472): its rate, the line bits it sent last, and the characters received that core 0 has not taken. -/
structure Uart where
  baud : Nat := 115200
  tx : List Bool := []
  rx : List Byte := []
  deriving DecidableEq, Repr, Inhabited

/-- The management cores: per core, whether its last access raised an access fault
(R615), and the management SRAM, unlisted bytes zero; `rom` says that core 0 runs the recovery service of the boot ROM (R532), `started` which cores
run, core 0 alone until it has verified the firmware (R19); `cores` holds what each core is in, and `uart` the console. -/
structure Cores where
  accessFault : BitVec 4 := 0
  sram : Kv Byte := []
  rom : Bool := false
  started : BitVec 4 := 1
  cores : Kv CoreRt := []
  uart : Uart := {}
  deriving DecidableEq, Repr, Inhabited

/-- The sump log (R593 to R597): the ring of 4,096 records of 128 bits, an unlisted record all zero. The head is in
the SUMP register fields. `latchStroke`, `latchNs` and `latchValid` are what the backup domain latched at the last
stroke boundary (R596). -/
structure Sump where
  ring : Kv (BitVec 128) := []
  latchStroke : Word := 0xFFFFFFFF
  latchNs : Word := 0
  latchValid : Bool := false
  deriving DecidableEq, Repr, Inhabited

/-- One requester's bank of the SEC registers (R570, R579): its outstanding challenge, the code of its last PRESENT, and SEC_CHAL, SEC_KEY,
SEC_TOKEN, SEC_ARG, SEC_NONCE and SEC_REPORT whole, byte i in bits [8i + 7 : 8i]. -/
structure SecBank where
  chal : Option (BitVec 384) := none
  chalUs : Nat := 0
  tok : BitVec 4 := 0
  chalReg : BitVec 384 := 0
  key : BitVec 768 := 0
  token : BitVec 2560 := 0
  arg : BitVec 544 := 0
  nonce : BitVec 384 := 0
  report : BitVec 3456 := 0
  deriving DecidableEq, Repr, Inhabited

/-- A WRITE_OTP whose read-back is still to come (R583). -/
structure OtpWrite where
  req : Requester
  zone : Nat
  data : BitVec 512
  argHash : BitVec 384
  role : Nat
  deriving DecidableEq, Repr, Inhabited

/-- A PRESENT that has not completed: its requester, the code of its checks, and what its audit record holds (R581, R589). -/
structure PresentRt where
  req : Requester
  code : Nat
  role : Nat
  arg : Nat
  argHash : BitVec 384
  deriving DecidableEq, Repr, Inhabited

/-- The firmware that core 0 started (R529, R578). -/
structure FwInfo where
  slot : Nat
  ver : Word
  svn : BitVec 16
  measure : BitVec 384
  pub : BitVec 768
  deriving DecidableEq, Repr, Inhabited

/-- Roles and security (R570 to R592). `audQ` holds the queued audit records, oldest first, each of 224 bytes, `audRes`
says that an accepted LOAD holds a reserved entry; `head` and `seq` lie in the backup domain. `sessEnd` is the XO µs at
which the operator session ends. `pres` is a PRESENT that has not completed, `otpWr` one of WRITE_OTP, `attest` the report of an ATTEST. `idPub` is the identity public key and `idOk` says that the key store passes its ECC check. -/
structure Sec where
  host : SecBank := {}
  fw : SecBank := {}
  heldMaker : Option (BitVec 768) := none
  heldInst : Option (BitVec 768) := none
  sessEnd : Option Nat := none
  otpWr : Option OtpWrite := none
  pres : Option PresentRt := none
  attest : Option (Requester × BitVec 3456) := none
  audQ : List (List Byte) := []
  audRes : Bool := false
  audLatch : List Byte := []
  head : BitVec 384 := 0
  seq : Word := 0
  idPub : BitVec 768 := 0
  idOk : Bool := false
  fwInfo : Option FwInfo := none
  deriving DecidableEq, Repr, Inhabited

/-- One-time-programmable memory (R524 to R526, R584): the eight zones as programmed, and the key store: blank, or
the private key with whether its ECC holds. `cut` lists the zones whose programming a reset cut short (R583, R598). -/
structure Otp where
  zones : List (BitVec 512) := [0, 0, 0, 0, 0, 0, 0, 0]
  keyStore : Option (BitVec 384) := none
  keyOk : Bool := true
  cut : List Nat := []
  deriving DecidableEq, Repr, Inhabited

/-- Reset, power and boot (R510 to R548). `por` and `pin` say that POR, or RST_N, is asserted; `kaUp` and `mainUp` that
the keep-alive and main domains are released; `d2` that the part is in D2; `fwUp` that firmware or the recovery service
runs on core 0; `opt` holds the option zones as loaded. `pwrPend` is the D-state command that waits for its boundary.
`wdogMs` is the watchdog timeout in force, `wdogAt` the instant, in ns on the XO, from which it counts, and `wdogWarned` says that it has warned since; `wdogN` says
that WDOG_N is driven low, and `wdogLeft` for how many ns yet. `quad` says that the boot ROM reads the flash 1-4-4 (R527). `xoUs` counts µs from the XO since the
keep-alive domain was released (R648), `xoSub` ticks of a µs not yet whole. `relPend` lists blocks whose release waits for
their clock, `inRst` the blocks in reset, `clkBad` the blocks whose clock is not valid; that of the cells is the DCO output, a keep-alive clock (R644).
`unitBad` lists the other units of R520 whose clock is not valid. -/
structure Rst where
  vdd : Bool := true
  por : Bool := false
  pin : Bool := false
  kaUp : Bool := false
  mainUp : Bool := false
  d2 : Bool := false
  fwUp : Bool := false
  warm : Bool := false
  opt : List (BitVec 512) := [0, 0, 0, 0, 0, 0, 0, 0]
  pwrPend : Option (BitVec 2) := none
  wdogMs : Nat := 0
  wdogAt : Nat := 0
  wdogWarned : Bool := false
  wdogN : Bool := false
  wdogLeft : Nat := 0
  quad : Bool := false
  startWas : Option (Nat × BusyRt) := none
  banks : BitVec 4 := 15
  xoUs : Nat := 0
  xoSub : Nat := 0
  inRst : List Blk := []
  relPend : List Blk := []
  isoDone : List Blk := []
  clkBad : List Blk := []
  unitBad : List HoldUnit := []
  deriving DecidableEq, Repr, Inhabited

/-- A calibration record (R559); `us` is the XO's µs count at its commit (R562). -/
structure CalRec where
  tRec : Int := 0
  vRec : Nat := 0
  load : Nat := 0
  stroke : Nat := 0
  valid : Bool := false
  us : Nat := 0
  deriving DecidableEq, Repr, Inhabited

/-- An open calibration window (R551, R552): its targets in the order they run, the strokes that have ended, and D at its opening. -/
structure CalWin where
  targets : List Nat
  done : Nat := 0
  heldD : Int := 0
  deriving DecidableEq, Repr, Inhabited

/-- The warning state of one voltage monitor (R564): consecutive readings outside and inside, and whether it warns. -/
structure VoltMon where
  out : Nat := 0
  inn : Nat := 0
  warn : Bool := false
  deriving DecidableEq, Repr, Inhabited

/-- Calibration and monitors (R549 to R568). `runPend` is the target mask of a RUN command whose window opens at the next
adjustment point, `fired` says that the quiet window's unit has fired, `abortPend` that the open window has aborted and closes at the next
boundary, `ageLate` that an ageing check waits for the end of the window. `runCc` holds the cycles that the cells spent in RUN, one entry a stroke with the stroke that runs first,
as far back as LOAD reaches (R559); `hots` the hottest readings with the XO's µs count at each, newest first, as far back as TRATE reaches (R556). `warnHi` and `warnLo` say that
the hottest reading stood outside a warning limit, `critHi` that it stood above 130 °C, `tempOut` that no TEMP_CLEAR has followed a warning, `tempCrit` that the crossing of 130 °C
still drives FAULT_N low (R565). -/
structure Cal where
  recs : Kv CalRec := []
  win : Option CalWin := none
  runPend : Option (BitVec 6) := none
  fired : Bool := false
  abortPend : Bool := false
  ageLate : Bool := false
  volts : Kv VoltMon := []
  runCc : List Nat := []
  hots : List (Nat × Int) := []
  warnHi : Bool := false
  warnLo : Bool := false
  critHi : Bool := false
  tempOut : Bool := false
  tempCrit : Bool := false
  deriving DecidableEq, Repr, Inhabited


/-- A clock command that waits for an adjustment point (R395, R396). Times and offsets are in 2^-48 ns, the rate in
2^-48. -/
inductive ClkCmd where
  | set (t : Nat)
  | step (dt : Int)
  | freq (f : Int)
  | adj (dt : Int)
  deriving DecidableEq, Repr, Inhabited

/-- The run-time part of a trigger descriptor (R406), bits [255:64]; `given` is the TIME of the last instance handed to the target block (R410). -/
structure TrigRt where
  sec : BitVec 48 := 0
  ns : Word := 0
  period : Word := 0
  lateWin : BitVec 30 := 0
  armed : Bool := false
  late : Bool := false
  missed : Bool := false
  lateness : BitVec 30 := 0
  missCnt : BitVec 16 := 0
  given : Nat := 0
  deriving DecidableEq, Repr, Inhabited

/-- A path under verification (R423): v, o_s in 1/16 ns, and T_v in 2^-48 ns. -/
structure SaVerify where
  v : Nat
  os : Int
  tv : Nat
  deriving DecidableEq, Repr, Inhabited

/-- An action that a trigger handed to its target block (R410): the unit's number and image bits, its TIME in ns since the TAI epoch, and the
stroke of the first pass that met it. -/
structure Handed where
  unit : Nat
  bits : Nat
  time : Nat
  seen : Option Nat := none
  deriving DecidableEq, Repr, Inhabited

/-- An output framer that the image enables (R420, R421): its offset in ns, its rising edges a second, its pulse width in µs where it is PPS_OUT, 50 % duty
otherwise. `rise` and `fall` are the edges of the present stroke: the number of the first, on from that at the TAI epoch, and how many there are. -/
structure OutRt where
  ofs : Int := 0
  rate : Nat := 1
  wide : Option Nat := none
  rise : Int × Nat := (0, 0)
  fall : Int × Nat := (0, 0)
  deriving DecidableEq, Repr, Inhabited

/-- A stream of the TDC in the stroke that runs (R414): the words of its microseconds that are over, `none` where the stream delivered nothing, each a value,
whether it saturated, and STALE; the sum and number of the phases in the present microsecond; the value delivered last; and `words`, the words of the
stroke before, which the conversion pass takes. -/
structure TdcRt where
  nowWords : List (Option (Int × Bool × Bool)) := []
  sum : Int := 0
  n : Nat := 0
  last : Int := 0
  words : List (Option (Int × Bool × Bool)) := []
  deriving DecidableEq, Repr, Inhabited

/-- A pulse of a PIN unit (R409): the place of its leading edge on house time, in units of 250 ps since the TAI epoch, when it began on the XO, in ns, and its
PW_NS. -/
structure PulseRt where
  edge : Nat
  since : Nat
  width : Nat
  deriving DecidableEq, Repr, Inhabited

/-- The timing unit (R390 to R431). `t` is the counter of STEPPED mode in 2^-32 ns (SEC, NS and FR of R392 together),
`t0` the anchor of FREE mode in 2^-48 ns and `c0` its count (R393), `c` the raw count, `f` and `s` the rate words and `a`
the slew remainder in 2^-48 ns. `adjC` is the count at the last adjustment point and `pre` the reading just before it, `lockC` the count at which the tick PLL became
stable. `dcoD` is D in force, `dcoF` TIME_DCO_FREQ as
committed, `dHist` D over the strokes past, newest first, each with how many strokes it held, `holdAuto` a HOLDOVER entered by R418, `dHold`
the D from which a return from one pulls in, `phiBuild` the phase built out, `ppsGood` the consecutive good PPS_IN intervals, `saFilt` the
filters of each path in 1/65,536 ns. `tdc` holds the streams of the TDC, `refWin` the window of 1 ms of REF10M_IN and WCLK_IN that runs, its edges and whether
it is whole, `refGood` their consecutive good windows, `phiGood` the XO time since which |φ| has been below 10 ns in REF mode, `tsqAt` and `capAt` the cycle of the
last arrival in each queue. `capLast` is the last captured edge of each unit on the XO, in 250 ps, `edgeXo` the last edge of each reference on it, in ns. `outs` holds the framers of the enabled outputs by the bit of TIME_OUT_CFG.EN; they lie in the keep-alive domain. -/
structure Tim where
  locked : Bool := false
  t : Nat := 0
  t0 : Nat := 0
  c0 : BitVec 64 := 0
  c : BitVec 64 := 0
  f : Int := 0
  s : Int := 0
  a : Int := 0
  adjC : Option (BitVec 64) := none
  pre : Nat := 0
  lockC : BitVec 64 := 0
  cmds : List ClkCmd := []
  modePend : Option Bool := none
  nowLatch1 : Option Word := none
  nowLatch2 : Option Word := none
  rawLatch : Option Word := none
  ppsLatch1 : Option Word := none
  ppsLatch2 : Option Word := none
  trigs : Kv TrigRt := []
  pulses : Kv PulseRt := []
  handed : List Handed := []
  tsq : Kv (List (BitVec 128)) := []
  tsqLatch : Kv (BitVec 128) := []
  caps : Kv (List (BitVec 128)) := []
  capLatch : BitVec 128 := 0
  capLast : Kv Nat := []
  phi : Kv Int := []
  lastEdge : Kv Nat := []
  edgeXo : Kv Nat := []
  dcoD : Int := 0
  dcoF : Int := 0
  hoAvg : Nat := 60
  dHist : List (Int × Nat) := []
  holdAuto : Bool := false
  dHold : Option Int := none
  ppsGood : Nat := 0
  phiBuild : Int := 0
  saFilt : Kv (Int × Int) := []
  saVer : Option SaVerify := none
  tdc : Kv TdcRt := []
  refWin : Kv (Nat × Nat × Bool) := []
  refGood : Kv Nat := []
  phiGood : Option Nat := none
  tsqAt : Kv Nat := []
  capAt : Kv Nat := []
  outs : Kv OutRt := []
  deriving DecidableEq, Repr, Inhabited

/-- A kernel pack of an image (R248): identity, version, SHA-384, code words, and the bits of its kernel entries. -/
structure Pack where
  id : Nat
  ver : Nat
  hash : BitVec 384
  codeWords : Nat
  kernels : List Nat
  code : List W72
  deriving DecidableEq, Repr, Inhabited

/-- One bank of the structure image (R480). `objs` maps a section TYPE of R486 and an INDEX to the object's image bits;
section 9 holds the local address entries of R489, 3 the packs' order. `seed` and `exc` are PKT_HASH_SEED and the queue and
limit of each exception class; `proto` is PROTO_BASE; `presets` and `coefs` are the address ranges of the runs. -/
structure Bank where
  id : Nat := 0
  ver : Nat := 0
  hash : BitVec 384 := 0
  objs : Kv (Kv Nat) := []
  packs : List Pack := []
  seed : Nat := 0
  exc : List (Nat × Nat) := []
  proto : List Nat := []
  presets : List (Nat × Nat) := []
  coefs : List (Nat × Nat) := []
  deriving DecidableEq, Repr, Inhabited

/-- Image load and changeover (R480 to R508). `base` is the image whose LOAD runs, `src` and `len` what its LOAD took. `was` holds the
stroke of the last changeover with the pack measurement and the hash of the image before it, which an ATTEST of that cycle shows (R598). -/
structure Img where
  active : Option Bank := none
  shadow : Option Bank := none
  src : Nat := 0
  len : Nat := 0
  stroke : Nat := 0
  lastLatch : Option Word := none
  was : Option (Nat × Option (BitVec 384 × BitVec 384)) := none
  deriving DecidableEq, Repr, Inhabited

/-- A word of the reservoir, a local memory or an item: data in [71:0], FIRST 72, LAST 73, MARK 74, POISON 75. -/
abbrev MWord := BitVec 76

/-- The instance states of R55, bits [250:248]. -/
inductive TState where
  | wait
  | ready
  | staged
  | running
  | stopping
  deriving DecidableEq, Repr, Inhabited

/-- A task instance (R54, R60, R69, R71): the image bits it runs under, the stroke of its release, the cycle and stroke of its
admission to RUN; `cancel` says that it entered STOPPING through a CANCEL, `forced` that it was ended by R262; `drain` says
that it has left the compute array and drains, `removed` that its task is
no longer in the image, `old` that its task has changed since (R500), `clear` that a CLEAR_STATE takes effect at it (R264), `stopAt` the absolute cycle in which it
entered STOPPING, `kern` the kernel entry of its old code while it is `old` (R500). `stg` gives for each input the items staged, the idle or repeat ones, those with a POISON word, and the
OR of their REASON bits (R256); `drainQ` the items still to push. -/
structure Inst where
  bits : Nat := 0
  rel : Nat := 0
  runStroke : Nat := 0
  runCc : Nat := 0
  cancel : Bool := false
  drain : Bool := false
  removed : Bool := false
  old : Bool := false
  clear : Bool := false
  stopAt : Option Nat := none
  kern : Nat := 0
  stg : List (Nat × Nat × Nat × Nat) := []
  drainQ : List (Nat × List MWord) := []
  deriving DecidableEq, Repr, Inhabited

/-- The run-time part of a task (R55, R61, R258, R264). `pend` holds the stroke of the held release, `pendClear` whether a CLEAR_STATE takes effect at it;
`clearSt` says that one waits for the next release. -/
structure TaskRt where
  dep : BitVec 8 := 0
  st : TState := .wait
  pend : Option Nat := none
  disabled : Bool := false
  cancelReq : Bool := false
  inst : Option Inst := none
  clearSt : Bool := false
  pendClear : Bool := false
  firstRun : Bool := true
  deriving DecidableEq, Repr, Inhabited

/-- The stroke origin (R43 to R53, R641). `started` counts strokes since the origin runs, `num` is the counted stroke number,
`cc` the cycle in the stroke. `err` is e in 2^-48 ns; `lost` the lost state of R51, `reorg` a REORIGIN in progress; `enReq` the
XO ns from which the 1 ms of R46 and R47 counts, `numLatch` the value of R53, `phase` P in force in 2^-16 ns (R87). -/
structure Origin where
  num : Nat := 0
  cc : Nat := 0
  err : Int := 0
  steer : Int := 0
  lost : Bool := false
  reorg : Bool := false
  enReq : Option Nat := none
  numLatch : Option Word := none
  phase : Nat := 0
  deriving DecidableEq, Repr, Inhabited

/-- The fields of one accumulator (R230 to R236). -/
structure AccRt where
  v : BitVec 72 := 0
  sat : Bool := false
  poison : Bool := false
  deriving DecidableEq, Repr, Inhabited

/-- An address generator (R242, R257). `len` zero is a LEN set to zero (R244). -/
structure Ag where
  base : BitVec 15 := 0
  off : BitVec 15 := 0
  len : BitVec 16 := 1
  step : BitVec 16 := 0
  mode : AgMode := .linear
  deriving DecidableEq, Repr, Inhabited

/-- A kernel pack whose code is resident in a cell (R250, R252): its identity, and the runs of code words that hold it. -/
structure CodeRt where
  id : Nat
  ver : Nat
  hash : BitVec 384
  runs : List (Nat × Nat) := []
  deriving DecidableEq, Repr, Inhabited

/-- What falls in one cycle of a cell (R266): the cycle, the flags ACC_OVF that arithmetic set in it, and of each local word that the kernel wrote in it
what it held before, with an uncorrectable or a single-bit error. -/
structure CellCyc where
  stamp : Nat := 0
  ovf : BitVec 12 := 0
  old : Kv (MWord × Bool × Bool) := []
  deriving DecidableEq, Repr, Inhabited

/-- A signal cell (R62 to R77, R227 to R269). Local memory: an unlisted word is zero without tags. `lmUe` and `lmCe` list the
words that hold an uncorrectable, or a single-bit, error. `running` is the task in RUN. `fdFrom` is the stroke from which the
first draw opens, `fdDone` the class-L tasks that have run or were skipped in this stroke, `ovfW` the words that a reduction wrote with MARK (R235), `redL` for each word written by
reductions the lanes whose sample carries MARK [2:0], POISON [5:3] and REASON.OVF [8:6], `ovfSeen` says that the
instance in RUN has set ACC_OVF, `parked` that the compute array idles until the next first draw closes (R67), `code` lists the packs resident in the code region, `cyc` is what its last cycle holds. -/
structure CellRt where
  lm : Kv MWord := []
  lmUe : List Nat := []
  lmCe : List Nat := []
  acc : Kv AccRt := []
  ovf : BitVec 12 := 0
  ags : Kv Ag := []
  running : Option Nat := none
  bp : Bool := false
  fdOpen : Bool := false
  fdFrom : Nat := 0
  fdDone : List Nat := []
  ovfW : List Nat := []
  redL : Kv Nat := []
  ovfSeen : Bool := false
  parked : Bool := false
  code : List CodeRt := []
  cyc : CellCyc := {}
  deriving DecidableEq, Repr, Inhabited

/-- The pump (R54 to R88). `predSeen` lists the class-L tasks with a predecessor instance in this stroke,
`cancelled` the tasks with a release retired CANCELLED in it (R63); `decRel` the tasks that completions have released in cycle `decAt` (R79). -/
structure Pump where
  tasks : Kv TaskRt := []
  cells : Kv CellRt := []
  predSeen : List Nat := []
  cancelled : List Nat := []
  decAt : Nat := 0
  decRel : List Nat := []
  deriving DecidableEq, Repr, Inhabited

/-- The run-time part of a queue (R91 to R107, R124). The ten counters stand in the order of R124, QF_QCNT[9] whole.
`openW` holds the words received of an open item, `swallow` says that the rest of a discarded item is swallowed, how many
words it counts and whether FLUSH_DONE fires then, `mal` that the words up to LAST belong to a malformed item, `flight` the items in flight beside the open one, `ret` the freed slots whose credit is in return, `last` the last
item popped, `newN` how many items were pushed in cycle `newAt`, which no pop of that cycle sees (R99), `lastSpill` the stroke of the last spill, `baseC` and `baseF` the census baselines of R117. -/
structure QRt where
  slots : BitVec 16 := 0
  wpA : BitVec 17 := 0
  wpB : BitVec 17 := 0
  rpA : BitVec 17 := 0
  rpB : BitVec 17 := 0
  credit : BitVec 17 := 0
  openW : Option (List MWord) := none
  swallow : Option (Nat × Bool) := none
  mal : Bool := false
  flushPend : Bool := false
  resizePend : Option (BitVec 16) := none
  fbArmed : Bool := false
  flight : Nat := 0
  ret : Nat := 0
  cnt : List Word := [0, 0, 0, 0, 0, 0, 0, 0, 0, 0]
  last : Option (List MWord) := none
  lastSpill : Option Nat := none
  newAt : Nat := 0
  newN : Nat := 0
  baseC : Int := 0
  baseF : Int := 0
  deriving DecidableEq, Repr, Inhabited

/-- One virtual channel of a link direction (R110, R114): sender credits, flits on the wire, flits in the receive buffer and
credits in return; `bad` says that its equation failed and that R118 waits. -/
structure LinkRt where
  credits : Nat := 32
  wire : Nat := 0
  buf : Nat := 0
  ret : Nat := 0
  bad : Bool := false
  deriving DecidableEq, Repr, Inhabited

/-- The arbiter of one router output (R111): the input granted last in each class, and the grants left of the 8 : 4 : 1
rotation. -/
structure ArbRt where
  last : List Nat := [4, 4, 4, 4]
  left : List Nat := [8, 4, 1]
  deriving DecidableEq, Repr, Inhabited

/-- The snapshot of a census in progress (R117): for each link key and queue the failing difference. -/
structure Snap where
  stroke : Nat := 0
  links : List (Nat × Int) := []
  credit : List (Nat × Int) := []
  fate : List (Nat × Int) := []
  cist : List (Nat × Int) := []
  deriving DecidableEq, Repr, Inhabited

/-- Queues, reservoir, mesh and census (R89 to R126). Reservoir: an unlisted word is zero without tags; `resUe` and `resCe` list
the words that hold an uncorrectable, or a single-bit, error. A link's key is 16 × node + 4 × direction + class. `descLatch`
holds descriptor words 6 and 7 latched by R92, with the queue. -/
structure Qf where
  qs : Kv QRt := []
  res : Kv MWord := []
  resUe : List Nat := []
  resCe : List Nat := []
  links : Kv LinkRt := []
  arbs : Kv ArbRt := []
  snap : Option Snap := none
  descLatch6 : Option (Nat × Word) := none
  descLatch7 : Option (Nat × Word) := none
  isoFlits : Word := 0
  deriving DecidableEq, Repr, Inhabited
/-- An SRTP context (R142): SUITE, ROC, S_L, PKT_COUNT, KEY_SOFT and the keys, with its replay window of 128 packets, bit k the index
k below the highest. `ended` says that its index has passed the limit of R144. -/
structure SrtpCtx where
  suite : Nat := 0
  roc : Nat := 0
  sl : Nat := 0
  cnt : Nat := 0
  soft : Nat := 0
  key : BitVec 256 := 0
  salt : BitVec 112 := 0
  auth : BitVec 160 := 0
  win : BitVec 128 := 0
  ended : Bool := false
  deriving DecidableEq, Repr, Inhabited

/-- The run-time part of an egress stream (R168, bits [511:256]) and its counters (R177): TX packets, TX_LINK_DOWN, TX_SUPPRESSED. `past` says that
the packet index has passed 2^48 - 1 under the present keys (R144). -/
structure EgRt where
  seq : BitVec 16 := 0
  roc : Word := 0
  tsLast : Word := 0
  ipId : BitVec 16 := 0
  markNext : Bool := false
  past : Bool := false
  cnt : List Word := [0, 0, 0]
  deriving DecidableEq, Repr, Inhabited

/-- A packet built and queued for launch (R170): its stream, stroke, LAUNCH_CC, bytes and RTP timestamp. -/
structure TxPkt where
  stream : Nat
  stroke : Nat
  cc : Nat
  bytes : List Byte
  ts : Word := 0
  deriving DecidableEq, Repr, Inhabited

/-- The packet engine (R127 to R145, R168 to R172). `flows` holds the flow store, an unlisted entry zero; `ctxs` the SRTP contexts, an
unlisted one SUITE 0; `rx` the frames in each port's receive buffer, oldest first, with their timestamps; `exc` the frames of each
exception class in this stroke; `tx` the packets of each port that wait for launch, in the order of R170. -/
structure Pkt where
  flows : Kv (BitVec 144) := []
  ctxs : Kv SrtpCtx := []
  rx : Kv (List (List Byte × Stamp)) := []
  exc : List Nat := [0, 0, 0, 0, 0]
  eg : Kv EgRt := []
  tx : Kv (List TxPkt) := []
  deriving DecidableEq, Repr, Inhabited

/-- An anchor of a cistern (R148, R642): ANCHOR_TS, and ANCHOR_STROKE with ANCHOR_FRAC in 1/65,536 stroke. -/
structure Anchor where
  ts : Nat := 0
  pos : Int := 0
  deriving DecidableEq, Repr, Inhabited

/-- A packet held in a cistern's ring: its extended sequence number, timestamp, payload words, sample frames and leg, the position of its first sample and
the strokes of one RTP unit as they stood at its acceptance, and the stroke and cycle of that. Its item lies in its slot in the reservoir. -/
structure CisPkt where
  seq : Nat
  ts : Nat
  words : Nat
  frames : Nat
  leg : Bool
  pos : Frac
  step : Frac
  stroke : Nat
  cc : Nat
  deriving DecidableEq, Repr, Inhabited

/-- The run-time part of a cistern (R146, R140, R156, R157, R165). `ring` maps a slot to the packet it holds; `next` is NEXT_SEQ extended,
`anchor0` and `jumpSeq` the anchor before the last jump and the sequence number from which the new one holds, `lastAcc` the sequence number and
timestamp of the packet accepted last, `endPos` the position at which the last accepted packet ends; `lastRel` the sequence number, timestamp and PT
released last, `lossRun` the stroke in which unbroken loss began, `frame` the frames of the packet at NEXT_SEQ already
sent (R154), `pub`, `pubAnchor`, `pubOfs` and `pubJump` the RATIO, the anchor, TS_OFFSET and whether a jump came since the boundary before, as published at
the stroke boundary (R158, R210, R216), `jumped` a jump since then. `quiet` is the stroke before which an increased delay pushes nothing (R163). `legAt` is the
absolute cycle of each leg's last packet and `legPrev` of the one before it, `jumpAt` the cycle of the last jump and `refSwAt` that of the last switch of REF_LEG (R167), `pairs` the arrivals (sequence number, leg B, 2^-16 ns) still
without their other copy. `cnt` holds ACCEPTED, RELEASED, DISCARD, FLUSHED, LATE, DUP, OVERFLOW, CONCEALED, JUMPS, RX_TOTAL,
leg A and leg B. -/
structure CisRt where
  delay : Nat := 0
  slots : Nat := 0
  pts : Word := 0
  tsOfs : Word := 0
  st : BitVec 2 := 0
  refLeg : Bool := false
  legUp : Bool × Bool := (false, false)
  flushPend : Bool := false
  stopPend : Bool := false
  resizePend : Option Nat := none
  delayPend : Option Nat := none
  ratio : Nat := 2 ^ 40
  acc : Frac := {}
  k : Nat := 0
  wmin : Option Frac := none
  next : Option Nat := none
  anchor : Option Anchor := none
  anchor0 : Option (Anchor × Nat) := none
  jumpSeq : Nat := 0
  cur : Nat := 0
  legOfs : Int := 0
  ofsPairs : Nat := 0
  legAt : Option Nat × Option Nat := (none, none)
  lastAt : Option Nat := none
  pairs : List (Nat × Bool × Nat) := []
  ring : Kv CisPkt := []
  lastAcc : Option (Nat × Nat) := none
  endPos : Option Frac := none
  lastRel : Option (Nat × Nat) := none
  lastPt : Nat := 0
  lossRun : Option Nat := none
  frame : Nat := 0
  pub : Nat := 2 ^ 40
  pubAnchor : Option Anchor := none
  pubOfs : Word := 0
  quiet : Nat := 0
  legPrev : Option Nat × Option Nat := (none, none)
  jumpAt : Option Nat := none
  refSwAt : Option Nat := none
  jumped : Bool := false
  pubJump : Bool := false
  base : Nat := 0
  high : Option Nat := none
  bad : Option Nat := none
  transit : Option Int := none
  jitter : Int := 0
  cnt : List Word := [0, 0, 0, 0, 0, 0, 0, 0, 0, 0, 0, 0]
  baseline : Int := 0
  deriving DecidableEq, Repr, Inhabited

/-- A sample on its way through CNV: its value, the reasons of its mark by their place in REASON (R96), and whether it was computed from a POISON
word. -/
structure Smp where
  v : Int := 0
  rs : Nat := 0
  poison : Bool := false
  deriving DecidableEq, Repr, Inhabited

/-- One member of a chain: the CIC's integrators and combs, the two FIR delay lines, newest first, and the open settling window: its sum and how
many inputs it holds. -/
structure ChMem where
  integ : List (BitVec 72) := []
  comb : List (BitVec 72) := []
  d1 : List Smp := []
  d2 : List Smp := []
  acc : Int := 0
  wpos : Nat := 0
  deriving DecidableEq, Repr, Inhabited

/-- The run-time part of a chain (R191, R196). `mem` holds its members; where a CONV partition holds the words at STATE_BASE, the values of their registers and
delay lines are those of the reservoir (R182). `srcOk` is false since the direct source stopped delivering, until the pass has seen it deliver again.
`syncCmd` is a SYNC command of this stroke, `syncDue` one that applies at the stroke's first output. -/
structure ChainRt where
  mem : List ChMem := []
  prime : Nat := 0
  srcOk : Bool := true
  syncCmd : Bool := false
  syncDue : Bool := false
  deriving DecidableEq, Repr, Inhabited

/-- The run-time part of a filter set (R201). `cmd` is a SWAP command of this stroke, `due` one that applies at the stroke's first output. -/
structure SetRt where
  active : Bool := false
  fadeJ : Nat := 0
  fadeF : Nat := 0
  pend : Option (Bool × Nat) := none
  cmd : Option (Bool × Nat) := none
  due : Option (Bool × Nat) := none
  deriving DecidableEq, Repr, Inhabited

/-- The run-time part of a lane (R207). `i0` is I0 with its fraction, `next` the number of the next input sample of a FIXED lane, `newest` the newest
sample written; the last fields are the commands that wait for the boundary; `cnt` holds LANE_LATE, LANE_JUMP, CLIP and the CONCEAL-marked outputs. -/
structure LaneRt where
  en : Bool := false
  dTgt : Nat := 0
  dCur : Nat := 0
  xLast : Nat := 0
  s0 : Nat := 0
  i0 : Frac := {}
  ratio : Nat := 0
  next : Nat := 0
  newest : Option Nat := none
  enPend : Option Bool := none
  dPend : Option Nat := none
  rPend : Option Nat := none
  cnt : List Word := [0, 0, 0, 0]
  deriving DecidableEq, Repr, Inhabited

/-- The conversion engine (R181 to R225). `coef` is the coefficient memory, an unlisted coefficient zero; `coefUe` and `coefCe` list the coefficients with
an uncorrectable, or a single-bit, error. `passed` is the stroke of the last pass, `skip` the chains and lane groups abandoned in this stroke, and
`pops` the input queues whose item this pass has popped. -/
structure Cnv where
  coef : Kv (BitVec 24) := []
  coefUe : List Nat := []
  coefCe : List Nat := []
  chains : Kv ChainRt := []
  sets : Kv SetRt := []
  lanes : Kv LaneRt := []
  passed : Option Nat := none
  skip : List (Bool × Nat) := []
  pops : List Nat := []
  deriving DecidableEq, Repr, Inhabited


/-- A channel of an EC task (R285 to R308): its record (R286, R305) and what its kernel keeps beside it. `lv` holds the six levels of status word 1,
`cnt` DIVERGE, GAPS, TONE_DIS, RESTARTS, CMD_REJ and CMD_OK. `dtLeft`, `holdLeft`, `nlpLeft` and `inhib` count blocks of the double-talk hangover, of HOLD,
of the NLP hangover and without a divergence test; `tonePend` says that the release rule of R298 is unmet, `relCnt` the quiet blocks so far,
`lastTone` the last tone bits; `snap` that a snapshot exists, `snapCnt` the blocks towards one; `energy` holds the sums of squares of Sin, of Sout and of the
linear canceller's output of the last blocks, newest first, `neg` the blocks with ERLE below 0 dB so far, `lowRin` those with Rin below -50 dBm0; `pow` the bins' Rin power, `sinH` the Sin
samples of the block before, newest first, `quiet` the bins' Sin power in the blocks of the background estimate, newest first, `lfsr` the noise generator, where it
has left its seed. LONG: `s0` the stroke of the last OPEN or RESET, `regs` the slots, `pend` the starts of
the evaluation before, `unm` the slots unmatched in it, `moves` REG_MOVES, `far` where the FAR ring goes on, `tapE` the coarse taps' smoothed energies. Coefficients, histories, snapshot and profile
are in the windows (R304). -/
structure EcRt where
  st : BitVec 2 := 0
  conv : Bool := false
  dt : Bool := false
  frozen : Bool := false
  nlpOn : Bool := false
  nlpTone : Bool := false
  hold : Bool := false
  seq : Nat := 0
  lastBlk : Nat := 0
  lv : List Int := [-2048, -2048, -2048, 0, 0, -2048]
  cnt : List (BitVec 16) := [0, 0, 0, 0, 0, 0]
  p0 : W72 := 0
  p1 : W72 := 0
  dtLeft : Nat := 0
  holdLeft : Nat := 0
  nlpLeft : Nat := 0
  inhib : Nat := 0
  tonePend : Bool := false
  relCnt : Nat := 0
  lastTone : BitVec 3 := 0
  snap : Bool := false
  snapCnt : Nat := 0
  energy : List (Nat × Nat × Nat) := []
  neg : Nat := 0
  lowRin : Nat := 0
  pow : List Int := []
  sinH : List Int := []
  quiet : List (List Nat) := []
  lfsr : Option (BitVec 31) := none
  s0 : Nat := 0
  regs : List (Option Nat) := [none, none, none, none]
  pend : List Nat := []
  unm : List Bool := [false, false, false, false]
  moves : BitVec 12 := 0
  far : Nat := 0
  tapE : List Nat := []
  deriving DecidableEq, Repr, Inhabited

/-- The states of a decoder channel (R327). -/
inductive DecState where
  | closed
  | wait
  | active
  | loss
  | dtx
  deriving DecidableEq, Repr, Inhabited

/-- A decoder channel (R323, R326 to R328). `cs` stands for the state of its codec, `ent` is the PT map entry of the last packet, `fill` maps a sample (stroke
× samples per stroke + position) to its value and the reasons it bears, `lastLen` the samples of the last packet, `hist` what the codec has played, newest
first, `lost` the samples concealed since the last speech, `done` the stroke up to which all is emitted, `dtx` the strokes from and before which comfort noise fills
what is uncovered, with the reasons it bears. `cnt` holds FRAMES, LATE, OVERLAP, BAD_FRAME, CMD_REJ and CMD_OK. -/
structure DecRt where
  st : DecState := .closed
  r0 : W72 := 0
  r1 : W72 := 0
  cs : Nat := 0
  ent : Nat := 0
  fill : Kv (Int × Nat) := []
  lastLen : Nat := 0
  hist : List Int := []
  lost : Nat := 0
  done : Nat := 0
  dtx : List (Nat × Option Nat × Nat) := []
  seq : Nat := 0
  cnt : List (BitVec 16) := [0, 0, 0, 0, 0, 0]
  deriving DecidableEq, Repr, Inhabited

/-- An encoder channel (R324, R329, R330). `cs` stands for the state of its codec, `next` is a record of a SET that applies at the next window start, `win` the
samples of the window that is open and began at stroke `wfrom`, `idle` that all of them came from idle items, `bad` that one is POISON, `rs` the reasons that its item
passes on (R237), `upTo` the stroke up to which its instances have come. `cnt` holds FRAMES, CMD_REJ and CMD_OK. -/
structure EncRt where
  isOpen : Bool := false
  r0 : W72 := 0
  next : Option W72 := none
  cs : Nat := 0
  win : Option (List Int) := none
  wfrom : Nat := 0
  upTo : Option Nat := none
  idle : Bool := true
  bad : Bool := false
  rs : Nat := 0
  seq : Nat := 0
  cnt : List (BitVec 16) := [0, 0, 0]
  deriving DecidableEq, Repr, Inhabited

/-- A leg of a conference task (R350 to R352): its record, its weight in 1/16, the stroke of its selection while it is selected, and its smoothed power: the mean of the squares of its samples, in 2^-20. A leg that is not `live` has
been deleted and ramps out. -/
structure LegRt where
  r0 : W72 := 0
  r1 : W72 := 0
  live : Bool := true
  w : Nat := 0
  sel : Option Nat := none
  pow : Nat := 0
  deriving DecidableEq, Repr, Inhabited

/-- A conference task (R350): its conference records and its legs; `poisonIn` is POISON_IN, `legCnt` CMD_REJ and CMD_OK of each
record. -/
structure ConfRt where
  recs : Kv (BitVec 24) := []
  legs : Kv LegRt := []
  poisonIn : BitVec 16 := 0
  seq : Nat := 0
  legCnt : Kv (List (BitVec 16)) := []
  deriving DecidableEq, Repr, Inhabited

/-- A gain of a matrix task (R354): where it moves from and to, in 2^-20, and the strokes of the move already made, 16 where it has ended. -/
structure GainRt where
  old : Frac := {}
  new : Int := 0
  step : Nat := 16
  deriving DecidableEq, Repr, Inhabited

/-- A matrix task (R354): its gains, by 64 × output + source, and CMD_REJ and CMD_OK of each output. -/
structure MatRt where
  gains : Kv GainRt := []
  seq : Nat := 0
  cnt : Kv (List (BitVec 16)) := []
  deriving DecidableEq, Repr, Inhabited

/-- The Verraolo kernels' tasks (R275 to R354), by task. `begun` holds the stroke and cycle of the admission whose FIRST_RUN has been seen to, as one
number. -/
structure Kern where
  begun : Kv Nat := []
  ec : Kv (Kv EcRt) := []
  dec : Kv (Kv DecRt) := []
  enc : Kv (Kv EncRt) := []
  conf : Kv ConfRt := []
  mat : Kv MatRt := []
  deriving DecidableEq, Repr, Inhabited

/-- A run of one detector of a slot (R340 to R343): whether it is ON, the first valid evaluation, the consecutive valid, invalid and skipped ones, the last
valid one, what was found last, and the last evaluation that found a reversal. -/
structure RunRt where
  isOn : Bool := false
  e1 : Option Nat := none
  nValid : Nat := 0
  nInv : Nat := 0
  nSkip : Nat := 0
  lastValid : Nat := 0
  code : Nat := 0
  rev : Bool := false
  am : Bool := false
  lastUpd : Nat := 0
  level : Int := 0
  level2 : Int := 0
  freq : Nat := 0
  revAt : Option Nat := none
  deriving DecidableEq, Repr, Inhabited

/-- The run-time part of a detector slot (R338): enabled, its runs by TYPE, the samples it has taken, newest first, the bursts of the call-progress detector, newest
first, each with its first and last stroke (R341), the last stroke with a sample that no evaluation may hold (R339), and its counters: reports, ON reports and skipped
evaluations (R358). -/
structure DetRt where
  en : Bool := false
  runs : Kv RunRt := []
  hist : List Int := []
  bursts : List (Nat × Nat) := []
  badAt : Option Nat := none
  cnt : List Word := [0, 0, 0]
  deriving DecidableEq, Repr, Inhabited

/-- A program that sounds in a generator slot (R345, R347): the program's six words, the samples since its start, the phases of F1 and F2, and the samples
left of a ramp-down. -/
structure PlayRt where
  prog : List Nat
  n : Nat := 0
  ph1 : Word := 0
  ph2 : Word := 0
  down : Option Nat := none
  deriving DecidableEq, Repr, Inhabited

/-- The run-time part of a generator slot (R346, R349): the program that sounds, those that ramp down, and the command of this stroke: a start with its program, or a
stop. -/
structure GenRt where
  play : Option PlayRt := none
  tails : List PlayRt := []
  cmd : Option (Option Nat) := none
  due : Option (Option Nat) := none
  deriving DecidableEq, Repr, Inhabited

/-- The tone bank (R336 to R359). `passed` is the stroke of the last pass, `skip` the groups abandoned in this stroke. -/
structure Tone where
  dets : Kv DetRt := []
  gens : Kv GenRt := []
  passed : Option Nat := none
  skip : List (Bool × Nat) := []
  deriving DecidableEq, Repr, Inhabited

/-- A block in assembly in an encode stream (R372): its first stroke, the frames so far, FLAGS without IDLE, and whether every item was idle. -/
structure CmpAsm where
  start : Nat
  frames : List (List Int) := []
  flags : Nat := 0
  idle : Bool := true
  deriving DecidableEq, Repr, Inhabited

/-- The run-time part of a compression stream (R370, R372 to R381). `enPend` is an ENABLE or DISABLE that waits for the boundary, `wait` a formed block that waits for
credit, `part` SEQ[15:0] and the bytes of a block partly received, `ring` the decoded strokes with the FLAGS of their blocks, `placed` the first strokes of the
blocks in it. `cnt` holds the eight counters of R388. -/
structure CmpRt where
  en : Bool := false
  enPend : Option Bool := none
  seq : Word := 0
  hasBlk : Bool := false
  asm : Option CmpAsm := none
  wait : Option (List Byte) := none
  part : Option (Nat × List Byte) := none
  ring : Kv (Nat × List (List Int)) := []
  placed : List Nat := []
  cnt : List Word := [0, 0, 0, 0, 0, 0, 0, 0]
  deriving DecidableEq, Repr, Inhabited

/-- The compression engine (R360 to R388). `passed` is the stroke of the last pass, `skip` the streams abandoned in this stroke, `job` the descriptor of the job that
is active. -/
structure Cmp where
  streams : Kv CmpRt := []
  passed : Option Nat := none
  skip : List Nat := []
  job : Option (BitVec 288) := none
  deriving DecidableEq, Repr, Inhabited

/-- The frame begun before a changeover of a line's descriptor (R474): its nominal number, the descriptor and groups it is sent by, and the values of its slots. -/
structure LineTail where
  n : Nat
  desc : Nat
  groups : List (Nat × Nat)
  vals : List Nat
  deriving DecidableEq, Repr, Inhabited

/-- A TDM port or MADI framer (R439 to R457). `desc`, `groups` and `cs` are the keep-alive copies of its descriptor (`valid` says that it has
one), of its group descriptors, each with its index, and of the channel status block. Nominal frames are numbered on from stroke 0; `first` is the
first of the framing in force. `rx` holds the frames received: each slot's bits in [31:0], MARK with CONCEAL in [32], POISON in [33]; an empty
frame is one that a slip left to be filled. `tx` and `txOld` hold the items of each transmit group in this stroke and the one before, `txIdle`
says that the port sends idle values, `txDone` lists the nominal frames sent on an external frame. `lost` says that the line is lost and `back` counts
the frames received since; `csIn` holds the C bits of channel 0 since the last block start. `base` is the first nominal frame of the stroke in which the framing
in force came, `tail` the frame that was begun before it, and `heldAt` the stroke of the last isolation cycle (R474). -/
structure LineRt where
  valid : Bool := false
  desc : Nat := 0
  groups : List (Nat × Nat) := []
  cs : BitVec 192 := 0
  first : Nat := 0
  rx : Kv (List Nat) := []
  tx : Kv (List (List MWord)) := []
  txOld : Kv (List (List MWord)) := []
  txIdle : Bool := true
  txDone : List Nat := []
  lost : Bool := false
  back : Nat := 0
  csIn : List Bool := []
  base : Nat := 0
  tail : Option LineTail := none
  heldAt : Nat := 0
  deriving DecidableEq, Repr, Inhabited

/-- The last frame that an Ethernet port began to send: its bytes without FCS, whether its FCS is valid, whether it is a control frame, and the
time at which it ends, in ns on the XO (R437, R474). -/
structure EthTx where
  bytes : List Byte := []
  fcsOk : Bool := true
  ctl : Bool := false
  endNs : Nat := 0
  deriving DecidableEq, Repr, Inhabited

/-- The external ports beside PKT (R432 to R457). `bsdGood` counts each BSD clock's consecutive strokes of exact count, `bsdBad` lists the clocks with a
fault in this stroke. -/
structure Ports where
  tdm : Kv LineRt := []
  madi : Kv LineRt := []
  bsdGood : Kv Nat := []
  bsdBad : List Nat := []
  ethTx : Kv EthTx := []
  deriving DecidableEq, Repr, Inhabited

/-- The DRAM behind both channels (R458 to R462). An unlisted word holds what `Config.freeDdr` gives for the epoch; `epoch` counts
the losses of content, `ue` and `ce` list the words with an uncorrectable, or a single-bit, error. -/
structure Ddr where
  mem : Kv MWord := []
  epoch : Nat := 0
  ue : List Nat := []
  ce : List Nat := []
  hiLatch : Option Word := none
  deriving DecidableEq, Repr, Inhabited

/-- The PCIe endpoint (R463 to R469, R605): what its configuration space holds. The sizes are in bytes; after a reset they are those of the PCIe specification:
PRESUMED (unsafe, log entry 142). -/
structure Pcie where
  msixEn : Bool := false
  funcMask : Bool := false
  busMaster : Bool := false
  mps : Nat := 128
  mrrs : Nat := 512
  aspmL1 : Bool := false
  deriving DecidableEq, Repr, Inhabited

/-- The JTAG instructions of R473. -/
inductive JtagIr where
  | idcode
  | bypass
  | samplePreload
  | extest
  | clamp
  | highz
  deriving DecidableEq, Repr, Inhabited

/-- The JTAG port (R473): the instruction in force, the boundary register as sampled and as preloaded, and what the data
register shows. -/
structure Jtag where
  ir : JtagIr := .idcode
  sample : List Bool := []
  preload : List Bool := []
  dr : Word := 0
  deriving DecidableEq, Repr, Inhabited

/-- What the I²C controller puts on the bus (R471): a clock pulse on SCL, or a STOP. -/
inductive I2cAct where
  | clock
  | stop
  deriving DecidableEq, Repr, Inhabited

/-- The I²C controller (R471): bus recoveries made, and what the last of them has put on the bus. -/
structure I2c where
  recoveries : Nat := 0
  bus : List I2cAct := []
  deriving DecidableEq, Repr, Inhabited

/-- What the last command gave back: the model's own output, not a register of the part. -/
structure Reply where
  words : List Word := []
  item : List MWord := []
  bytes : List Byte := []
  poison : Bool := false
  value : Int := 0
  flag : Bool := false
  deriving DecidableEq, Repr, Inhabited

/-- Everything of the device but the queue of commands, the OTP and the JTAG port. `evs` lists the events raised in the step
that runs, oldest first; it is empty between steps. `once` lists what has
fired in this stroke of the events that fire at the first occurrence in a stroke. `free` counts the free values taken, `reply` is the model's own output. -/
structure Dev where
  regs : RegStore := {}
  evs : List Ev := []
  once : List Nat := []
  msix : Msix := {}
  cores : Cores := {}
  sump : Sump := {}
  sec : Sec := {}
  rst : Rst := {}
  cal : Cal := {}
  tim : Tim := {}
  img : Img := {}
  org : Origin := {}
  pump : Pump := {}
  qf : Qf := {}
  ports : Ports := {}
  ddr : Ddr := {}
  pcie : Pcie := {}
  i2c : I2c := {}
  pkt : Pkt := {}
  cis : Kv CisRt := []
  cnv : Cnv := {}
  kern : Kern := {}
  tone : Tone := {}
  cmp : Cmp := {}
  reply : Reply := {}
  free : Nat := 0
  deriving DecidableEq, Repr, Inhabited

/-- The state of the machine. `pending` is the queue of the commands that wait, first in first out. -/
structure State where
  dev : Dev := {}
  otp : Otp := {}
  jtag : Jtag := {}
  pending : List Instr := []
  deriving DecidableEq, Repr, Inhabited

/-- The OTP of a part as delivered (R584, R638): the maker zones written, the installer and operator zones blank, the key store holding the identity key that was made
at test. What they hold is that part's own, and free here, the maker zones not blank: DESIGN CHOICE (unsafe, log entry 4). -/
def Otp.delivered : Otp :=
  { zones := (List.range 3).map (fun z => BitVec.ofNat 512 (1 + (Config.makerZone z).toNat % (2 ^ 512 - 1))) ++ [0, 0, 0, 0, 0], keyStore := some Config.partKey }

/-- The state right after reset: every field at its Reset value, every memory without an entry, no command waiting, the domains
released and core 0 running, the DCO synthesiser not yet locked (R644), before the start sequence of R528 has counted, loaded or written anything (POR_RELEASE does
that), and the OTP as delivered: DESIGN CHOICE (unsafe, log entries 4 and 5). -/
def State.reset : State := { dev := { rst := { kaUp := true, mainUp := true, fwUp := true, clkBad := (List.range 64).map .cell } }, otp := Otp.delivered }

end Sys2Proof.Machine
end

