-- ==== Sys2Proof/Machine/Kv.lean ====
section
/-! DEFINITION. The operations on sparse maps. A map stays sorted by key with one entry a key; `kvPut` also keeps it free of
entries equal to what an unlisted key stands for. -/

namespace Sys2Proof.Machine

/-- The entry at key `k`. -/
def kvGet {α : Type} (k : Nat) : Kv α → Option α
  | [] => none
  | (a, v) :: r => if a = k then some v else kvGet k r

/-- The entry at key `k`, or `d` where none is listed. -/
def kvD {α : Type} (m : Kv α) (k : Nat) (d : α) : α := (kvGet k m).getD d

/-- `m` with `v` at key `k`. -/
def kvSet {α : Type} (k : Nat) (v : α) : Kv α → Kv α
  | [] => [(k, v)]
  | (a, x) :: r => if k < a then (k, v) :: (a, x) :: r else if k = a then (k, v) :: r else (a, x) :: kvSet k v r

/-- `m` without the entry at key `k`. -/
def kvDel {α : Type} (k : Nat) : Kv α → Kv α
  | [] => []
  | (a, x) :: r => if a = k then kvDel k r else (a, x) :: kvDel k r

/-- `m` with `v` at key `k`, where an unlisted key stands for `d`. -/
def kvPut {α : Type} [DecidableEq α] (d : α) (k : Nat) (v : α) (m : Kv α) : Kv α :=
  if v = d then kvDel k m else kvSet k v m

/-- `m` with the entry at key `k` changed by `f`, taken as `d` where none is listed. -/
def kvUpd {α : Type} (d : α) (k : Nat) (f : α → α) (m : Kv α) : Kv α := kvSet k (f (kvD m k d)) m

/-- The keys of `m` rise strictly. -/
def kvSorted {α : Type} : Kv α → Bool
  | [] => true
  | (a, _) :: r => (match r with
    | [] => true
    | (b, _) :: _ => decide (a < b)) && kvSorted r

/-- The canonical form of a memory whose unlisted addresses read as `d`: addresses strictly rising, and no entry equal to `d`. -/
def Memory.wf {α : Type} [DecidableEq α] (d : α) (m : Kv α) : Bool := kvSorted m && m.all (fun x => x.2 != d)

/-- The keys of a map, in ascending order. -/
def kvKeys {α : Type} (m : Kv α) : List Nat := m.map Prod.fst

/-- `x` in a list of numbers in ascending order without repeats. -/
def insNat (x : Nat) : List Nat → List Nat
  | [] => [x]
  | a :: r => if x < a then x :: a :: r else if x = a then a :: r else a :: insNat x r

end Sys2Proof.Machine
end

