-- ==== Sys2Proof/Machine/Ops.lean ====
section
/-! DEFINITION. The operations every meaning is built from: reading and writing a register field, raising an event, the hardware
clock, the sump log, the event controller, and the frame of a step. -/

namespace Sys2Proof.Machine

/-! ### Register fields -/

/-- The stored fields of one Kept code. -/
def RegStore.part (r : RegStore) : Kept → Kv Word
  | .backup => r.backup
  | .backupC => r.backupC
  | .keep => r.keep
  | .main => r.main

/-- `r` with the stored fields of one Kept code replaced. -/
def RegStore.withPart (r : RegStore) (k : Kept) (m : Kv Word) : RegStore :=
  match k with
  | .backup => { r with backup := m }
  | .backupC => { r with backupC := m }
  | .keep => { r with keep := m }
  | .main => { r with main := m }

/-- `r` with what its last cycle holds replaced. -/
def RegStore.withCyc (r : RegStore) (c : Cyc) : RegStore := { r with cyc := c }

/-- The value a field holds. -/
def RegStore.get (r : RegStore) (f : Fld) : Nat := (kvD (r.part f.kept) f.key (BitVec.ofNat 32 f.reset)).toNat

/-- The field holds `v`, reduced to its width. -/
def RegStore.set (r : RegStore) (f : Fld) (v : Nat) : RegStore :=
  r.withPart f.kept (kvPut (BitVec.ofNat 32 f.reset) f.key (BitVec.ofNat 32 (v % 2 ^ f.width)) (r.part f.kept))

/-- The value a field holds. -/
def Dev.get (d : Dev) (f : Fld) : Nat := d.regs.get f

/-- The present cell-clock cycle: its absolute number while a stroke runs, its ns from the XO while none does. -/
def Dev.stamp (d : Dev) : Nat :=
  if d.get R.STK_STAT_RUNNING = 1 then 2 * (d.org.num * 156250 + d.org.cc) else 2 * (d.rst.xoUs * 1000 + d.rst.xoSub) + 1

/-- What cycle `t` holds: nothing yet, where `c` is an earlier cycle. -/
def Cyc.now (c : Cyc) (t : Nat) : Cyc := if c.stamp = t then c else { stamp := t }

/-- Hardware sets bits `m` of a W1C or RWS field in this cycle: a clear that software writes in the same cycle leaves them set (R6). -/
def Cyc.mark (c : Cyc) (f : Fld) (m : Nat) : Cyc :=
  if f.ty = .rws ∨ f.ty = .w1c then { c with hw := kvPut 0 f.key (kvD c.hw f.key 0 ||| BitVec.ofNat 32 m) c.hw } else c

/-- Bits `m` of the field are marked as set in this cycle. -/
def Dev.markHw (d : Dev) (f : Fld) (m : Nat) : Dev := { d with regs := d.regs.withCyc ((d.regs.cyc.now d.stamp).mark f m) }

/-- The field holds `v`, reduced to its width, as hardware sets it. -/
def Dev.set (d : Dev) (f : Fld) (v : Nat) : Dev :=
  let m := if f.width = 1 then v % 2 else v % 2 ^ f.width - (v &&& d.get f)
  { d with regs := (d.regs.set f v).withCyc ((d.regs.cyc.now d.stamp).mark f m) }

/-- Software writes 1 to bits `m` of the field: they clear, but for those that hardware has set in this cycle (R5, R6). -/
def Dev.clearBits (d : Dev) (f : Fld) (m : Nat) : Dev :=
  let x := d.get f
  { d with regs := d.regs.set f (x - (x &&& m) + (x &&& m &&& (kvD (d.regs.cyc.now d.stamp).hw f.key 0).toNat)) }

/-- What the present cycle holds. -/
def Dev.thisCyc (d : Dev) : Cyc := d.regs.cyc.now d.stamp

/-- `f` on what the present cycle holds. -/
def Dev.onCyc (d : Dev) (f : Cyc → Cyc) : Dev := { d with regs := d.regs.withCyc (f d.thisCyc) }

/-- The value a field held before this cycle's write of it (R612). -/
def Dev.before (d : Dev) (f : Fld) : Nat := match kvGet f.key d.thisCyc.old with
  | none => d.get f
  | some x => x.toNat

/-- A field is about to be written: what it holds is kept for the rest of the cycle. -/
def Dev.markOld (d : Dev) (f : Fld) : Dev := d.onCyc (fun c => if (kvGet f.key c.old).isSome then c else { c with old := kvSet f.key (BitVec.ofNat 32 (d.get f)) c.old })

/-- Hardware sets bits `m` of the field beside those it holds. -/
def Dev.orFld (d : Dev) (f : Fld) (m : Nat) : Dev := (d.set f (d.get f ||| m)).markHw f m

/-- A one-bit field as a Boolean. -/
def Dev.flag (d : Dev) (f : Fld) : Bool := d.get f == 1

/-- An RC field counts `n` more in this cycle, from the value `x` (R7). -/
def Dev.markRc (d : Dev) (f : Fld) (x n : Nat) : Dev :=
  let c := d.regs.cyc.now d.stamp
  let o := (kvGet f.key c.rc).getD (x, 0)
  { d with regs := d.regs.withCyc (if f.ty = .rc then { c with rc := kvSet f.key (o.1, o.2 + n) c.rc } else c) }

/-- The field counts `n` more and saturates at its width (R5: the counters that saturate). -/
def Dev.count (d : Dev) (f : Fld) (n : Nat := 1) : Dev :=
  (d.set f (min (d.get f + n) (2 ^ f.width - 1))).markRc f (d.get f) n

/-- An RC field as software reads it, and the device after: what it counted in this same cycle is not yet in the value read, and stays in the field (R5,
R7). -/
def Dev.readClear (d : Dev) (f : Fld) : Nat × Dev :=
  match kvGet f.key (d.regs.cyc.now d.stamp).rc with
  | none => (d.get f, d.set f 0)
  | some (x, n) =>
    let d := d.set f (min n (2 ^ f.width - 1))
    (x, { d with regs := d.regs.withCyc { d.regs.cyc with rc := kvSet f.key (0, n) d.regs.cyc.rc } })

/-- The field counts `n` more modulo its width. -/
def Dev.countMod (d : Dev) (f : Fld) (n : Nat := 1) : Dev := d.set f (d.get f + n)

/-- The words of an array of 32-bit fields take the bits of `x`, lowest word first. -/
def Dev.setWords (d : Dev) (f : Nat → Fld) (n x : Nat) : Dev :=
  (List.range n).foldl (fun d k => d.set (f k) (bits x (32 * k) 32)) d

/-- The bits held by an array of 32-bit fields, lowest word first. -/
def Dev.getWords (d : Dev) (f : Nat → Fld) (n : Nat) : Nat :=
  (List.range n).foldl (fun x k => x + d.get (f k) * 2 ^ (32 * k)) 0

/-- The next free value (log entry 1), below `2 ^ w`, and the device with it taken. -/
def Dev.takeFree (d : Dev) (w : Nat) : Nat × Dev := (Config.free d.free % 2 ^ w, { d with free := d.free + 1 })

/-! ### Events -/

/-- Event `n` is raised, with what its sump record holds (R602, R593). -/
def Dev.ev (d : Dev) (n : Nat) (a0 : Nat := 0) (a1 : Nat := 0) (code : Nat := 0) : Dev :=
  { d with evs := d.evs ++ [{ num := n, arg0 := a0, arg1 := a1, code := code, logs := evLogged n }] }

/-- Event `n` is raised if this is its first occurrence in this stroke under key `k`. -/
def Dev.evOnce (d : Dev) (n : Nat) (k : Nat := 0) (a0 : Nat := 0) (a1 : Nat := 0) : Dev :=
  if d.once.contains (n + 256 * k) then d else { (d.ev n a0 a1) with once := (n + 256 * k) :: d.once }

/-- Apply `f` to the device for each element of a list, in order. -/
def Dev.each {α : Type} (d : Dev) (l : List α) (f : Dev → α → Dev) : Dev := l.foldl f d

/-! ### The hardware clock (R390 to R398) -/

/-- F + S, saturated to ±2^-11 (R394), in 2^-48. -/
def Tim.rate (t : Tim) : Int := clampInt (-(2 ^ 37)) (2 ^ 37) (t.f + t.s)

/-- INC of STEPPED mode in 2^-32 ns (R392). -/
def Tim.inc (t : Tim) : Int := roundEven (2 ^ 48 + t.rate) (2 ^ 16)

/-- The number of 2^-32 ns after which the 48-bit seconds wrap. -/
def tWrap : Nat := 2 ^ 48 * 10 ^ 9 * 2 ^ 32

/-- The clock reading in 2^-48 ns: the counter T (R392), or t(C) (R393). -/
def Tim.now48 (t : Tim) (free : Bool) : Nat :=
  if free then ((t.t0 : Int) + ((t.c - t.c0).toNat : Int) * (2 ^ 48 + t.rate)).toNat else t.t * 2 ^ 16

/-- The tick clock has advanced `n` ticks: C counts them (R393), T advances by INC at each (R392). While the tick PLL is not locked, the
clock stands still (R391). -/
def Tim.tick (t : Tim) (free : Bool) (n : Nat) : Tim :=
  if t.locked then
    { t with c := t.c + BitVec.ofNat 64 n,
             t := if free then t.t else ((t.t : Int) + n * t.inc).toNat % tWrap }
  else t

/-- The construction in force is FREE (R397). -/
def Dev.freeMode (d : Dev) : Bool := d.flag R.TIME_CTL_MODE

/-- House time in 2^-48 ns. -/
def Dev.now48 (d : Dev) : Nat := d.tim.now48 d.freeMode

/-- House time in whole ns since the TAI epoch. -/
def Dev.nowNs (d : Dev) : Nat := d.now48 / 2 ^ 48

/-- A reading in 2^-48 ns as a timestamp: seconds, ns, and 1/65,536 ns truncated (R392, R393). -/
def stampOf (t48 : Nat) : Stamp :=
  let ns := t48 / 2 ^ 48
  { sec := BitVec.ofNat 48 (ns / 10 ^ 9), ns := BitVec.ofNat 32 (ns % 10 ^ 9), sub := BitVec.ofNat 16 (t48 / 2 ^ 32) }

/-- A timestamp as a number of 2^-16 ns since the TAI epoch. -/
def stampSub16 (s : Stamp) : Nat := (s.sec.toNat * 10 ^ 9 + s.ns.toNat) * 2 ^ 16 + s.sub.toNat

/-- A number of 2^-16 ns since the TAI epoch as a timestamp. -/
def stampOf16 (x : Nat) : Stamp := stampOf (x * 2 ^ 32)

/-- TIME_STAT.VALID (R391). -/
def Dev.clkValid (d : Dev) : Bool := d.flag R.TIME_STAT_VALID

/-! ### The sump log (R593 to R597) -/

/-- A record (R593). With NOCLK set, NS is the µs since the keep-alive domain was released (R648). -/
def sumpRecord (stroke ns src code a0 a1 : Nat) (noclk fatal : Bool) : BitVec 128 :=
  BitVec.ofNat 128 (stroke % 2 ^ 32 + ns % 2 ^ 32 * 2 ^ 32 + src % 256 * 2 ^ 64 +
    (code % 64 + b2n noclk * 64 + b2n fatal * 128) * 2 ^ 72 + a0 % 2 ^ 24 * 2 ^ 80 + a1 % 2 ^ 24 * 2 ^ 104)

/-- The STROKE of a record (R593). -/
def Dev.sumpStroke (d : Dev) : Nat := if d.flag R.STK_STAT_RUNNING then d.org.num else 0xFFFFFFFF

/-- The NS of a record and its NOCLK (R593, R648). -/
def Dev.sumpNs (d : Dev) : Nat × Bool :=
  if d.clkValid then (d.nowNs % 10 ^ 9, false) else (d.rst.xoUs, true)

/-- One record is written at the write pointer, or counted in SUMP_DROPPED where the frozen log has no slot left (R594, R596). -/
def Dev.sumpWrite (d : Dev) (r : BitVec 128) : Dev :=
  if d.flag R.SUMP_STAT_FROZEN ∧ 256 ≤ d.get R.SUMP_FREEZE_USED then d.count R.SUMP_DROPPED_N
  else
    let p := d.get R.SUMP_WP_IDX
    let d := { d with sump := { d.sump with ring := kvPut 0 p r d.sump.ring } }
    let d := (d.set R.SUMP_WP_IDX (p + 1)).countMod R.SUMP_TOTAL_N
    let d := if p = 4095 then d.set R.SUMP_WP_WRAPPED 1 else d
    if d.flag R.SUMP_STAT_FROZEN then d.countMod R.SUMP_FREEZE_USED else d

/-- The log freezes (R596). -/
def Dev.sumpFreeze (d : Dev) (z : SumpFz) : Dev :=
  let frozen := d.flag R.SUMP_STAT_FROZEN
  let d := d.count R.SUMP_STAT_FREEZE_CNT
  let idx := d.get R.SUMP_WP_IDX
  let d := d.sumpWrite (sumpRecord z.stroke z.ns E.SUMP_FROZEN z.cause z.a0 (d.get R.SUMP_STAT_FREEZE_CNT) z.noclk false)
  if frozen then d
  else (((d.set R.SUMP_STAT_FROZEN 1).set R.SUMP_STAT_CAUSE z.cause).set R.SUMP_FREEZE_IDX idx).set R.SUMP_FREEZE_USED 0

/-- The registers that hold where the log stands: three that SUMP_CLEAR leaves, two that a thaw leaves, and the state of the freeze. -/
def sumpFlds : List Fld :=
  [R.SUMP_TOTAL_N, R.SUMP_DROPPED_N, R.SUMP_FREEZE_IDX, R.SUMP_WP_IDX, R.SUMP_WP_WRAPPED,
    R.SUMP_STAT_FROZEN, R.SUMP_STAT_CAUSE, R.SUMP_STAT_FREEZE_CNT, R.SUMP_FREEZE_USED]

/-- What those registers held as the present cycle began. -/
def Dev.sumpSnap (d : Dev) : List Nat := if d.thisCyc.snap.isEmpty then sumpFlds.map d.get else d.thisCyc.snap

/-- `r` in a list ordered by SOURCE, behind those of its SOURCE. -/
def insRec (r : SumpRec) : List SumpRec → List SumpRec
  | [] => [r]
  | a :: l => if r.src < a.src then r :: a :: l else a :: insRec r l

/-- Records in ascending SOURCE, those of one SOURCE in their order (R594). -/
def sortRecs (l : List SumpRec) : List SumpRec := l.foldl (fun acc r => insRec r acc) []

/-- The freeze that a fatal event causes (R595, R596): its record carries the STROKE, NS and NOCLK of the event's own. -/
def SumpRec.freeze (r : SumpRec) : SumpFz :=
  { cause := 4, a0 := r.src, stroke := bits r.word.toNat 0 32, ns := bits r.word.toNat 32 32, noclk := bit r.word.toNat 78 }

/-- The log as the present cycle leaves it: from where it stood as the cycle began, `snap`, the records raised so far in ascending SOURCE, 16 of them staged and the
others counted in SUMP_DROPPED (R594), one freeze for its fatal events, and the freezes by a command or a reset (R598). That a command's freeze follows every record of
its cycle is DEDUCED (log entry 96). -/
def Dev.sumpRedo (d : Dev) (snap : List Nat) (recs : List SumpRec) (fzs : List SumpFz) : Dev :=
  let d := (d.onCyc (fun c => { c with snap := snap, recs := recs, fzs := fzs })).each (sumpFlds.zip snap) (fun d x => d.set x.1 x.2)
  let l := sortRecs recs
  let d := (d.each (l.take 16) (fun d r => d.sumpWrite r.word)).count R.SUMP_DROPPED_N (l.length - 16)
  d.each ((l.find? (·.fatal)).toList.map SumpRec.freeze ++ fzs) Dev.sumpFreeze

/-- A freeze by a command or a reset (R596), in the cycle's order; SUMP_FROZEN fires. -/
def Dev.freeze (d : Dev) (z : SumpFz) : Dev := (d.sumpRedo d.sumpSnap d.thisCyc.recs (d.thisCyc.fzs ++ [z])).ev E.SUMP_FROZEN

/-- The event is fatal (R595): never 27 or 28, never an injection (R608). -/
def Dev.fatal (d : Dev) (e : Ev) : Bool :=
  !e.inj && !e.silent && e.num != E.SUMP_FROZEN && e.num != E.FATAL &&
    (bit (d.get (R.SUMP_FATAL_MASK (e.num / 32))) (e.num % 32) ||
      (e.num == E.CENSUS_ERR && d.flag R.QF_CENSUS_CTL_FATAL))

/-- The records of the step's events: those that their chapters mark, and every fatal event's, with FATAL set (R593 to R595). -/
def Dev.newRecs (d : Dev) : List SumpRec :=
  let ns := d.sumpNs
  (d.evs.filter (fun e => e.logs || d.fatal e)).map (fun e =>
    let f := d.evs.any (fun x => d.fatal x && x.num == e.num && e.inj == x.inj)
    { src := e.num, word := sumpRecord d.sumpStroke ns.1 e.num e.code e.arg0 e.arg1 ns.2 f, fatal := f })

/-- The records of the step's events join those of their cycle (R594). A fatal event sets FAULT, fires FATAL and freezes the log, once in a cycle (R595, R598). -/
def Dev.settleSump (d : Dev) : Dev :=
  match d.newRecs with
  | [] => d
  | l =>
    let had := d.thisCyc.recs.any (·.fatal)
    let d' := d.sumpRedo d.sumpSnap (d.thisCyc.recs ++ l) d.thisCyc.fzs
    if l.any (·.fatal) then (((if had then d' else d'.ev E.SUMP_FROZEN).set R.SUMP_STAT_FAULT 1).ev E.FATAL) else d'

/-! ### The event controller (R602 to R607) -/

/-- Vector `v` becomes due; raises coalesce until its message is sent (R605). -/
def Dev.vecDue (d : Dev) (v : Nat) : Dev :=
  if (kvGet v d.msix.due).isSome then d else { d with msix := { d.msix with due := kvSet v d.msix.cyc d.msix.due } }

/-- Bit `n` of a bitmap, whose word `n / 32` is `f`, is set. -/
def Dev.orBit (d : Dev) (f : Fld) (n : Nat) : Dev := d.orFld f (2 ^ (n % 32))

/-- Delivery to the cores that CORES names (R603). -/
def Dev.deliverCores (d : Dev) (n : Nat) : Dev :=
  d.each [0, 1, 2, 3] (fun d c => if bit (d.before (R.EVT_ROUTE_CORES n)) c then d.orBit (R.EVT_CPEND_BITS c (n / 32)) n else d)

/-- Delivery to the host: the vector becomes due where the HPEND bit goes from 0 to 1 (R603, R605). -/
def Dev.deliverHost (d : Dev) (n : Nat) : Dev :=
  let d' := d.orBit (R.EVT_HPEND_BITS (n / 32)) n
  if d.before (R.EVT_ROUTE_MSIX n) ≠ 1 then d
  else if bit (d.get (R.EVT_HPEND_BITS (n / 32))) (n % 32) then d'
  else d'.vecDue (d.before (R.EVT_ROUTE_VEC n))

/-- Delivery to ALERT_N (R603). -/
def Dev.deliverAlert (d : Dev) (n : Nat) : Dev := if d.before (R.EVT_ROUTE_ALERT n) = 1 then d.orBit (R.EVT_APEND_BITS (n / 32)) n else d

/-- One raise is recorded and delivered under the routing in force, a write of this same cycle apart (R602, R603, R605, R612). -/
def Dev.deliver (d : Dev) (n : Nat) : Dev := (((d.orBit (R.EVT_RAW_BITS (n / 32)) n).deliverCores n).deliverHost n).deliverAlert n

/-- The numbers of the events raised in the step, of 8 bits, ascending, each once: raises of one event in one cycle set the same bits (R602, R612). -/
def Dev.raised (d : Dev) : List Nat :=
  (d.evs.filter (fun e => !e.silent)).foldl (fun l e => insNat (e.num % 256) l) []

/-- The vectors that fall due in this cycle take its number, a higher one than those of every cycle before, where `on` says so (R607). -/
def Dev.vecCycle (d : Dev) (on : Bool) : Dev :=
  if on && !d.thisCyc.vec then { d with msix := { d.msix with cyc := d.msix.cyc + 1 } }.onCyc (fun c => { c with vec := true }) else d

/-- The step's raises reach the event controller, which runs while the main domain is released (R611); EVT_LAST takes the highest number of
the cycle, and EVT_TOTAL counts an event once a cycle (R612, R618). -/
def Dev.settleEvt (d : Dev) : Dev :=
  if d.rst.mainUp then
    let ns := d.raised
    let seen := d.thisCyc.evs
    let d := (d.vecCycle (!ns.isEmpty)).each ns Dev.deliver
    match ns.getLast? with
    | none => d
    | some n =>
      let d := d.onCyc (fun c => { c with evs := ns.foldl (fun l e => insNat e l) seen })
      ((d.set R.EVT_LAST_EVENT (max n (seen.getLast?.getD 0))).set R.EVT_LAST_STROKE d.sumpStroke).count R.EVT_TOTAL_COUNT (ns.filter (fun e => !seen.contains e)).length
  else d

/-- The events of the step take their effect, and none is left. -/
def Dev.settle (d : Dev) : Dev := { d.settleSump.settleEvt with evs := [] }

/-! ### The frame of a step -/

/-- The outcome of a meaning. -/
abbrev Out := Host.Outcome State Fault Refusal

/-- The step begins: the cycle in the stroke is `w.cc`, `w.ticks` ticks have passed since the step before (log entry 10), and the reply is
empty. While the origin is stopped no stroke runs, and STK_CC holds what it last read: DESIGN CHOICE (unsafe, log entry 106). The XO counts µs while the keep-alive domain is released (R648), and the WDOG_N stretcher
runs on through every reset (R537). -/
def Dev.at (d : Dev) (w : When) : Dev :=
  let x := d.rst.xoSub + w.ticks
  { d with
    org := { d.org with cc := if d.get R.STK_STAT_RUNNING = 1 then w.cc else d.org.cc }
    tim := if d.rst.kaUp then d.tim.tick d.freeMode w.ticks else d.tim
    rst := { d.rst with
      xoUs := if d.rst.kaUp then d.rst.xoUs + x / 1000 else d.rst.xoUs
      xoSub := if d.rst.kaUp then x % 1000 else d.rst.xoSub
      wdogLeft := d.rst.wdogLeft - w.ticks }
    reply := {} }

/-- The device is running media (R25): STK_CTL.MEDIA. An image becomes active only after its certificate has passed. -/
def Dev.media (d : Dev) : Bool :=
  d.rst.mainUp && decide (d.get R.RST_PWR_STATE ≤ 1) && !d.flag R.RST_STAT_RECOVERY && d.img.active.isSome && d.flag R.STK_STAT_RUNNING

/-- MEDIA_CHANGE is raised where the step has changed MEDIA (R609). -/
def Dev.mediaEv (d : Dev) (before : Bool) : Dev := if d.media == before then d else d.ev E.MEDIA_CHANGE

/-- A step of the device: time moves on, `f` is the command's effect, and the events it raised take theirs. -/
def State.run (s : State) (w : When) (f : Dev → Dev) : Out :=
  .next { s with dev := ((f (s.dev.at w)).mediaEv s.dev.media).settle }

/-- `f` where `c` holds of the device, and nothing otherwise. -/
def Dev.when (c : Bool) (f : Dev → Dev) (d : Dev) : Dev := if c then f d else d

/-- A step of the main domain: it does nothing while that domain is in reset (log entry 11). -/
def State.runMain (s : State) (w : When) (f : Dev → Dev) : Out := s.run w (fun d => Dev.when d.rst.mainUp f d)

/-- A step of the keep-alive domain: it does nothing while that domain is in reset. -/
def State.runKa (s : State) (w : When) (f : Dev → Dev) : Out := s.run w (fun d => Dev.when d.rst.kaUp f d)

/-- An access by a requester reaches the part while the main domain is released, and FW makes one only while a core runs (log entry 11). -/
def Dev.reach (d : Dev) : Requester → Bool
  | .host => d.rst.mainUp
  | .fw => d.rst.mainUp && d.rst.fwUp

/-- A step that a requester's access makes. -/
def State.runReq (s : State) (w : When) (req : Requester) (f : Dev → Dev) : Out :=
  s.run w (fun d => Dev.when (d.reach req) f d)

end Sys2Proof.Machine
end

