-- ==== Sys2Proof/Machine/Operands.lean ====
section
/-! DEFINITION. The operands of commands and of the engines: words with their tags, items and their header (R96), the objects of the
active image, the option zones as loaded, and the two codes and roundings of lanes. -/

namespace Sys2Proof.Machine

/-! ### Words and items -/

/-- A value lies in a range. -/
def inR (lo x hi : Nat) : Bool := decide (lo ≤ x ∧ x ≤ hi)

/-- A word of a memory from its data and tags. -/
def mkW (data : Nat) (first last mark poison : Bool) : MWord :=
  BitVec.ofNat 76 (data % 2 ^ 72 + b2n first * 2 ^ 72 + b2n last * 2 ^ 73 + b2n mark * 2 ^ 74 + b2n poison * 2 ^ 75)

/-- The 72 data bits. -/
def wData (w : MWord) : Nat := w.toNat % 2 ^ 72

/-- The FIRST tag. -/
def wFirst (w : MWord) : Bool := bit w.toNat 72

/-- The LAST tag. -/
def wLast (w : MWord) : Bool := bit w.toNat 73

/-- The MARK tag. -/
def wMark (w : MWord) : Bool := bit w.toNat 74

/-- The POISON tag. -/
def wPoison (w : MWord) : Bool := bit w.toNat 75

/-- A word with its data replaced, its tags kept. -/
def withData (w : MWord) (data : Nat) : MWord := mkW data (wFirst w) (wLast w) (wMark w) (wPoison w)

/-- A word as its producer sent it. -/
def TWord.toW (w : TWord) : MWord := mkW w.data.toNat w.first w.last w.mark w.poison

/-- Zero tagged POISON: what a faulting read returns (R244, R246, R247). -/
def poisonZero : MWord := mkW 0 false false false true

/-- `x` with bit `i` set. -/
def setBit (x i : Nat) : Nat := if bit x i then x else x + 2 ^ i

/-- `x` with bits `[lo + len - 1 : lo]` replaced by `v`. -/
def setBits (x lo len v : Nat) : Nat := x - bits x lo len * 2 ^ lo + v % 2 ^ len * 2 ^ lo

/-- PLEN of an item header (R96). -/
def hPlen (h : Nat) : Nat := bits h 16 8

/-- The REASON bits [55:48] of an item header. -/
def hReason (h : Nat) : Nat := bits h 48 8

/-- The REASON bits, by their place in the header (R96). -/
def rPrime : Nat := 48
/-- REASON.OVF. -/
def rOvf : Nat := 49
/-- REASON.CONCEAL. -/
def rConceal : Nat := 50
/-- REASON.IDLE. -/
def rIdle : Nat := 51
/-- REASON.REPEAT. -/
def rRepeat : Nat := 52
/-- REASON.STALE. -/
def rStale : Nat := 53
/-- REASON.SPILL. -/
def rSpill : Nat := 54

/-- The header data of an item, zero for an empty list. -/
def itemHdr (it : List MWord) : Nat := match it with
  | [] => 0
  | h :: _ => wData h

/-- The payload words of an item. -/
def itemBody (it : List MWord) : List MWord := it.drop 1

/-- An item with its header's data changed by `f`. -/
def itemMapHdr (f : Nat → Nat) (it : List MWord) : List MWord := match it with
  | [] => []
  | h :: r => withData h (f (wData h)) :: r

/-- An item formed from a header's REASON and USER and its payload words, tags set from its length; the payload keeps MARK and POISON. -/
def mkItem (reason user : Nat) (body : List MWord) : List MWord :=
  let n := body.length
  let h := mkW (n * 2 ^ 16 + reason % 256 * 2 ^ 48 + user % 2 ^ 16 * 2 ^ 56) true false false false
  h :: body.zipIdx.map (fun x => mkW (wData x.1) false (x.2 + 1 == n) (wMark x.1) (wPoison x.1))

/-- An item holds a POISON word. -/
def itemPoison (it : List MWord) : Bool := it.any wPoison

/-- Lane `k` of a word's data as a signed number. -/
def sLane (data k : Nat) : Int := signedOf 24 (bits data (24 * k) 24)

/-- Word data from three lane fields, L0 first. -/
def packLanes (l0 l1 l2 : Nat) : Nat := l0 % 2 ^ 24 + l1 % 2 ^ 24 * 2 ^ 24 + l2 % 2 ^ 24 * 2 ^ 48

/-- The largest lane value. -/
def laneMax : Int := 8388607

/-- The smallest lane value. -/
def laneMin : Int := -8388608

/-- A value limited to the lane range, and whether the limit changed it. -/
def satLane (x : Int) : Int × Bool := (clampInt laneMin laneMax x, decide (x < laneMin ∨ laneMax < x))

/-- The bytes of words, nine a word, least significant byte first (R152, R466). -/
def wordBytes (ws : List Nat) : List Byte := ws.flatMap (fun x => leBytes 9 x)

/-- Words of nine bytes each from bytes, the last padded with zero. -/
def bytesWords : Nat → List Byte → List Nat
  | 0, _ => []
  | n + 1, l => if l.isEmpty then [] else leNat (l.take 9) :: bytesWords n (l.drop 9)

/-- All the words of nine bytes that hold `l`. -/
def packBytes (l : List Byte) : List Nat := bytesWords (l.length / 9 + 1) l

/-! ### The active image (R480, R486) -/

/-- The section TYPEs of R486. -/
def S.PARTITIONS : Nat := 2
/-- CELLS -/
def S.CELLS : Nat := 4
/-- TASKS -/
def S.TASKS : Nat := 5
/-- QUEUES -/
def S.QUEUES : Nat := 7
/-- ROUTES -/
def S.ROUTES : Nat := 8
/-- The local address entries of PKT (R489). -/
def S.LADDR : Nat := 9
/-- CISTERNS -/
def S.CISTERNS : Nat := 10
/-- EGRESS -/
def S.EGRESS : Nat := 11
/-- CNV_SETS -/
def S.SETS : Nat := 12
/-- CNV_CHAINS -/
def S.CHAINS : Nat := 14
/-- CNV_LANES -/
def S.LANES : Nat := 15
/-- TONE_DET -/
def S.DET : Nat := 16
/-- TONE_GRP -/
def S.GRP : Nat := 17
/-- TONE_GEN -/
def S.GEN : Nat := 18
/-- CMP_STREAMS -/
def S.CMP : Nat := 19
/-- ETH -/
def S.ETH : Nat := 20
/-- TDM -/
def S.TDM : Nat := 21
/-- MADI -/
def S.MADI : Nat := 22
/-- BSD -/
def S.BSD : Nat := 23
/-- SLOT_GROUPS -/
def S.GROUPS : Nat := 24
/-- TRIGGERS -/
def S.TRIGGERS : Nat := 25

/-- The objects of one section of a bank: index and image bits, in ascending index. -/
def Bank.sec (b : Bank) (ty : Nat) : Kv Nat := kvD b.objs ty []

/-- The image bits of an object of a bank, `none` where it is not VALID (R485). -/
def Bank.obj (b : Bank) (ty i : Nat) : Option Nat := kvGet i (b.sec ty)

/-- The active bank, empty where no image is active. -/
def Dev.bank (d : Dev) : Bank := d.img.active.getD {}

/-- The image bits of an object of the active image. -/
def Dev.obj (d : Dev) (ty i : Nat) : Option Nat := d.bank.obj ty i

/-- The image bits of an object of the active image, zero where it is not VALID. -/
def Dev.objD (d : Dev) (ty i : Nat) : Nat := (d.obj ty i).getD 0

/-- The indices of the objects of a section in the active image. -/
def Dev.idxs (d : Dev) (ty : Nat) : List Nat := kvKeys (d.bank.sec ty)

/-! ### The option zones as loaded (R524 to R526) -/

/-- The content of zone `z` as loaded, `none` where it is blank or failed and its defaults hold. -/
def Dev.zone (d : Dev) (z : Nat) : Option Nat :=
  let c := (d.rst.opt.getD z 0).toNat
  if c = 0 ∨ bit (d.get R.RST_OPT_STAT_FAIL) z then none else some c

/-- Byte `i` of a zone's content. -/
def zByte (c i : Nat) : Nat := bits c (8 * i) 8

/-- The first 48 bytes of a zone, as a hash whose first byte is the most significant. -/
def zHash (c : Nat) : BitVec 384 := BitVec.ofNat 384 (beNat (leBytes 48 c))

/-- A revocation bit of zone REVOKE (R574). -/
def Dev.revoked (d : Dev) (i : Nat) : Bool := bit ((d.zone 7).getD 0) i

/-- The active maker key hash (R574). -/
def Dev.makerHash (d : Dev) : Option (BitVec 384) :=
  match d.zone 1 with
  | some c => some (zHash c)
  | none => if d.revoked 3 then none else some Config.romMakerHash

/-- The INST_KEYS2 key is active (R574). -/
def Dev.rotated (d : Dev) : Bool := (d.zone 6).isSome && !d.revoked 1

/-- The active installer key hash (R574). -/
def Dev.instHash (d : Dev) : Option (BitVec 384) :=
  if d.rotated then (d.zone 6).map zHash
  else if d.revoked 0 then none else (d.zone 3).map zHash

/-- The active operator key hash (R574). -/
def Dev.operHash (d : Dev) : Option (BitVec 384) :=
  if d.revoked 2 then none else (d.zone 5).map zHash

/-- The device serial, 16 bytes of zone MAKER_ID, zero by default (R526). -/
def Dev.serial (d : Dev) : Nat := bits ((d.zone 0).getD 0) 0 128

/-- The 48 bytes of a hash, in order. -/
def hashBytes (h : BitVec 384) : List Byte := beBytes 48 h.toNat

end Sys2Proof.Machine
end

