-- ==== Sys2Proof/Machine/Flags.lean ====
section
/-! DEFINITION. The flags a command leaves: the rights of a requester (R570 to R573, R647), acceptance and refusal (R640), BUSY, ERR and
ERR_CODE, the cell causes (R272, R274), and the values that are read live from the state. -/

namespace Sys2Proof.Machine

/-- An operator session is open: its DURATION_S has not passed (R582). -/
def Dev.sessOpen (d : Dev) : Bool := match d.sec.sessEnd with
  | none => false
  | some e => decide (d.rst.xoUs < e)

/-- HOST holds operator rights (R571). -/
def Dev.hostOper (d : Dev) : Bool := d.operHash.isNone || d.sessOpen

/-- The requester holds operator rights (R571). -/
def Dev.oper (d : Dev) : Requester → Bool
  | .fw => true
  | .host => d.hostOper

/-- A write without the right is counted (R572). -/
def Dev.denied (d : Dev) : Dev := d.count (R.SEC_CNT_COUNT 0)

/-- A command register: its flags, the events of its refusal and of its apply cycle, where its chapter has them. -/
structure CmdReg where
  busy : Option Fld
  err : Fld
  code : Fld
  evErr : Option Nat := none
  evDone : Option Nat := none
  deriving DecidableEq, Repr

/-- STK_TASK_CMD (R85). -/
def C.task : CmdReg := ⟨some R.STK_TASK_CMD_BUSY, R.STK_TASK_CMD_ERR, R.STK_TASK_CMD_ERR_CODE, some E.TASK_CMD_ERR, some E.TASK_CMD_DONE⟩
/-- QF_QCMD (R123). -/
def C.qf : CmdReg := ⟨some R.QF_QCMD_BUSY, R.QF_QCMD_ERR, R.QF_QCMD_ERR_CODE, some E.QCMD_ERR, none⟩
/-- PKT_FS_CMD (R176). -/
def C.fs : CmdReg := ⟨some R.PKT_FS_CMD_BUSY, R.PKT_FS_CMD_ERR, R.PKT_FS_CMD_ERR_CODE, some E.FS_CMD_ERR, some E.FS_CMD_DONE⟩
/-- PKT_SC_CMD (R177). -/
def C.sc : CmdReg := ⟨some R.PKT_SC_CMD_BUSY, R.PKT_SC_CMD_ERR, R.PKT_SC_CMD_ERR_CODE, some E.SC_CMD_ERR, none⟩
/-- PKT_EG_CMD (R177). -/
def C.eg : CmdReg := ⟨some R.PKT_EG_CMD_BUSY, R.PKT_EG_CMD_ERR, R.PKT_EG_CMD_ERR_CODE, some E.EG_CMD_ERR, none⟩
/-- CIS_CMD (R178). -/
def C.cis : CmdReg := ⟨some R.CIS_CMD_BUSY, R.CIS_CMD_ERR, R.CIS_CMD_ERR_CODE, some E.CIS_CMD_ERR, none⟩
/-- CNV_CMD (R223). -/
def C.cnv : CmdReg := ⟨some R.CNV_CMD_BUSY, R.CNV_CMD_ERR, R.CNV_CMD_ERR_CODE, some E.CNV_CMD_ERR, some E.CNV_CMD_DONE⟩
/-- TONE_CMD (R357). -/
def C.tone : CmdReg := ⟨some R.TONE_CMD_BUSY, R.TONE_CMD_ERR, R.TONE_CMD_ERR_CODE, some E.TONE_CMD_ERR, some E.TONE_CMD_DONE⟩
/-- CMP_CMD (R387). -/
def C.cmp : CmdReg := ⟨some R.CMP_CMD_BUSY, R.CMP_CMD_ERR, R.CMP_CMD_ERR_CODE, some E.CMP_CMD_ERR, none⟩
/-- CMP_JOB_CMD (R387). -/
def C.job : CmdReg := ⟨none, R.CMP_JOB_CMD_ERR, R.CMP_JOB_CMD_ERR_CODE, some E.CMP_CMD_ERR, none⟩
/-- TIME_CMD (R428). -/
def C.time : CmdReg := ⟨some R.TIME_CMD_BUSY, R.TIME_CMD_ERR, R.TIME_CMD_ERR_CODE, some E.TIME_CMD_ERR, some E.TIME_CMD_DONE⟩
/-- STK_IMG_CMD (R507). -/
def C.img : CmdReg := ⟨some R.STK_IMG_CMD_BUSY, R.STK_IMG_CMD_ERR, R.STK_IMG_CMD_ERR_CODE, none, none⟩
/-- RST_CMD (R545). -/
def C.rst : CmdReg := ⟨some R.RST_CMD_BUSY, R.RST_CMD_ERR, R.RST_CMD_ERR_CODE, none, none⟩
/-- CAL_CMD (R567). -/
def C.cal : CmdReg := ⟨some R.CAL_CMD_BUSY, R.CAL_CMD_ERR, R.CAL_CMD_ERR_CODE, some E.CAL_CMD_ERR, some E.CAL_CMD_DONE⟩
/-- SEC_CMD (R599). -/
def C.sec : CmdReg := ⟨some R.SEC_CMD_BUSY, R.SEC_CMD_ERR, R.SEC_CMD_ERR_CODE, some E.SEC_CMD_ERR, some E.SEC_CMD_DONE⟩
/-- SUMP_CMD (R599). -/
def C.sump : CmdReg := ⟨some R.SUMP_CMD_BUSY, R.SUMP_CMD_ERR, R.SUMP_CMD_ERR_CODE, some E.SEC_CMD_ERR, some E.SEC_CMD_DONE⟩

/-- The event, where there is one. -/
def Dev.evOpt (d : Dev) : Option Nat → Dev
  | none => d
  | some n => d.ev n

/-- A refusal sets ERR and writes its code (R640). -/
def Dev.refuse (d : Dev) (c : CmdReg) (code : Nat) : Dev := ((d.set c.err 1).set c.code code).evOpt c.evErr

/-- ns from the XO since the keep-alive domain was released (R648). -/
def Dev.xoNs (d : Dev) : Nat := d.rst.xoUs * 1000 + d.rst.xoSub

/-- The cell-clock cycles since a command register accepted a command: by the cycle in the stroke, or by the XO where that has gone further. -/
def Dev.busyFor (d : Dev) (b : BusyRt) : Nat := max (d.org.num * 156250 + d.org.cc - b.cc) ((d.xoNs - b.ns) * 5 / 4)

/-- The apply cycle of a command accepted has not passed: it lies within 256 cc of the write, and how many is left open (R640; log entry 12). -/
def Dev.applying (d : Dev) (addr : Nat) (b : BusyRt) : Bool :=
  let x := d.busyFor b
  decide (x < 256) && (x == 0 || decide (x ≤ (Config.applyDelay addr b.cc).toNat))

/-- BUSY of a command register: the apply cycle of the command it accepted last has not passed, or that command waits for its completion (R640). -/
def Dev.busy (d : Dev) (c : CmdReg) : Bool := match c.busy with
  | none => false
  | some f => d.flag f || (match kvGet f.addr d.regs.busy with
    | none => false
    | some b => d.applying f.addr b)

/-- The stamp of a command accepted in this cycle. -/
def Dev.busyStamp (d : Dev) : BusyRt := { cc := d.org.num * 156250 + d.org.cc, ns := d.xoNs }

/-- The register accepts a command in this cycle: BUSY is 1 from now on until its apply cycle has passed (R640). -/
def Dev.accepted (d : Dev) (c : CmdReg) : Dev := match c.busy with
  | none => d
  | some f => { d with regs := { d.regs with busy := kvSet f.addr d.busyStamp d.regs.busy } }

/-- The right that an operation needs (R572, R573, R647). -/
inductive Right where
  | none
  | oper
  | fwOnly
  deriving DecidableEq, Repr

/-- The requester has the right. -/
def Dev.may (d : Dev) (req : Requester) : Right → Bool
  | .none => true
  | .oper => d.oper req
  | .fwOnly => req == .fw

/-- A command is written (R640): a busy register refuses it with code 2, a missing right with code 3, counted as a denied write (R572),
and `body` accepts it or refuses it with its own code. The right is looked at before BUSY, and both before the code of the command itself (log entry 128). The command's whole effect falls in the step, and BUSY stays 1 until its apply cycle has passed
(log entry 12); `done` says whether the event of that cycle comes with it. -/
def Dev.command (d : Dev) (c : CmdReg) (req : Requester) (r : Right) (body : Dev → Except Nat Dev) (done : Bool := true) : Dev :=
  if !d.may req r then d.denied.refuse c 3
  else if d.busy c then d.refuse c 2
  else match body d with
    | .error n => d.refuse c n
    | .ok d' => (if done then d'.evOpt c.evDone else d').accepted c

/-! ### Cell causes (R272 to R274) -/

/-- A cause of cell `n` is set: its bit in CELL_EVT_STAT, the task and the cause in CELL_LAST for causes 0 to 8, the event of the pair where
the cause is enabled, and the sump record of LM_ECC_UE, CP_FORCED and KPACK_ERR whether or not it is. -/
def Dev.cause (d : Dev) (n task : Nat) (f en : Fld) (arg1 : Nat := 0) : Dev :=
  let d := d.set f 1
  let d := if f.lo ≤ 8 then (d.set (R.CELL_LAST_TASK n) task).set (R.CELL_LAST_CAUSE n) f.lo else d
  let log := f.lo == 6 || f.lo == 7 || f.lo == 9
  if d.flag en || log then
    { d with evs := d.evs ++ [{ num := 224 + n / 2, arg0 := n, arg1 := arg1, code := f.lo, logs := log, silent := !d.flag en }] }
  else d

end Sys2Proof.Machine
end

