-- ==== Sys2Proof/Machine/Queue.lean ====
section
/-! DEFINITION. Queues and the reservoir (R89 to R109): pointers, push, pop, overflow, flush and resize, and the queue commands. -/

namespace Sys2Proof.Machine

/-! ### The reservoir (R89, R90) -/

/-- A reservoir word as read: a single-bit error is corrected and fires RES_ECC_CE, an uncorrectable one returns the word tagged
POISON, fires RES_ECC_UE and writes its address (R90). -/
def Dev.resRead (d : Dev) (a : Nat) : MWord × Dev :=
  let w := kvD d.qf.res a 0
  if d.qf.resUe.contains a then
    (mkW (wData w) (wFirst w) (wLast w) (wMark w) true,
      (((d.set R.QF_ECC_ADDR_ADDR a).set R.QF_STAT_ECC_UE 1).ev E.RES_ECC_UE 0 a))
  else if d.qf.resCe.contains a then (w, (d.set R.QF_STAT_ECC_CE 1).ev E.RES_ECC_CE)
  else (w, d)

/-- A reservoir word is written, with valid check bits. -/
def Dev.resWrite (d : Dev) (a : Nat) (w : MWord) : Dev :=
  { d with qf := { d.qf with res := kvPut 0 a w d.qf.res, resUe := d.qf.resUe.filter (· != a), resCe := d.qf.resCe.filter (· != a) } }

/-- `n` words from address `a`. -/
def Dev.resReadN (d : Dev) (a : Nat) : Nat → List MWord × Dev
  | 0 => ([], d)
  | n + 1 =>
    let (w, d) := d.resRead a
    let (ws, d) := d.resReadN (a + 1) n
    (w :: ws, d)

/-- Words to consecutive addresses from `a`. -/
def Dev.resWriteN (d : Dev) (a : Nat) : List MWord → Dev
  | [] => d
  | w :: r => (d.resWrite a w).resWriteN (a + 1) r

/-! ### The image bits of a queue (R91) -/

/-- BASE -/
def qBase (o : Nat) : Nat := bits o 0 24
/-- CLASS -/
def qClass (o : Nat) : Nat := bits o 25 2
/-- FALLBACK -/
def qFallback (o : Nat) : Nat := bits o 27 2
/-- OVF_POL -/
def qOvf (o : Nat) : Nat := bits o 29 2
/-- POSTED -/
def qPosted (o : Nat) : Bool := bit o 31
/-- SLOTS of the image -/
def qSlots (o : Nat) : Nat := bits o 32 16
/-- SLOTS_MAX -/
def qSlotsMax (o : Nat) : Nat := bits o 48 16
/-- SLOT_WORDS -/
def qSlotWords (o : Nat) : Nat := bits o 64 9
/-- SPILL_Q -/
def qSpill (o : Nat) : Nat := bits o 80 16
/-- IDLE_ADDR -/
def qIdle (o : Nat) : Nat := bits o 96 24
/-- PROD_NODE -/
def qProdNode (o : Nat) : Nat := bits o 128 8
/-- PROD_PORT -/
def qProdPort (o : Nat) : Nat := bits o 136 8
/-- CONS_NODE -/
def qConsNode (o : Nat) : Nat := bits o 144 8
/-- CONS_PORT -/
def qConsPort (o : Nat) : Nat := bits o 152 8

/-- The run-time part of queue `q`. -/
def Dev.q (d : Dev) (q : Nat) : QRt := kvD d.qf.qs q {}

/-- The run-time part of queue `q` is replaced. -/
def Dev.setQ (d : Dev) (q : Nat) (r : QRt) : Dev := { d with qf := { d.qf with qs := kvSet q r d.qf.qs } }

/-- Queue `q` is VALID in the active image. -/
def Dev.qValid (d : Dev) (q : Nat) : Bool := (d.obj S.QUEUES q).isSome

/-! ### Counters (R124) -/

/-- Places of the counters in the order of R124. -/
def cPushed : Nat := 0
/-- POPPED -/
def cPopped : Nat := 1
/-- FLUSHED -/
def cFlushed : Nat := 2
/-- SPILLED -/
def cSpilled : Nat := 3
/-- DROP_FULL -/
def cDropFull : Nat := 4
/-- DISCARD -/
def cDiscard : Nat := 5
/-- LOST_IN_RESET -/
def cLost : Nat := 6
/-- EMPTY_POP -/
def cEmptyPop : Nat := 7
/-- FLUSHED_WORDS -/
def cFlushedWords : Nat := 8

/-- Counter `k` counts `n` more modulo 2^32. -/
def QRt.add (r : QRt) (k n : Nat) : QRt := { r with cnt := r.cnt.modify k (· + BitVec.ofNat 32 n) }

/-- Counter `k`. -/
def QRt.c (r : QRt) (k : Nat) : Nat := (r.cnt.getD k 0).toNat

/-- MALFORMED_WORDS counts `n` more modulo 2^16, in the low half of QF_QCNT[9]. -/
def QRt.addMal (r : QRt) (n : Nat) : QRt :=
  { r with cnt := r.cnt.modify 9 (fun x => BitVec.ofNat 32 (setBits x.toNat 0 16 (x.toNat + n))) }

/-- POISON_POP counts one more modulo 2^16, in the high half of QF_QCNT[9]. -/
def QRt.addPoison (r : QRt) : QRt :=
  { r with cnt := r.cnt.modify 9 (fun x => BitVec.ofNat 32 (setBits x.toNat 16 16 (bits x.toNat 16 16 + 1))) }

/-! ### Pointers (R94, R95) -/

/-- The slot index of a pointer. -/
def pIdx (p : BitVec 17) : Nat := p.toNat % 65536

/-- The lap bit of a pointer. -/
def pLap (p : BitVec 17) : Bool := bit p.toNat 16

/-- A pointer from its lap bit and index. -/
def mkPtr (lap : Bool) (i : Nat) : BitVec 17 := BitVec.ofNat 17 (b2n lap * 65536 + i % 65536)

/-- The next pointer of a queue of `slots` slots. -/
def pNext (slots : Nat) (p : BitVec 17) : BitVec 17 :=
  if pIdx p + 1 < slots then mkPtr (pLap p) (pIdx p + 1) else mkPtr (!pLap p) 0

/-- The depth in items between two pointers (R94). Copies that no push or pop can give count no item (log entry 13). -/
def pDepth (slots : Nat) (wp rp : BitVec 17) : Nat :=
  if slots ≤ pIdx wp ∨ slots ≤ pIdx rp then 0
  else
    let n := if pLap wp == pLap rp then (pIdx wp : Int) - pIdx rp else slots + pIdx wp - pIdx rp
    if n < 0 ∨ (slots : Int) < n then 0 else n.toNat

/-- SLOTS of a queue, as it stands. -/
def QRt.n (r : QRt) : Nat := r.slots.toNat

/-- The depth of a queue. -/
def QRt.depth (r : QRt) : Nat := pDepth r.n r.wpA r.rpA

/-- The items that a pop in cycle `t` sees: not those pushed in that same cycle (R99). -/
def QRt.visible (r : QRt) (t : Nat) : Nat := r.depth - (if r.newAt = t then r.newN else 0)

/-- One more item is pushed in cycle `t`. -/
def QRt.pushedAt (r : QRt) (t : Nat) : QRt := { r with newAt := t, newN := (if r.newAt = t then r.newN else 0) + 1 }

/-- Both copies of the write pointer. -/
def QRt.setWp (r : QRt) (p : BitVec 17) : QRt := { r with wpA := p, wpB := p }

/-- Both copies of the read pointer. -/
def QRt.setRp (r : QRt) (p : BitVec 17) : QRt := { r with rpA := p, rpB := p }

/-- The producer's credits grow by `n`, where the producer holds credits at all (R115). -/
def QRt.addCredit (r : QRt) (posted : Bool) (n : Nat) : QRt :=
  if posted then r else { r with credit := r.credit + BitVec.ofNat 17 n }

/-- Items in flight to the queue, an open item counted (R107, R115). -/
def QRt.inFlight (r : QRt) : Nat := r.flight + (if r.openW.isSome then 1 else 0)

/-- The words of an open item as its header gives them: PLEN + 1. -/
def openLen (ws : List MWord) : Nat := hPlen (itemHdr ws) + 1

/-- The producer's open item is discarded and its credit returned (R105). `more` says that its words still come: they are swallowed, and
FLUSHED_WORDS counts the item at its LAST, where FLUSH_DONE fires if `fires`; else it counts now (R106, R121). -/
def QRt.dropOpen (r : QRt) (posted more fires : Bool) : QRt :=
  match r.openW with
  | none => r
  | some ws =>
    let r := { r with openW := none }.addCredit posted 1
    if more then { r with swallow := some (openLen ws, fires) } else r.add cFlushedWords (openLen ws)

/-- The pointer copies are compared, as every push, pop, flush and resize does first (R95). `arriving` counts the item that the access itself brings: it is
in flight until it lies in its slot. DESIGN CHOICE: QF_LAST_Q.PTR is 0 where both pairs differ, and no FLUSH_DONE fires when the LAST of an open item
discarded here has been swallowed (log entry 108). -/
def Dev.qCheck (d : Dev) (q : Nat) (arriving : Nat := 0) : Dev :=
  let r := d.q q
  if r.wpA == r.wpB && r.rpA == r.rpB then d
  else
    let posted := qPosted (d.objD S.QUEUES q)
    let r' := (((r.add cLost r.depth).setWp 0).setRp 0).dropOpen true true false
    let r' := if posted then r' else { r' with credit := BitVec.ofNat 17 (r.n - r'.inFlight - arriving), ret := 0 }
    (((d.setQ q r').set R.QF_LAST_Q_Q q).set R.QF_LAST_Q_PTR (b2n (r.wpA == r.wpB))).ev E.QERR q

/-! ### Push (R96 to R99, R103) -/

/-- The item is written into the slot at the write pointer; pops see it from the next cycle on (R99). -/
def Dev.qStore (d : Dev) (q : Nat) (it : List MWord) : Dev :=
  let o := d.objD S.QUEUES q
  let r := d.q q
  let d := d.resWriteN (qBase o + pIdx r.wpA * qSlotWords o) it
  d.setQ q ((r.setWp (pNext r.n r.wpA)).pushedAt d.stamp)

/-- The item header as the queue writes it: SEQ and STROKE (R96). -/
def Dev.qStamp (d : Dev) (q : Nat) (it : List MWord) : List MWord :=
  itemMapHdr (fun h => setBits (setBits h 0 16 ((d.q q).c cPushed)) 24 24 d.org.num) it

/-- A spillway queue: the SPILL_Q of a queue of the active image that spills (R91). -/
def Dev.qSpillway (d : Dev) (q : Nat) : Bool := (d.bank.sec S.QUEUES).any (fun x => qOvf x.2 == 2 && qSpill x.2 == q)

/-- DROP_FULL is counted, and its event fires at the first drop in a stroke; SPILLWAY_FULL where the queue is a spillway (R103). -/
def Dev.qDropped (d : Dev) (q : Nat) : Dev :=
  let d := (d.setQ q ((d.q q).add cDropFull 1)).evOnce E.DROP_FULL 0 q
  if d.qSpillway q then d.ev E.SPILLWAY_FULL q else d

/-- The producer's credit for a new item is spent (R97, R99). -/
def QRt.spend (r : QRt) (posted : Bool) : QRt := if posted then r else { r with credit := r.credit - 1 }

/-- A whole item is accepted by queue `q`, that is, pushed (R97, R99, R103). `spill` is what a spill does; a spillway queue does not spill
again (R93). An item that arrives by a spill has no credit of a producer: in a queue with POSTED = 0 it takes one of the free credits, so that R115 holds,
and finds the queue full where none is free (DESIGN CHOICE, log entry 109). -/
def Dev.qAcceptOne (d : Dev) (q : Nat) (it : List MWord) (spilled : Bool) (spill : Dev → Dev) : Dev :=
  let d := d.qCheck q (b2n !spilled)
  let o := d.objD S.QUEUES q
  let it := d.qStamp q it
  let d := d.setQ q { (d.q q).add cPushed 1 with fbArmed := false }
  let r := d.q q
  let needs := spilled && !qPosted o
  if r.depth < r.n ∧ (needs = true → r.credit ≠ 0) then (if needs then d.setQ q (r.spend false) else d).qStore q it
  else if qOvf o == 1 && 0 < r.depth then
    let d := d.setQ q (r.setRp (pNext r.n r.rpA))
    (d.qDropped q).qStore q it
  else if qOvf o == 2 then spill d
  else d.qDropped q

/-- A whole item is accepted by queue `q` (R99, R103). -/
def Dev.qAccept (d : Dev) (q : Nat) (it : List MWord) : Dev :=
  d.qAcceptOne q it false (fun d =>
    let o := d.objD S.QUEUES q
    let r := d.q q
    let fires := r.lastSpill != some d.org.num && (d.org.num == 0 || r.lastSpill != some (d.org.num - 1))
    let d := d.setQ q { r.add cSpilled 1 with lastSpill := some d.org.num }
    let d := if fires then d.ev E.SPILL q else d
    let it' := itemMapHdr (fun h => setBits (setBit h rSpill) 56 16 q) it
    d.qAcceptOne (qSpill o) it' true id)

/-- A malformed item is discarded whole: its words so far are counted, QTAG_ERR fires, and a spent credit comes back (R97). -/
def Dev.qMalformed (d : Dev) (q n : Nat) (posted held more : Bool) : Dev :=
  let r := (d.q q).addMal n
  let r := { r with openW := none, mal := more }
  (d.setQ q (if held then r.addCredit posted 1 else r)).ev E.QTAG_ERR q

/-- A complete item whose tags and length are good is accepted; its flight ends. -/
def Dev.qClose (d : Dev) (q : Nat) (ws : List MWord) : Dev :=
  (d.setQ q { d.q q with openW := none }).qAccept q ws

/-- One word arrives at queue `q` from its producer (R97, R99, R105). The word that completes an item compares the pointer copies when the item is
pushed, every other word as it arrives (R95). -/
def Dev.qWord (d : Dev) (q : Nat) (w : MWord) : Dev :=
  let d := if (d.q q).openW.isSome && wLast w && !wFirst w then d else d.qCheck q
  let o := d.objD S.QUEUES q
  let posted := qPosted o
  let r := d.q q
  let start := fun (d : Dev) =>
    let r := (d.q q).spend posted
    let d := d.setQ q { r with openW := some [w], mal := false }
    if wLast w then d.qMalformed q 1 posted true false else d
  match r.swallow with
  | some (n, fires) =>
    if wLast w then
      let d := d.setQ q { r.add cFlushedWords n with swallow := none }
      if fires then d.ev E.FLUSH_DONE q else d
    else d
  | none =>
    match r.openW with
    | none =>
      if wFirst w then start d
      else if r.mal then d.setQ q { r.addMal 1 with mal := !wLast w }
      else d.qMalformed q 1 posted false (!wLast w)
    | some ws =>
      if wFirst w then start (d.qMalformed q ws.length posted true false)
      else
        let ws' := ws ++ [w]
        if qSlotWords o < ws'.length then (d.qMalformed q ws'.length posted true (!wLast w)).qCheck q
        else if wLast w then
          if hPlen (itemHdr ws') + 1 = ws'.length then d.qClose q ws' else (d.qMalformed q ws'.length posted true false).qCheck q
        else d.setQ q { r with openW := some ws' }

/-- The producer of the queue waits: it holds no credit for a new item (R99), or back-pressure withholds it (R77, R104). -/
def Dev.qWaits (d : Dev) (q : Nat) (ws : List MWord) : Bool :=
  let o := d.objD S.QUEUES q
  let r := d.q q
  let starts := r.openW.isNone && r.swallow.isNone && (match ws with
    | [] => false
    | w :: _ => wFirst w)
  let n := qConsNode o
  let bp := qClass o == 3 && 8 ≤ n && n < 72 && (kvD d.pump.cells (n - 8) {}).bp
  d.qValid q && !qPosted o && starts && (r.credit == 0 || bp)

/-- The block at a mesh node and port, where a queue names one that has an isolation wrapper (R639, R538). -/
def nodeBlk (node port : Nat) : Option Blk :=
  if node = 0 then some .pkt
  else if node = 1 then (if port = 0 then some .pkt else some (.eth (port - 1)))
  else if node = 2 then some .cis
  else if node = 3 then some .cnv
  else if node = 4 then some .tone
  else if node = 5 then some .cmp
  else if 8 ≤ node ∧ node < 72 then some (.cell (node - 8))
  else if node = 79 then (if port < 32 then some (.tdm port) else some (.madi (port - 32)))
  else none

/-- The block is isolated: held in block reset from its isolation cycle on (R121). -/
def Dev.isolated (d : Dev) (b : Blk) : Bool := d.rst.inRst.contains b

/-- The block does not run: it is isolated, or held because its clock is not valid (R520, R644). -/
def Dev.halted (d : Dev) (b : Blk) : Bool := d.isolated b || d.rst.clkBad.contains b

/-- A word arrives at a queue that the active image does not hold: it swallows the rest of an item that its removal discarded (R105, R120), and counts any other item
FLUSHED, whole, in the counters it has kept (R501). -/
def Dev.qRemovedWord (d : Dev) (q : Nat) (w : MWord) : Dev :=
  if (d.q q).swallow.isSome then d.qWord q w
  else if wLast w && (kvGet q d.qf.qs).isSome then d.setQ q ((d.q q).add cFlushed 1) else d

/-- Words arrive at queue `q` from its producer. A queue that is not VALID in the active image takes none (R501); where the producer is isolated its request is answered ISO_ERR (R35). -/
def Dev.qPush (d : Dev) (q : Nat) (ws : List MWord) : Dev :=
  match d.obj S.QUEUES q with
  | none => d.each ws (fun d w => d.qRemovedWord q w)
  | some o =>
    if ((nodeBlk (qProdNode o) (qProdPort o)).map d.isolated).getD false then { d with reply := { d.reply with flag := true } }
    else if d.qWaits q ws then d
    else d.each ws (fun d w => d.qWord q w)

/-! ### Pop (R98 to R102) -/

/-- The queue's idle item, with REASON.IDLE and the current stroke (R100). -/
def Dev.qIdleItem (d : Dev) (q : Nat) : List MWord × Dev :=
  let a := qIdle (d.objD S.QUEUES q)
  let (h, d) := d.resRead a
  let (b, d) := d.resReadN (a + 1) (hPlen (wData h))
  (itemMapHdr (fun h => setBits (setBit h rIdle) 24 24 d.org.num) (h :: b), d)

/-- The queue's fallback item (R100). -/
def Dev.qFallbackItem (d : Dev) (q : Nat) : List MWord × Dev :=
  let f := qFallback (d.objD S.QUEUES q)
  match (d.q q).last with
  | some it =>
    if f == 1 then (itemMapHdr (fun h => setBits (setBit h rRepeat) 24 24 d.org.num) it, d)
    else
      let (it, d) := d.qIdleItem q
      (if f == 2 then itemMapHdr (fun h => setBit h rConceal) it else it, d)
  | none =>
    let (it, d) := d.qIdleItem q
    (if f == 2 then itemMapHdr (fun h => setBit h rConceal) it else it, d)

/-- The item in the slot at the read pointer. -/
def Dev.qFront (d : Dev) (q : Nat) : List MWord × Dev :=
  let o := d.objD S.QUEUES q
  let a := qBase o + pIdx (d.q q).rpA * qSlotWords o
  let (h, d) := d.resRead a
  let (b, d) := d.resReadN (a + 1) (hPlen (wData h))
  (h :: b, d)

/-- The block that produces queue `o` does not run. -/
def Dev.prodHalted (d : Dev) (o : Nat) : Bool := ((nodeBlk (qProdNode o) (qProdPort o)).map d.halted).getD false

/-! ### What feeds a queue (R191, R207, R253) -/

/-- ARG_ADDR -/
def tArg (o : Nat) : Nat := bits o 128 24

/-- The data bits of a word of the reservoir that a task's own operations use. The events of its errors fire where the block is read (R90). -/
def Dev.argWord (d : Dev) (a : Nat) : Nat := wData (kvD d.qf.res a 0)

/-- Addresses join a list of words with errors. -/
def insAll (l : List Nat) (xs : List Nat) : List Nat := xs.foldl (fun l a => insNat a l) l

/-- `n` words of the reservoir from `a` are read by the block that uses them: their errors count and fire (R90). -/
def Dev.resSeen (d : Dev) (a n : Nat) : Dev := (d.resReadN a n).2

/-- N_IN -/
def Dev.nIn (d : Dev) (o : Nat) : Nat := min 16 (bits (d.argWord (tArg o)) 0 8)

/-- N_OUT -/
def Dev.nOut (d : Dev) (o : Nat) : Nat := min 16 (bits (d.argWord (tArg o)) 8 8)

/-- ARG_WORDS -/
def Dev.argWords (d : Dev) (o : Nat) : Nat := bits (d.argWord (tArg o)) 24 12

/-- Input i, or output i, of an argument block: queue, items, local address. -/
def argIo (x : Nat) : Nat × Nat × Nat := (bits x 0 16, bits x 16 8, bits x 24 15)

/-- The inputs of a task. -/
def Dev.inputs (d : Dev) (o : Nat) : List (Nat × Nat × Nat) :=
  (List.range (d.nIn o)).map (fun i => argIo (d.argWord (tArg o + 3 + i)))

/-- The outputs of a task. -/
def Dev.outputs (d : Dev) (o : Nat) : List (Nat × Nat × Nat) :=
  (List.range (d.nOut o)).map (fun i => argIo (d.argWord (tArg o + 3 + d.nIn o + i)))

/-- IN_Q -/
def hInQ (o : Nat) : Nat := bits o 16 16
/-- OUT_Q -/
def hOutQ (o : Nat) : Nat := bits o 32 16
/-- IN_Q -/
def lInQ (o : Nat) : Nat := bits o 32 16
/-- OUT_Q -/
def lOutQ (o : Nat) : Nat := bits o 48 16

/-- The queues from which the producer of queue `q` takes what it pushes: the inputs of the tasks that have `q` as an output, and of the chains and lanes whose
output item goes there. -/
def Dev.feedQs (d : Dev) (q : Nat) : List Nat :=
  (d.bank.sec S.TASKS).flatMap (fun x => if (d.outputs x.2).any (fun y => y.1 == q) then (d.inputs x.2).map Prod.fst else []) ++
  (d.bank.sec S.CHAINS).flatMap (fun x => if hOutQ x.2 == q then [hInQ x.2] else []) ++
  (d.bank.sec S.LANES).flatMap (fun x => if lOutQ x.2 == q then [lInQ x.2] else [])

/-- A block that does not run carries part of the path to queue `q`, at most `n` queues up (R30). -/
def Dev.pathHalted (d : Dev) : Nat → Nat → Bool
  | 0, _ => false
  | n + 1, q => d.prodHalted (d.objD S.QUEUES q) || (d.feedQs q).any (d.pathHalted n)

/-- The consumer of queue `o` is isolated. -/
def Dev.consIsolated (d : Dev) (o : Nat) : Bool := ((nodeBlk (qConsNode o) (qConsPort o)).map d.isolated).getD false

/-- The consumer of queue `o` does not run. -/
def Dev.consHalted (d : Dev) (o : Nat) : Bool := ((nodeBlk (qConsNode o) (qConsPort o)).map d.halted).getD false

/-- The consumer of queue `o` is a port framer or PKT egress (R98). -/
def qFramed (o : Nat) : Bool := qConsNode o == 79 || qConsNode o == 1

/-- A pop of queue `q` (R98 to R102): the item its consumer receives. `framer` says that the consumer is a port framer or PKT egress, which
sends the fallback item in place of an item with a POISON word. An item pushed in this cycle is not popped in it (R99). A queue whose producer is in reset or
without a valid clock gives its idle item until the release (R36), and so does one of class L whose path such a block carries further up (R30). DESIGN CHOICE: the
item that a fallback item replaces for POISON is not the last item popped that FALLBACK 1 repeats (log entry 127). -/
def Dev.qPop (d : Dev) (q : Nat) (framer : Bool) : List MWord × Dev :=
  let d := d.qCheck q
  let o := d.objD S.QUEUES q
  let r := d.q q
  if r.visible d.stamp = 0 then
    let d := d.setQ q (r.add cEmptyPop 1)
    let d := if qClass o == 0 then d.ev E.EMPTY_POP_L q else d
    if r.fbArmed && !d.prodHalted o && !(qClass o == 0 && d.pathHalted 16 q) then d.qFallbackItem q else d.qIdleItem q
  else
    let (it, d) := d.qFront q
    let d := d.setQ q (((r.add cPopped 1).setRp (pNext r.n r.rpA)).addCredit (qPosted o) 1)
    if framer && itemPoison it then
      ((d.setQ q (d.q q).addPoison).ev E.POISON_POP q).qFallbackItem q
    else (it, d.setQ q { d.q q with last := some it })

/-! ### Flush and resize (R105 to R108) -/

/-- A flush applies at the consumer's item boundary (R105). -/
def Dev.qFlushNow (d : Dev) (q : Nat) (fires : Bool := true) : Dev :=
  let d := d.qCheck q
  let o := d.objD S.QUEUES q
  let r := d.q q
  let n := r.depth
  let opn := r.openW.isSome
  let r := ((r.add cFlushed n).setRp r.wpA).addCredit (qPosted o) n
  let d := d.setQ q ({ r with flushPend := false }.dropOpen (qPosted o) true fires)
  if opn || !fires then d else d.ev E.FLUSH_DONE q

/-- Kept items move to their new slots (R107): each is read whole, with its errors as any read has them (R90), before any is written; one that keeps
its slot is not moved. -/
def Dev.qMove (d : Dev) (o : Nat) (moves : List (Nat × Nat)) : Dev :=
  let at' := fun i => qBase o + i * qSlotWords o
  let (its, d) := (moves.filter (fun x => x.1 != x.2)).foldl (fun (x : List (Nat × List MWord) × Dev) m =>
    let (ws, d) := x.2.resReadN (at' m.1) (qSlotWords o)
    (x.1 ++ [(m.2, ws)], d)) ([], d)
  d.each its (fun d x => d.resWriteN (at' x.1) x.2)

/-- A resize applies at the stroke boundary (R107). -/
def Dev.qResizeNow (d : Dev) (q slots : Nat) : Dev :=
  let d := d.qCheck q
  let o := d.objD S.QUEUES q
  let r := d.q q
  let dep := r.depth
  let kept := min dep (slots - r.inFlight)
  let old := (List.range dep).map (fun j => (pIdx r.rpA + j) % max 1 r.n)
  let d := d.qMove o (old.drop (dep - kept)).zipIdx
  let r := { (r.add cDiscard (dep - kept)) with slots := BitVec.ofNat 16 slots, resizePend := none }
  let r := (r.setRp 0).setWp (if kept = slots then mkPtr true 0 else mkPtr false kept)
  let r := if qPosted o then r else { r with credit := BitVec.ofNat 17 (slots - kept - r.inFlight), ret := 0 }
  (d.setQ q r).ev E.RESIZE_DONE q

/-- Pending flushes, then pending resizes, of a queue at a stroke boundary (R107, R108; log entry 14: a stroke boundary is an item boundary of
every consumer). -/
def Dev.qBoundary (d : Dev) (q : Nat) : Dev :=
  let d := if (d.q q).flushPend then d.qFlushNow q else d
  match (d.q q).resizePend with
  | some n => d.qResizeNow q n.toNat
  | none => d

/-- The run-time state with which a queue starts at a changeover (R120, R499). -/
def qFresh (o : Nat) : QRt :=
  { slots := BitVec.ofNat 16 (qSlots o), credit := if qPosted o then 0 else BitVec.ofNat 17 (qSlots o) }

/-! ### Queue commands (R109, R123) -/

/-- The ten counters of queue `q` go to QF_QCNT (R124). -/
def Dev.qReadCnt (d : Dev) (q : Nat) : Dev :=
  d.each (List.range 10) (fun d k => d.set (R.QF_QCNT_COUNT k) ((d.q q).c k))

/-- QF_QCMD OP 1 to 3 on the queue named, by the requester named. -/
def Dev.qCmd (d : Dev) (req : Requester) (q op : Nat) : Dev :=
  let d := if d.may req (if op = 1 then .none else .oper) then d.set R.QF_QCMD_Q q else d
  d.command C.qf req (if op = 1 then .none else .oper) (fun d =>
    if op < 1 ∨ 3 < op then .error 2
    else if !d.qValid q then .error 1
    else if op = 1 then .ok (d.qReadCnt q)
    else if op = 2 then .ok (d.setQ q { d.q q with flushPend := true })
    else
      let n := d.get R.QF_QARG_SLOTS
      if n = 0 ∨ qSlotsMax (d.objD S.QUEUES q) < n then .error 2
      else .ok (d.setQ q { d.q q with resizePend := some (BitVec.ofNat 16 n) }))

/-- QF_QCMD READ: the counters of a queue go to QF_QCNT (R123, R124). -/
def execQueueRead (w : When) (req : Requester) (q : Nat) (s : State) : Out := s.runReq w req (·.qCmd req q 1)

/-- QF_QCMD FLUSH: the flush waits for the consumer's item boundary (R105). -/
def execQueueFlush (w : When) (req : Requester) (q : Nat) (s : State) : Out := s.runReq w req (·.qCmd req q 2)

/-- QF_QCMD RESIZE to QF_QARG.SLOTS: the resize waits for the stroke boundary (R107). -/
def execQueueResize (w : When) (req : Requester) (q : Nat) (s : State) : Out := s.runReq w req (·.qCmd req q 3)

/-- The consumer's item boundary after a FLUSH command (R105). -/
def execFlushApply (w : When) (q : Nat) (s : State) : Out :=
  s.runMain w (fun d => Dev.when (d.qValid q && (d.q q).flushPend) (·.qFlushNow q) d)

/-- The consumer of queue `q` asks for an item: the reply holds what it receives (R98, R100). An isolated consumer's request is answered ISO_ERR, and one that
does not run makes none: the items stay in the queue (R35, R122). -/
def Dev.qServe (d : Dev) (q : Nat) (framer : Bool) : Dev :=
  match d.obj S.QUEUES q with
  | none => d
  | some o =>
    if d.consIsolated o then { d with reply := { d.reply with flag := true } }
    else if d.consHalted o then d
    else
      let (it, d) := d.qPop q framer
      { d with reply := { d.reply with item := it } }

/-- Words of an item arrive; with `withPop` a pop by the queue's consumer falls in the cycle of its LAST word and sees the queue before it (R99). -/
def execPush (w : When) (q : Nat) (words : List TWord) (withPop : Bool) (s : State) : Out :=
  s.runMain w (fun d => (Dev.when withPop (fun d => d.qServe q (qFramed (d.objD S.QUEUES q))) d).qPush q (words.map TWord.toW))

/-- A pop: the reply holds the item that the consumer receives (R100). -/
def execPop (w : When) (q : Nat) (framer : Bool) (s : State) : Out := s.runMain w (·.qServe q framer)

/-! ### Descriptor space (R91, R92) -/

/-- The 256 bits of queue `q`'s descriptor: the image bits with SLOTS as it stands, and the run-time state. -/
def Dev.qDesc (d : Dev) (q : Nat) : Nat :=
  match d.obj S.QUEUES q with
  | none => 0
  | some o =>
    let r := d.q q
    setBits (o % 2 ^ 160) 32 16 r.n + r.wpA.toNat * 2 ^ 160 + r.wpB.toNat * 2 ^ 177 + r.rpA.toNat * 2 ^ 194 + r.rpB.toNat * 2 ^ 211 +
      r.credit.toNat * 2 ^ 228 + b2n r.openW.isSome * 2 ^ 245 + b2n r.flushPend * 2 ^ 246 +
      b2n r.resizePend.isSome * 2 ^ 247 + b2n r.fbArmed * 2 ^ 248

/-- A read of word `k` of queue `q`'s descriptor. A read of word 5 latches words 6 and 7, and the next read of each returns what was
latched (R92; log entry 15). -/
def Dev.qDescRead (d : Dev) (q k : Nat) : Word × Dev :=
  let v := fun k => BitVec.ofNat 32 (bits (d.qDesc q) (32 * k) 32)
  if k = 5 then (v 5, { d with qf := { d.qf with descLatch6 := some (q, v 6), descLatch7 := some (q, v 7) } })
  else if k = 6 then (match d.qf.descLatch6 with
    | some (q', x) => if q' = q then (x, { d with qf := { d.qf with descLatch6 := none } }) else (v 6, d)
    | none => (v 6, d))
  else if k = 7 then (match d.qf.descLatch7 with
    | some (q', x) => if q' = q then (x, { d with qf := { d.qf with descLatch7 := none } }) else (v 7, d)
    | none => (v 7, d))
  else (v k, d)

/-- A read of byte offset 0x14 of a descriptor latches its bits [255:192] (R92). -/
def execDescPtrRead (w : When) (req : Requester) (q : Nat) (s : State) : Out :=
  s.runReq w req (fun d =>
    let (x, d) := d.qDescRead q 5
    { d with reply := { d.reply with words := [x] } })

end Sys2Proof.Machine
end

