-- ==== Sys2Proof/Machine/Ddr.lean ====
section
/-! DEFINITION. The DDR words behind both channels (R458 to R462): the mapping of addresses, reads with their errors, writes, training and the
patrol scrub. -/

namespace Sys2Proof.Machine

/-- Words of channel A, and of channel B, in the configuration; a channel not fitted has none (R459, R477). -/
def Dev.ddrSize (d : Dev) (b : Bool) : Nat :=
  if b then (if d.flag R.DDR_CFG_B_EN then 2 ^ d.get R.DDR_CFG_SIZE_B else 0)
  else (if d.flag R.DDR_CFG_A_EN then 2 ^ d.get R.DDR_CFG_SIZE_A else 0)

/-- The installed total (R459). Before training there is none to reach (log entry 28). -/
def Dev.ddrTotal (d : Dev) : Nat := if d.flag R.DDR_STAT_INIT_DONE then d.ddrSize false + d.ddrSize true else 0

/-- Interleave is in force: both channels are fitted with equal sizes (R459, R477). -/
def Dev.ddrInterleave (d : Dev) : Bool :=
  d.flag R.DDR_CFG_INTERLEAVE && d.flag R.DDR_CFG_A_EN && d.flag R.DDR_CFG_B_EN && d.ddrSize false == d.ddrSize true

/-- Word address `w` lies in channel B (R459). -/
def Dev.ddrChan (d : Dev) (w : Nat) : Bool := if d.ddrInterleave then bit w 6 else decide (d.ddrSize false ≤ w)

/-- The word within its channel at word address `w` (R459). -/
def Dev.ddrInChan (d : Dev) (w : Nat) : Nat :=
  if d.ddrInterleave then w / 128 * 64 + w % 64 else if d.ddrChan w then w - d.ddrSize false else w

/-- An access beyond the installed total (R459). -/
def Dev.ddrAddrErr (d : Dev) : Dev := ((d.set R.DDR_STAT_ADDR_ERR 1).count (R.DDR_CNT_COUNT 4)).ev E.DDR_ADDR_ERR

/-- The word stored at `w`: its data and whether it is stored as POISON. -/
def Dev.ddrCell (d : Dev) (w : Nat) : MWord := match kvGet w d.ddr.mem with
  | some x => x
  | none =>
    let f := Config.freeDdr d.ddr.epoch w
    mkW f.toNat false false false (bit f.toNat 72)

/-- A corrected error (R460). -/
def Dev.ddrCe (d : Dev) (w : Nat) : Dev :=
  let d := { d with ddr := { d.ddr with ce := d.ddr.ce.filter (· != w) } }
  ((d.set R.DDR_STAT_ECC_CE 1).count (R.DDR_CNT_COUNT (b2n (d.ddrChan w)))).ev E.DDR_ECC_CE

/-- An uncorrectable error (R460). -/
def Dev.ddrUe (d : Dev) (w : Nat) : Dev :=
  let d := (d.set R.DDR_ECC_ADDR_LO_A (w % 2 ^ 32)).set R.DDR_ECC_ADDR_HI_A (w / 2 ^ 32)
  ((d.set R.DDR_STAT_ECC_UE 1).count (R.DDR_CNT_COUNT (2 + b2n (d.ddrChan w)))).ev E.DDR_ECC_UE 0 w

/-- A read of word `w` (R459, R460). -/
def Dev.ddrRead (d : Dev) (w : Nat) : MWord × Dev :=
  if d.ddrTotal ≤ w then (poisonZero, d.ddrAddrErr)
  else
    let x := d.ddrCell w
    if d.ddr.ue.contains w then (mkW (wData x) false false false true, d.ddrUe w)
    else if d.ddr.ce.contains w then (x, d.ddrCe w)
    else (x, d)

/-- Errors come about in words of the DDR (R460). -/
def Dev.upsetDdr (d : Dev) (u : Upsets) : Dev :=
  let inst := fun (a : Nat) => decide (a < d.ddrTotal)
  let ue := insAll d.ddr.ue (u.ddrUe.filter inst)
  { d with ddr := { d.ddr with ue := ue, ce := (insAll d.ddr.ce (u.ddrCe.filter inst)).filter (fun a => !ue.contains a) } }

/-- A write of word `w`: its data and POISON (R459, R460). -/
def Dev.ddrWrite (d : Dev) (w : Nat) (x : MWord) : Dev :=
  if d.ddrTotal ≤ w then d.ddrAddrErr
  else { d with ddr := { d.ddr with
           mem := kvSet w (mkW (wData x) false false false (wPoison x)) d.ddr.mem
           ue := d.ddr.ue.filter (· != w), ce := d.ddr.ce.filter (· != w) } }

/-- `n` words from `w`. -/
def Dev.ddrReadN (d : Dev) (w : Nat) : Nat → List MWord × Dev
  | 0 => ([], d)
  | n + 1 =>
    let (x, d) := d.ddrRead w
    let (xs, d) := d.ddrReadN (w + 1) n
    (x :: xs, d)

/-- Words to consecutive addresses from `w`. -/
def Dev.ddrWriteN (d : Dev) (w : Nat) : List MWord → Dev
  | [] => d
  | x :: r => (d.ddrWrite w x).ddrWriteN (w + 1) r

/-- The configuration refuses training (R477). A configuration with no channel fitted has nothing to train. -/
def Dev.ddrRefuses (d : Dev) : Bool :=
  let badSize := fun (en size : Fld) => d.flag en && (decide (d.get size < 24) || decide (32 < d.get size))
  badSize R.DDR_CFG_A_EN R.DDR_CFG_SIZE_A || badSize R.DDR_CFG_B_EN R.DDR_CFG_SIZE_B ||
    decide (5 ≤ d.get R.DDR_CFG_SPEED) || d.get R.DDR_CFG_DENSITY == 3 || !(d.flag R.DDR_CFG_A_EN || d.flag R.DDR_CFG_B_EN)

/-- A fitted channel is held for its clock (R520). -/
def Dev.ddrHeld (d : Dev) : Bool := (d.flag R.DDR_CFG_A_EN && d.rst.unitBad.contains (.ddr false)) || (d.flag R.DDR_CFG_B_EN && d.rst.unitBad.contains (.ddr true))

/-- Training ends: INIT_DONE reads 1 (R462). -/
def execDdrInitDone (w : When) (s : State) : Out :=
  s.runKa w (fun d => Dev.when (!d.ddrRefuses && !d.ddrHeld && !d.flag R.DDR_STAT_INIT_DONE) (·.set R.DDR_STAT_INIT_DONE 1) d)

/-- A patrol scrub pass (R460): each word that holds an error is met, those the step names and those that held one before; single-bit errors are
written back. -/
def execPatrolScrubPass (w : When) (ce ue : List Nat) (s : State) : Out :=
  s.runKa w (fun d => Dev.when (decide (0 < d.ddrTotal)) (fun d =>
    let inst := fun a => decide (a < d.ddrTotal)
    let ues := (ue.filter inst).foldl (fun l a => insNat a l) (d.ddr.ue.foldl (fun l a => insNat a l) [])
    let ces := ((ce.filter (fun a => inst a && !ues.contains a)).foldl (fun l a => insNat a l) (d.ddr.ce.foldl (fun l a => insNat a l) [])).filter (fun a => !ues.contains a)
    let d := { d with ddr := { d.ddr with ue := ues } }
    let d := d.each ces Dev.ddrCe
    let d := d.each ues Dev.ddrUe
    d.count (R.DDR_CNT_COUNT 5)) d)

/-- A read of DDR_ECC_ADDR_LO latches HI (R477). -/
def Dev.ddrEccLo (d : Dev) : Word × Dev :=
  (BitVec.ofNat 32 (d.get R.DDR_ECC_ADDR_LO_A),
    { d with ddr := { d.ddr with hiLatch := some (BitVec.ofNat 32 (d.get R.DDR_ECC_ADDR_HI_A)) } })

/-- A read of DDR_ECC_ADDR_LO (R477). -/
def execDdrEccAddrRead (w : When) (req : Requester) (s : State) : Out :=
  s.runReq w req (fun d =>
    let (x, d) := d.ddrEccLo
    { d with reply := { d.reply with words := [x] } })

end Sys2Proof.Machine
end

