-- ==== Sys2Proof/Machine/Pump.lean ====
section
/-! DEFINITION. The pump (R54 to R88): releases, ready lists and back-pressure, staging, admission, stopping, completion, and the task
commands. -/

namespace Sys2Proof.Machine

/-! ### The image bits of a task (R55) and of a cell (R488) -/

/-- CELL -/
def tCell (o : Nat) : Nat := bits o 0 6
/-- CLASS, 0 for L -/
def tClass (o : Nat) : Nat := bits o 6 2
/-- PERIODIC -/
def tPeriodic (o : Nat) : Bool := bit o 9
/-- KERNEL -/
def tKernel (o : Nat) : Nat := bits o 16 16
/-- BUDGET -/
def tBudget (o : Nat) : Nat := bits o 32 18
/-- DL_STROKES -/
def tDlStrokes (o : Nat) : Nat := bits o 50 4
/-- DL_CC -/
def tDlCc (o : Nat) : Nat := bits o 64 18
/-- DEP_INIT -/
def tDepInit (o : Nat) : Nat := bits o 82 8
/-- PERIOD -/
def tPeriod (o : Nat) : Nat := bits o 96 16
/-- PHASE -/
def tPhase (o : Nat) : Nat := bits o 112 16
/-- SUCC_ADDR -/
def tSuccAddr (o : Nat) : Nat := bits o 160 24
/-- SUCC_COUNT -/
def tSuccCount (o : Nat) : Nat := bits o 184 8
/-- FD_SEQ -/
def tFdSeq (o : Nat) : Nat := bits o 192 8
/-- FD_START -/
def tFdStart (o : Nat) : Nat := bits o 200 18
/-- FD_LATEST -/
def tFdLatest (o : Nat) : Nat := bits o 218 18

/-- FD_LEN of a cell record; a record's bits begin at entry byte 4 (R485, R488). -/
def cFdLen (o : Nat) : Nat := bits o 0 14
/-- STATE_BASE -/
def cStateBase (o : Nat) : Nat := bits o 16 15
/-- CODE_BASE -/
def cCodeBase (o : Nat) : Nat := bits o 32 15
/-- NPACK -/
def cNPack (o : Nat) : Nat := bits o 48 16
/-- PACK_ID[k] -/
def cPackId (o k : Nat) : Nat := bits o (96 + 32 * k) 32

/-- The run-time part of task `t`. -/
def Dev.task (d : Dev) (t : Nat) : TaskRt := kvD d.pump.tasks t {}

/-- The run-time part of task `t` is replaced. -/
def Dev.setTask (d : Dev) (t : Nat) (r : TaskRt) : Dev := { d with pump := { d.pump with tasks := kvSet t r d.pump.tasks } }

/-- Cell `n`. -/
def Dev.cell (d : Dev) (n : Nat) : CellRt := kvD d.pump.cells n {}

/-- Cell `n` is replaced. -/
def Dev.setCell (d : Dev) (n : Nat) (c : CellRt) : Dev := { d with pump := { d.pump with cells := kvSet n c d.pump.cells } }

/-- The image bits that govern task `t` now: those its instance runs under, else those of the active image (R500). -/
def Dev.tBits (d : Dev) (t : Nat) : Nat := match (d.task t).inst with
  | some i => i.bits
  | none => d.objD S.TASKS t

/-- The first-draw length of a cell in the active image (R62). -/
def Dev.fdLen (d : Dev) (n : Nat) : Nat := cFdLen (d.objD S.CELLS n)

/-- The absolute cycle now (R54). -/
def Dev.absCc (d : Dev) : Nat := d.org.num * 156250 + d.org.cc

/-- The absolute deadline of an instance (R54). -/
def dlAbs (o rel : Nat) : Nat := (rel + tDlStrokes o) * 156250 + tDlCc o

/-! ### Ready lists and back-pressure (R75 to R78) -/

/-- The task's instance is listed in cell `n`'s ready list, shared or class L. -/
def listedIn (n : Nat) (l : Bool) (r : TaskRt) : Bool := match r.inst with
  | some i => tCell i.bits == n && (tClass i.bits == 0) == l && (r.st == .ready || r.st == .staged)
  | none => false

/-- Occupancy of the shared, or of the class-L, entries of cell `n`'s ready list (R75). -/
def Dev.occ (d : Dev) (n : Nat) (l : Bool) : Nat := (d.pump.tasks.filter (fun x => listedIn n l x.2)).length

/-- STK_RL_HW as it acts (R86). -/
def Dev.rlHw (d : Dev) : Nat := clampNat 256 2048 (d.get R.STK_RL_HW_HW)

/-! ### Successors (R56) -/

/-- The valid entries of a successor list; a POISON word gives none of its four (R56). -/
def Dev.succs (d : Dev) (o : Nat) : List Nat × Dev :=
  let (ws, d) := d.resReadN (tSuccAddr o) (ceilDiv (tSuccCount o) 4)
  let es := ws.flatMap (fun w => (List.range 4).map (fun k => if wPoison w then 0 else bits (wData w) (18 * k) 18))
  (((es.take (tSuccCount o)).filter (fun e => bit e 17)).map (fun e => e % 2 ^ 17), d)

/-- The class-L tasks among a task's successors have a predecessor instance in this stroke (R63). -/
def Dev.seeSuccs (d : Dev) (o : Nat) : Dev :=
  let l := (d.succs o).1.filter (fun t => (d.obj S.TASKS t).isSome && tClass (d.objD S.TASKS t) == 0)
  { d with pump := { d.pump with predSeen := l.foldl (fun a t => insNat t a) d.pump.predSeen } }

/-! ### Retirement and release (R58 to R61, R69 to R77) -/

/-- How an instance retires. -/
inductive Retire where
  | done
  | overrun
  | miss
  | rlDrop
  | cancelled
  deriving DecidableEq, Repr

/-- The count, the event and the record of a retirement (R86, R88). -/
def Dev.retireMark (d : Dev) (t o : Nat) (k : Retire) : Dev :=
  let last := fun (d : Dev) (n : Nat) =>
    ((d.set R.STK_LAST_FAULT_TASK t).set R.STK_LAST_FAULT_KIND n).set R.STK_LAST_FAULT_CELL (tCell o)
  match k with
  | .done => d
  | .overrun => ((last d 1).count (R.STK_CNT_COUNT 0)).ev (if tClass o == 0 then E.OVERRUN_L else E.OVERRUN) t
  | .miss => ((last d 2).count (R.STK_CNT_COUNT 2)).ev E.DEADLINE_MISS t
  | .rlDrop => ((last d 3).count (R.STK_CNT_COUNT 3)).ev E.RL_DROP t
  | .cancelled =>
    let d := ((last d 4).count (R.STK_CNT_COUNT 1)).ev E.CANCELLED t
    { d with pump := { d.pump with cancelled := insNat t d.pump.cancelled } }

/-- What is left to do in an instant of the pump: decrement a task's count for a completion, release a task with the stroke its deadline
counts from, where `held` says that the release was held in PEND, or see to a cell's back-pressure. -/
inductive PumpAct where
  | dec (t : Nat)
  | rel (t stroke : Nat) (held : Bool)
  | bp (n : Nat)
  deriving DecidableEq, Repr

/-- The instance of task `t`, or a release that never becomes one, retires: its successors are decremented unless it is CANCELLED (R60), and a
held release follows (R61). A CLEAR_STATE that was to take effect at an instance never staged waits for the next release (R264). DESIGN CHOICE: a successor list
that names a task twice decrements it twice (R58; log entry 112). -/
def Dev.retire (d : Dev) (t o : Nat) (k : Retire) : Dev × List PumpAct :=
  let r := d.task t
  let removed := (r.inst.map Inst.removed).getD false
  let d := d.retireMark t o k
  let (ss, d) := if k == .cancelled || removed then ([], d) else d.succs o
  let r := d.task t
  let held := match r.pend with
    | some s => [PumpAct.rel t s true]
    | none => []
  let unstaged := r.st == .ready && (r.inst.map Inst.clear).getD false
  (d.setTask t { r with inst := none, st := .wait, pend := none, clearSt := r.clearSt || unstaged }, ss.map .dec ++ held ++ [.bp (tCell o)])

/-- Back-pressure of cell `n` begins where its shared occupancy has reached STK_RL_HW (R77). -/
def Dev.bpEnter (d : Dev) (n : Nat) : Dev :=
  if !(d.cell n).bp && decide (d.rlHw ≤ d.occ n false) then (d.setCell n { d.cell n with bp := true }).ev E.BACKPRESS n else d

/-- The release of task `t` becomes an instance in the ready list of its cell, or retires unrun (R61, R66, R76, R77, R79). `clear` says that a CLEAR_STATE
takes effect at it, `later` that one waits for a release to come (R264). -/
def Dev.listTask (d : Dev) (t stroke : Nat) (clear later : Bool) : Dev × List PumpAct :=
  let o := d.objD S.TASKS t
  let n := tCell o
  let cls := tClass o
  if (cls == 1 || cls == 2) && decide (dlAbs o stroke < d.absCc) then d.retire t o .miss
  else if (cls == 1 || cls == 2) && decide (2048 ≤ d.occ n false) then d.retire t o .rlDrop
  else if cls == 3 && (d.cell n).bp then (d.setTask t { d.task t with pend := some stroke, pendClear := clear, clearSt := later }, [])
  else
    let d := d.setTask t { d.task t with st := .ready, inst := some { bits := o, rel := stroke, clear := clear }, clearSt := later }
    ((d.seeSuccs o).bpEnter n, [])

/-- A release of task `t` (R58, R61, R72, R74, R264, R267); `held` says that it was held in PEND: a CLEAR_STATE written since then waits for the release that follows. -/
def Dev.releaseTask (d : Dev) (t stroke : Nat) (held : Bool) : Dev × List PumpAct :=
  match d.obj S.TASKS t with
  | none => (d, [])
  | some o =>
    let r := d.task t
    if r.disabled || r.cancelReq || d.isolated (.cell (tCell o)) then
      let d := d.retireMark t o .cancelled
      (d.setTask t { d.task t with cancelReq := false }, [])
    else if r.inst.isSome || r.pend.isSome then
      if r.pend.isSome then ((d.count (R.STK_CNT_COUNT 4)).ev E.RELEASE_OVF t, [])
      else (d.setTask t { r with pend := some stroke, pendClear := r.clearSt, clearSt := false }, [])
    else d.listTask t stroke (if held then r.pendClear else r.clearSt) (held && r.clearSt)

/-- The tasks that completions have released in this cycle (R79). -/
def Dev.decNow (d : Dev) : List Nat := if d.pump.decAt = d.stamp then d.pump.decRel else []

/-- A completion of a predecessor decrements the count of task `t` (R58). Completions of one cycle release a task at most once (R79). -/
def Dev.decTask (d : Dev) (t : Nat) : Dev × List PumpAct :=
  match d.obj S.TASKS t with
  | none => (d, [])
  | some o =>
    let r := d.task t
    if r.dep = 0 ∨ (tPeriodic o = false ∧ t ∈ d.decNow) then (d, [])
    else if r.dep = 1 then
      let d := { d with pump := { d.pump with decAt := d.stamp, decRel := t :: d.decNow } }
      (d.setTask t { r with dep := if tPeriodic o then 0 else 1 }, [.rel t d.org.num false])
    else (d.setTask t { r with dep := r.dep - 1 }, [])

/-- The lowest task of cell `n` whose release is held by back-pressure (R77). -/
def Dev.heldTask (d : Dev) (n : Nat) : Option (Nat × Nat) :=
  d.pump.tasks.findSome? (fun x =>
    let o := d.objD S.TASKS x.1
    if x.2.inst.isNone && tCell o == n then x.2.pend.map (fun s => (x.1, s)) else none)

/-- Back-pressure of cell `n` begins or ends with its shared occupancy; at its end held releases are listed in ascending task number (R77). -/
def Dev.bpTask (d : Dev) (n : Nat) : Dev × List PumpAct :=
  let c := d.cell n
  let d := if c.bp && decide (d.occ n false + 256 ≤ d.rlHw) then d.setCell n { c with bp := false } else d.bpEnter n
  if (d.cell n).bp then (d, [])
  else match d.heldTask n with
    | none => (d, [])
    | some (t, s) => (d.setTask t { d.task t with pend := none }, [.rel t s true, .bp n])

/-- The pump works off what is left to do, in order. The fuel is above what any image can need in one instant. -/
def Dev.pumpRun : Nat → Dev → List PumpAct → Dev
  | 0, d, _ => d
  | _ + 1, d, [] => d
  | n + 1, d, a :: rest =>
    let (d, more) := match a with
      | .dec t => d.decTask t
      | .rel t s h => d.releaseTask t s h
      | .bp c => d.bpTask c
    d.pumpRun n (rest ++ more)

/-- Fuel of `Dev.pumpRun`: above the entries of all successor lists. -/
def pumpFuel : Nat := 2 ^ 26

/-- An operation of the pump with all that follows from it in the instant. -/
def Dev.pump' (x : Dev × List PumpAct) : Dev := x.1.pumpRun pumpFuel x.2

/-- STK_RL_HW is written: back-pressure of every cell follows the new value at once (R77, R86). -/
def Dev.rlHwWrite (d : Dev) (v : Nat) : Dev := Dev.pump' (d.set R.STK_RL_HW_HW v, (List.range 64).map .bp)

/-! ### The argument block (R253) and staging (R255) -/

/-- The local state address of a task. -/
def Dev.lstate (d : Dev) (o : Nat) : Nat := bits (d.argWord (tArg o + 1)) 48 15

/-- A word of a cell's local memory is written, which repairs it (R246). -/
def CellRt.write (c : CellRt) (a : Nat) (w : MWord) : CellRt :=
  { c with lm := kvPut 0 a w c.lm, lmUe := c.lmUe.filter (· != a), lmCe := c.lmCe.filter (· != a), ovfW := c.ovfW.filter (· != a), redL := kvDel a c.redL }

/-- Words to consecutive local addresses. -/
def CellRt.writeN (c : CellRt) (a : Nat) : List MWord → CellRt
  | [] => c
  | w :: r => (c.write a w).writeN (a + 1) r

/-- The kernel table entry of a task: 32 bytes of R249 as a number, in the concatenation of its cell's packs (R251). -/
def Bank.kernel (b : Bank) (o : Nat) : Option Nat :=
  let c := (b.obj S.CELLS (tCell o)).getD 0
  let ks := (List.range (cNPack c)).flatMap (fun k =>
    ((b.packs.find? (fun p => p.id == cPackId c k)).map Pack.kernels).getD [])
  ks[tKernel o]?

/-- The kernel entry that an instance runs: an instance of a task that has changed keeps its old code (R500). -/
def Dev.kernelOf (d : Dev) (i : Inst) : Nat := if i.old then i.kern else (d.bank.kernel i.bits).getD 0

/-- LSTATE_WORDS of a kernel entry. -/
def kLstate (k : Nat) : Nat := bits k 96 32

/-- CLEAR_STATE has its effect before instance `i` of task `t` is staged: the task's local state words are zeroed and the instance runs with FIRST_RUN (R264). -/
def Dev.clearLocal (d : Dev) (t : Nat) (i : Inst) : Dev :=
  let r := d.task t
  if i.clear then
    let c := (List.range (kLstate (d.kernelOf i))).foldl (fun c k => c.write (d.lstate i.bits + k) 0) (d.cell (tCell i.bits))
    (d.setCell (tCell i.bits) c).setTask t { r with firstRun := true }
  else d

/-- Input items are popped into the staging area (R255), with what the call frame will say of them (R256). -/
def Dev.stageInput (d : Dev) (n : Nat) (io : Nat × Nat × Nat) : Nat → Dev × (Nat × Nat × Nat × Nat)
  | 0 => (d, (0, 0, 0, 0))
  | k + 1 =>
    let (d, (a, i, p, rs)) := d.stageInput n io k
    let (it, d) := d.qPop io.1 false
    let c := (d.cell n).writeN (io.2.2 + k * qSlotWords (d.objD S.QUEUES io.1)) it
    let h := itemHdr it
    (d.setCell n c, (a + 1, i + b2n (bit h rIdle || bit h rRepeat), p + b2n (itemPoison it), rs ||| hReason h))

/-- Staging of a class-L instance may begin: its cell's first draw is open, its entry neither over nor skipped, and cycle FD_START has come (R63, R64). -/
def Dev.fdStages (d : Dev) (t o : Nat) : Bool :=
  let c := d.cell (tCell o)
  tClass o != 0 || (c.fdOpen && !c.fdDone.contains t && decide (tFdStart o ≤ d.org.cc))

/-- The words of the argument block that name a task's inputs and outputs are read, with their errors (R90, R253). -/
def Dev.argRead (d : Dev) (o : Nat) : Dev := (d.resReadN (tArg o) (3 + d.nIn o + d.nOut o)).2

/-- Inputs are staged on cell `n`, in order, each with its record (R255). -/
def Dev.stageInputs (d : Dev) (n : Nat) (ios : List (Nat × Nat × Nat)) : Dev × List (Nat × Nat × Nat × Nat) :=
  ios.foldl (fun (x : Dev × List (Nat × Nat × Nat × Nat)) io =>
    let (d, s) := x.1.stageInput n io io.2.1
    (d, x.2 ++ [s])) (d, [])

/-- The queue interface begins staging of a READY instance (R63, R74, R255). -/
def Dev.stageTask (d : Dev) (t : Nat) : Dev :=
  let r := d.task t
  match r.inst with
  | none => d
  | some i =>
    if r.st == .ready && !d.halted (.cell (tCell i.bits)) && d.fdStages t i.bits then
      let d := (d.argRead i.bits).clearLocal t i
      let (d, stg) := d.stageInputs (tCell i.bits) (d.inputs i.bits)
      d.setTask t { d.task t with st := .staged, inst := some { i with stg := stg } }
    else d

/-! ### Admission (R62 to R67) -/

/-- Whether the first instance ranks above the second: class, deadline, task number (R65). -/
def outranks (a b : Nat × Inst) : Bool :=
  let ca := tClass a.2.bits
  let cb := tClass b.2.bits
  let da := dlAbs a.2.bits a.2.rel
  let db := dlAbs b.2.bits b.2.rel
  decide (ca < cb ∨ (ca = cb ∧ (da < db ∨ (da = db ∧ a.1 < b.1))))

/-- The highest-ranked listed instance of classes 1 to 3 on cell `n` (R65). -/
def Dev.ranked (d : Dev) (n : Nat) : Option (Nat × Inst) :=
  (d.pump.tasks.filter (fun x => listedIn n false x.2)).foldl (fun best x =>
    match x.2.inst, best with
    | none, b => b
    | some i, none => some (x.1, i)
    | some i, some b => if outranks (x.1, i) b then some (x.1, i) else some b) none

/-- The class-L task of cell `n` whose turn it is in the first draw: the least FD_SEQ that has not run and was not skipped (R63). -/
def Dev.fdNext (d : Dev) (n : Nat) : Option Nat :=
  let l := (d.bank.sec S.TASKS).filter (fun x => tCell x.2 == n && tClass x.2 == 0 && !(d.cell n).fdDone.contains x.1)
  (l.foldl (fun (best : Option (Nat × Nat)) x => match best with
    | none => some x
    | some b => if tFdSeq x.2 < tFdSeq b.2 then some x else some b) none).map Prod.fst

/-- The call frame as RUN begins (R256): words 0 to 3, the inputs and the outputs. -/
def Dev.callFrame (d : Dev) (t : Nat) (i : Inst) (first inFd : Bool) : List Nat :=
  let o := i.bits
  let wrap := bit (d.kernelOf i) 80
  let ins := ((d.inputs o).zip i.stg).map (fun x => packLanes x.1.2.2 (x.2.1 + x.2.2.1 * 256 + x.2.2.2.1 * 65536) x.2.2.2.2)
  let outs := (d.outputs o).map (fun x => packLanes x.2.2 x.2.1 0)
  [packLanes t (tClass o + tCell o * 4) (tKernel o),
   packLanes d.org.num (d.org.num / 2 ^ 24) (d.org.num / 2 ^ 48),
   packLanes (tBudget o) d.org.cc (tDlCc o),
   packLanes (tArg o) (b2n first + b2n wrap * 2 + b2n inFd * 4) (tDlStrokes o)] ++
  ins ++ List.replicate (16 - ins.length) 0 ++ outs ++ List.replicate (16 - outs.length) 0 ++ [0]

/-- A STAGED instance enters RUN (R74, R256, R257): the call frame is written, the compute array starts clear. -/
def Dev.admitInst (d : Dev) (t : Nat) (i : Inst) : Dev :=
  let n := tCell i.bits
  let r := d.task t
  let c := d.cell n
  let frame := d.callFrame t i (r.firstRun && !i.old) c.fdOpen
  let c := c.writeN 0 (frame.map (fun x => mkW x false false false false))
  let fdDone := if tClass i.bits == 0 then t :: c.fdDone else c.fdDone
  let c := { c with acc := [], ags := [], ovf := 0, ovfSeen := false, running := some t, fdDone := fdDone }
  let i := { i with runStroke := d.org.num, runCc := d.org.cc }
  let d := (d.setCell n c).setTask t { r with st := .running, firstRun := r.firstRun && i.old, inst := some i }
  Dev.pump' (d.count (R.CELL_CNT_COUNT n 0), [.bp n])

/-- The pump offers RUN on cell `n` (R62 to R67). The highest-ranked instance, READY or STAGED, that no longer meets its deadline retires unrun (R66, R74); one that would
run into the next first draw leaves the array idle until that has closed (R67). -/
def Dev.runAdmit (d : Dev) (n : Nat) : Dev :=
  let c := d.cell n
  if c.running.isSome || d.halted (.cell n) then d
  else if !c.fdOpen && c.parked && decide (0 < d.fdLen n) then d
  else if c.fdOpen then
    match d.fdNext n with
    | none => d
    | some t => match (d.task t).inst with
      | some i => if (d.task t).st == .staged then d.admitInst t i else d
      | none => d
  else match d.ranked n with
    | none => d
    | some (t, i) =>
      let o := i.bits
      if (tClass o == 1 || tClass o == 2) && decide (dlAbs o i.rel < d.absCc + tBudget o - 1) then Dev.pump' (d.retire t o .miss)
      else if (d.task t).st != .staged then d
      else if decide (0 < d.fdLen n ∧ 156250 < d.org.cc + tBudget o + 512) then d.setCell n { c with parked := true }
      else d.admitInst t i

/-! ### The first draw (R62 to R64) -/

/-- A class-L entry is due in the stroke (R63). -/
def Dev.fdDue (d : Dev) (t o : Nat) : Bool :=
  if tPeriodic o then d.org.num % max 1 (tPeriod o) == tPhase o else d.pump.predSeen.contains t

/-- FD_LATEST passes for a class-L entry: one that is not released is skipped for the stroke, and one that is due and neither
cancelled nor disabled fires CLASSL_LATE (R63). While an earlier instance still drains, its release is held (R61; log entry 104). -/
def Dev.fdLatest (d : Dev) (t : Nat) : Dev :=
  match d.obj S.TASKS t with
  | none => d
  | some o =>
    let n := tCell o
    let c := d.cell n
    let released := (d.task t).st == .ready || (d.task t).st == .staged
    if tClass o == 0 && c.fdOpen && !released && !c.fdDone.contains t then
      let d := d.setCell n { c with fdDone := t :: c.fdDone }
      if d.fdDue t o && !(d.task t).disabled && !d.pump.cancelled.contains t then d.ev E.CLASSL_LATE t else d
    else d

/-! ### Local memory as it is read (R246, R266) -/

/-- The task in RUN on cell `n`, zero where none is. -/
def Dev.runTask (d : Dev) (n : Nat) : Nat := (d.cell n).running.getD 0

/-- What cycle `t` holds of a cell: nothing yet, where `c` is an earlier cycle. -/
def CellCyc.now (c : CellCyc) (t : Nat) : CellCyc := if c.stamp = t then c else { stamp := t }

/-- A word of local memory with the errors it shows to a read: as it was before a write of the kernel in this same cycle (R266). -/
def Dev.lmSees (d : Dev) (n a : Nat) : MWord × Bool × Bool :=
  let c := d.cell n
  (kvGet a (c.cyc.now d.stamp).old).getD (kvD c.lm a 0, c.lmUe.contains a, c.lmCe.contains a)

/-- A word of local memory as read (R246). -/
def Dev.lmRead (d : Dev) (n a : Nat) : MWord × Dev :=
  let x := d.lmSees n a
  if x.2.1 then
    (poisonZero, ((d.count (R.CELL_CNT_COUNT n 5)).set (R.CELL_ECC_ADDR_ADDR n) a).cause n (d.runTask n)
      (R.CELL_EVT_STAT_LM_ECC_UE n) (R.CELL_EVT_EN_LM_ECC_UE n) a)
  else if x.2.2 then
    (x.1, (d.count (R.CELL_CNT_COUNT n 4)).cause n (d.runTask n) (R.CELL_EVT_STAT_LM_ECC_CE n) (R.CELL_EVT_EN_LM_ECC_CE n))
  else (x.1, d)

/-- `k` words of local memory from address `a`. -/
def Dev.lmReadN (d : Dev) (n a : Nat) : Nat → List MWord × Dev
  | 0 => ([], d)
  | k + 1 =>
    let (w, d) := d.lmRead n a
    let (ws, d) := d.lmReadN n (a + 1) k
    (w :: ws, d)

/-- The kernel writes a word of local memory; a read in the same cycle still finds what the word held (R246, R266). -/
def Dev.lmWrite (d : Dev) (n a : Nat) (w : MWord) : Dev :=
  let c := d.cell n
  let y := c.cyc.now d.stamp
  d.setCell n { c.write a w with cyc := if (kvGet a y.old).isSome then y else { y with old := kvSet a (d.lmSees n a) y.old } }

/-- Words go to consecutive local addresses. -/
def Dev.lmWriteN (d : Dev) (n a : Nat) : List MWord → Dev
  | [] => d
  | w :: r => (d.lmWrite n a w).lmWriteN n (a + 1) r

/-! ### The end of RUN, and DRAIN (R69 to R71, R259 to R263) -/

/-- The item at local address `a` of cell `n` as the queue interface drains it: FIRST and LAST from PLEN, MARK and POISON kept, REASON.OVF where a word of it
was marked by a reduction (R235, R246, R259). -/
def Dev.drainItem (d : Dev) (n a : Nat) : List MWord × Dev :=
  let c := d.cell n
  let (h, d) := d.lmRead n a
  let len := hPlen (wData h)
  let (ws, d) := d.lmReadN n (a + 1) len
  let hd := if (List.range len).any (fun k => c.ovfW.contains (a + 1 + k)) then setBit (wData h) rOvf else wData h
  (mkW hd true (len == 0) (wMark h) (wPoison h) :: ws.zipIdx.map (fun x => mkW (wData x.1) false (x.2 + 1 == len) (wMark x.1) (wPoison x.1)), d)

/-- Items of a queue from these local addresses are read for the drain, with their queue. -/
def Dev.drainItems (d : Dev) (n : Nat) : List (Nat × Nat) → List (Nat × List MWord) × Dev
  | [] => ([], d)
  | (q, a) :: r =>
    let (it, d) := d.drainItem n a
    let (its, d) := d.drainItems n r
    ((q, it) :: its, d)

/-- The words that the open items from these local addresses count: PLEN + 1 each, as their headers read (R246, R260). -/
def Dev.openWords (d : Dev) (n : Nat) : List Nat → Nat × Dev
  | [] => (0, d)
  | a :: r =>
    let (h, d) := d.lmRead n a
    let (k, d) := d.openWords n r
    (hPlen (wData h) + 1 + k, d)

/-- Where the items lie that an output drains, the words its open items count, and whether the drain contract is broken (R259, R260): from DRAIN and
SLOT_WORDS, MAX_ITEMS, and the kernel's BEGUN and COMMIT. -/
def Dev.drainOut (d : Dev) (n drain sw maxItems begun commit : Nat) (normal : Bool) : (List Nat × Nat × Bool) × Dev :=
  let (opn, d) := d.openWords n (((List.range begun).drop commit).map (fun k => drain + k * sw))
  (((List.range (min commit maxItems)).map (fun k => drain + k * sw), opn,
    decide (maxItems < commit ∨ begun < commit) || (normal && decide (commit < begun))), d)

/-- Items still to drain are pushed in order. One whose producer waits for credit is held back, with the later ones of its queue; items of other queues go
on (R104). The queues of `held` have an item held back. -/
def Dev.drainPush (d : Dev) (held : List Nat) : List (Nat × List MWord) → Dev × List (Nat × List MWord)
  | [] => (d, [])
  | (q, it) :: r =>
    if held.contains q || d.qWaits q it then
      let (d, rest) := d.drainPush (q :: held) r
      (d, (q, it) :: rest)
    else (d.qPush q it).drainPush held r

/-- What each output of an instance in RUN has to drain, by its queue, as the cell reads it in the call frame (R246, R256, R259). -/
def Dev.runOuts (d : Dev) (i : Inst) (normal : Bool) : List (Nat × List Nat × Nat × Bool) × Dev :=
  let n := tCell i.bits
  (d.outputs i.bits).zipIdx.foldl (fun (x : List (Nat × List Nat × Nat × Bool) × Dev) y =>
    let (w, d) := x.2.lmRead n (20 + y.2)
    let f := bits (wData w) 48 16
    let (z, d) := d.drainOut n y.1.2.2 (qSlotWords (d.objD S.QUEUES y.1.1)) y.1.2.1 (bits f 0 8) (bits f 8 8) normal
    (x.1 ++ [(y.1.1, z)], d)) ([], d)

/-- The words of the items that outputs have open count FLUSHED_WORDS at their queues (R106, R121, R260). -/
def Dev.flushOpen (d : Dev) (outs : List (Nat × List Nat × Nat × Bool)) : Dev :=
  d.each outs (fun d x => if 0 < x.2.2.1 ∧ d.qValid x.1 then d.setQ x.1 ((d.q x.1).add cFlushedWords x.2.2.1) else d)

/-- The instance in RUN on cell `n`. -/
def Dev.inRun (d : Dev) (n : Nat) : Option (Nat × Inst) :=
  (d.cell n).running.bind (fun t => (d.task t).inst.map (fun i => (t, i)))

/-- The cycles that an instance has spent in RUN in the stroke `num`, as far as cycle `cc`. -/
def Inst.runIn (i : Inst) (num cc : Nat) : Nat := cc - (if i.runStroke = num then i.runCc else 0)

/-- Cycles in RUN are added to those of the stroke (R559). -/
def Dev.spendRun (d : Dev) (k : Nat) : Dev :=
  { d with cal := { d.cal with runCc := match d.cal.runCc with
      | [] => [k]
      | x :: r => (x + k) :: r } }

/-- The instance in RUN on cell `n` leaves RUN: its cycles in this stroke count (R559). -/
def Dev.runEnds (d : Dev) (n : Nat) : Dev := match d.inRun n with
  | none => d
  | some (_, i) => d.spendRun (i.runIn d.org.num d.org.cc)

/-- A stroke ends at the boundary of stroke `org.num`: the cycles of the instances still in RUN count, and the strokes further back than LOAD reaches drop out (R559). -/
def Dev.runStrokeEnds (d : Dev) : Dev :=
  let d := d.each (List.range 64) (fun d n => match d.inRun n with
    | none => d
    | some (_, i) => d.spendRun (i.runIn (d.org.num - 1) 156250))
  { d with cal := { d.cal with runCc := 0 :: d.cal.runCc.take 1024 } }

/-- The instance of task `t` leaves the compute array: its committed items drain, open items are discarded (R106, R259 to R261). `normal`
says that the kernel returned without a stop. -/
def Dev.endRun (d : Dev) (t : Nat) (i : Inst) (normal : Bool) : Dev :=
  let n := tCell i.bits
  let (outs, d) := d.runOuts i normal
  let d := d.flushOpen outs
  let d := if outs.any (fun x => x.2.2.2) then
      (d.count (R.CELL_CNT_COUNT n 7)).cause n t (R.CELL_EVT_STAT_CONTRACT_ERR n) (R.CELL_EVT_EN_CONTRACT_ERR n)
    else d
  let (its, d) := d.drainItems n (outs.flatMap (fun x => x.2.1.map (fun a => (x.1, a))))
  let (d, rest) := d.drainPush [] its
  let d := if (d.cell n).ovfSeen then d.count (R.CELL_CNT_COUNT n 2) else d
  let d := d.runEnds n
  let d := d.setCell n { d.cell n with running := none, ovfSeen := false }
  d.setTask t { d.task t with inst := some { i with drain := true, drainQ := rest } }

/-- The kernel returns in the cycle in which a CANCEL applied: the instance completes, and CANCEL_REQ meets the next release (R79). -/
def Dev.uncancel (d : Dev) (t : Nat) (i : Inst) : Inst × Dev :=
  if (d.task t).st == .stopping && i.cancel && i.stopAt == some d.absCc then
    let i := { i with cancel := false, stopAt := none }
    (i, d.setTask t { d.task t with st := .running, inst := some i, cancelReq := true })
  else (i, d)

/-- The present cycle lies behind cycle BUDGET of the instance's RUN, whose first is that of its admission (R69). -/
def Dev.overBudget (d : Dev) (i : Inst) : Bool := decide (i.runStroke * 156250 + i.runCc + tBudget i.bits ≤ d.absCc)

/-- An instance whose budget runs out in the very cycle of a checkpoint or a return has entered STOPPING (R69, R266). -/
def Dev.budgetDue (d : Dev) (t : Nat) (i : Inst) : Dev :=
  if (d.task t).st == .running && d.overBudget i then d.setTask t { d.task t with st := .stopping } else d

/-- The kernel on cell `n` returns, RET in the call frame (R246, R259, R261, R263). -/
def Dev.kernelRet (d : Dev) (n : Nat) : Dev :=
  match d.inRun n with
  | none => d
  | some (t, i) =>
    let (i, d) := d.uncancel t i
    let d := d.budgetDue t i
    let (x, d) := d.lmRead n 36
    let ret := bits (wData x) 0 24
    let d := if ret != 0 then
        (d.count (R.CELL_CNT_COUNT n 1)).cause n t (R.CELL_EVT_STAT_KERNEL_FAULT n) (R.CELL_EVT_EN_KERNEL_FAULT n) ret
      else d
    d.endRun t i ((d.task t).st == .running)

/-- Cycle BUDGET + 1 of RUN on cell `n` (R69). -/
def Dev.budgetOut (d : Dev) (n : Nat) : Dev :=
  match d.inRun n with
  | none => d
  | some (t, i) =>
    if (d.task t).st == .running then d.setTask t { d.task t with st := .stopping, inst := some { i with stopAt := some d.absCc } } else d

/-- A checkpoint on cell `n`: an instance in STOPPING ends there (R261, R266). -/
def Dev.checkpoint (d : Dev) (n : Nat) : Dev :=
  match d.inRun n with
  | none => d
  | some (t, i) =>
    let d := d.budgetDue t i
    if (d.task t).st == .stopping then d.endRun t i false else d

/-- An instance 512 cc in STOPPING without a checkpoint is ended (R262). -/
def Dev.cpForced (d : Dev) (n : Nat) : Dev :=
  match d.inRun n with
  | none => d
  | some (t, i) =>
    if (d.task t).st == .stopping then
      ((d.count (R.CELL_CNT_COUNT n 6)).cause n t (R.CELL_EVT_STAT_CP_FORCED n) (R.CELL_EVT_EN_CP_FORCED n)).endRun t i false
    else d

/-- The output queues of an instance that retires OVERRUN arm their fallback (R101). -/
def Dev.armFallback (d : Dev) (o : Nat) : Dev :=
  d.each (d.outputs o) (fun d x => if d.qValid x.1 then d.setQ x.1 { d.q x.1 with fbArmed := true } else d)

/-- DRAIN of task `t` ends and its instance retires (R60, R69, R74, R81). It does not end while an item waits for credit. -/
def Dev.completeTask (d : Dev) (t : Nat) : Dev :=
  match (d.task t).inst with
  | none => d
  | some i =>
    if !i.drain then d
    else
      let (d, rest) := d.drainPush [] i.drainQ
      let i := { i with drainQ := rest }
      if !rest.isEmpty then d.setTask t { d.task t with inst := some i }
      else
        let late := tClass i.bits == 0 && decide (dlAbs i.bits i.rel < d.absCc)
        let k : Retire := if (d.task t).st == .stopping then (if i.cancel then .cancelled else .overrun)
          else if i.removed then .cancelled else .done
        let d := if k == .overrun then d.armFallback i.bits else d
        let d := if late && k != .cancelled then d.ev E.DEADLINE_MISS_L t else d
        Dev.pump' (d.retire t i.bits k)

/-! ### Task commands (R71, R72, R85) -/

/-- A class-L entry cancelled after its FD_LATEST leaves the first draw of this stroke: the entries after it go on, and a held release waits for the next first
draw (R63, R64). -/
def Dev.fdCancelled (d : Dev) (t o : Nat) : Dev :=
  let c := d.cell (tCell o)
  if tClass o == 0 && c.fdOpen && decide (tFdLatest o < d.org.cc) && !c.fdDone.contains t then d.setCell (tCell o) { c with fdDone := t :: c.fdDone } else d

/-- The current instance of task `t`, READY or STAGED, retires CANCELLED at once (R71, R72). -/
def Dev.cancelWaiting (d : Dev) (t : Nat) : Dev :=
  match (d.task t).inst with
  | some i =>
    if (d.task t).st == .ready || (d.task t).st == .staged then Dev.pump' ((d.fdCancelled t i.bits).retire t i.bits .cancelled) else d
  | none => d

/-- CANCEL (R71). An instance already in STOPPING ends as it entered it (R74; log entry 16), but one whose budget ran out in this same cycle ends CANCELLED; one in
DRAIN completes, and CANCEL_REQ meets the next release (R79). -/
def Dev.cancelTask (d : Dev) (t : Nat) : Dev :=
  let r := d.task t
  match r.inst with
  | none => d.setTask t { r with cancelReq := true }
  | some i =>
    if i.drain then d.setTask t { r with cancelReq := true }
    else if r.st == .running then d.setTask t { r with st := .stopping, inst := some { i with cancel := true, stopAt := some d.absCc } }
    else if r.st == .stopping then (if i.stopAt == some d.absCc && !i.cancel then d.setTask t { r with inst := some { i with cancel := true, stopAt := none } } else d)
    else d.cancelWaiting t

/-- STATE as R55 numbers it. -/
def TState.code : TState → Nat
  | .wait => 0
  | .ready => 1
  | .staged => 2
  | .running => 3
  | .stopping => 4

/-- The 256 bits of a task descriptor (R55). -/
def Dev.taskDesc (d : Dev) (t : Nat) : Nat :=
  let r := d.task t
  d.objD S.TASKS t % 2 ^ 240 + r.dep.toNat * 2 ^ 240 + r.st.code * 2 ^ 248 + b2n r.pend.isSome * 2 ^ 251 +
    b2n r.disabled * 2 ^ 252 + b2n r.cancelReq * 2 ^ 253

/-- STK_TASK_CMD OP 1 to 6 on the task in STK_TASK_IDX (R85). OP 5 clears the counters of the pump and needs no VALID index. -/
def Dev.taskCmd (d : Dev) (req : Requester) (op : Nat) : Dev :=
  d.command C.task req (if op = 1 then .none else .oper) (fun d =>
    let t := d.get R.STK_TASK_IDX_IDX
    if op < 1 ∨ 6 < op then .error 2
    else if op = 5 then .ok (d.each (List.range 6) (fun d k => d.set (R.STK_CNT_COUNT k) 0))
    else if (d.obj S.TASKS t).isNone then .error 1
    else if op = 1 then .ok (d.setWords R.STK_TASK_DATA_D 8 (d.taskDesc t))
    else if op = 2 then .ok (d.cancelTask t)
    else if op = 3 then .ok ((d.setTask t { d.task t with disabled := true }).cancelWaiting t)
    else if op = 4 then .ok (d.setTask t { d.task t with disabled := false, cancelReq := false })
    else .ok (d.setTask t { d.task t with clearSt := true }))

/-- STK_TASK_CMD READ (R55, R85). -/
def execTaskRead (w : When) (req : Requester) (s : State) : Out := s.runReq w req (·.taskCmd req 1)

/-- STK_TASK_CMD CANCEL (R71). -/
def execCancel (w : When) (req : Requester) (s : State) : Out := s.runReq w req (·.taskCmd req 2)

/-- STK_TASK_CMD DISABLE (R72). -/
def execDisable (w : When) (req : Requester) (s : State) : Out := s.runReq w req (·.taskCmd req 3)

/-- STK_TASK_CMD ENABLE (R72). -/
def execEnable (w : When) (req : Requester) (s : State) : Out := s.runReq w req (·.taskCmd req 4)

/-- STK_TASK_CMD OP 5: the counters of STK_CNT are cleared (R85). -/
def execClearCounters (w : When) (req : Requester) (s : State) : Out := s.runReq w req (·.taskCmd req 5)

/-- STK_TASK_CMD CLEAR_STATE (R264). -/
def execClearState (w : When) (req : Requester) (s : State) : Out := s.runReq w req (·.taskCmd req 6)

/-- Staging of a task's instance (R63, R255). -/
def execStage (w : When) (task : Nat) (s : State) : Out := s.runMain w (·.stageTask task)

/-- RUN is offered on a cell (R62 to R67). -/
def execRunAdmit (w : When) (cell : Nat) (s : State) : Out := s.runMain w (·.runAdmit cell)

/-- The first draw of a cell closes at cycle FD_LEN, and RUN is offered again (R62, R64, R67). -/
def execFirstDrawClose (w : When) (cell : Nat) (s : State) : Out :=
  s.runMain w (fun d => d.setCell cell { d.cell cell with fdOpen := false, parked := false })

/-- FD_LATEST of a class-L task passes (R63). -/
def execFdLatestExpiry (w : When) (task : Nat) (s : State) : Out := s.runMain w (·.fdLatest task)

/-- The budget of the instance in RUN is exhausted (R69). -/
def execBudgetExhausted (w : When) (cell : Nat) (s : State) : Out := s.runMain w (·.budgetOut cell)

/-- DRAIN ends and the instance retires (R60). -/
def execCompletion (w : When) (task : Nat) (s : State) : Out := s.runMain w (·.completeTask task)

/-! ### The stroke boundary's part of the pump (R58, R59, R62, R63) -/

/-- A periodic task's count is reloaded at the boundary that begins its period (R59); the release that follows at once where DEP_INIT is zero comes after every
reload (R79). -/
def Dev.reload (d : Dev) (t o : Nat) : Dev × List PumpAct :=
  if tPeriodic o && d.org.num % max 1 (tPeriod o) == tPhase o then
    let r := d.task t
    let d := if r.dep != 0 then (d.count (R.STK_CNT_COUNT 5)).ev E.DEP_STALE t else d
    (d.setTask t { d.task t with dep := BitVec.ofNat 8 (tDepInit o) }, if tDepInit o = 0 then [.rel t d.org.num false] else [])
  else (d, [])

/-- The pump at the boundary that begins stroke `org.num`: first draws open, and periodic tasks are reloaded in ascending number. -/
def Dev.pumpBoundary (d : Dev) : Dev :=
  let d := { d with pump := { d.pump with predSeen := [], cancelled := [] } }
  let d := d.each (d.idxs S.CELLS) (fun d n =>
    let c := d.cell n
    d.setCell n { c with fdDone := [], fdOpen := decide (0 < d.fdLen n ∧ c.fdFrom ≤ d.org.num) })
  let standing := d.pump.tasks.filterMap (fun x => if x.2.st == .ready || x.2.st == .staged || x.2.st == .running then x.2.inst else none)
  let d := d.each standing (fun d i => d.seeSuccs i.bits)
  Dev.pump' ((d.bank.sec S.TASKS).foldl (fun (x : Dev × List PumpAct) y =>
    let (d, acts) := x.1.reload y.1 y.2
    (d, x.2 ++ acts)) (d, []))

end Sys2Proof.Machine
end

