-- ==== Sys2Proof/Machine/Fabric.lean ====
section
/-! DEFINITION. The mesh links and the level census (R110 to R119, R165), and what a block's isolation does to the queues it feeds (R121). -/

namespace Sys2Proof.Machine

/-! ### Links (R16, R110, R111) -/

/-- The key of a link's virtual channel: the node that sends, the direction (0 +x, 1 -x, 2 +y, 3 -y) and the class. -/
def linkKey (node dir cls : Nat) : Nat := 16 * node + 4 * dir + cls

/-- The node at the far end of a link, where the mesh of 8 by 10 nodes has one (R15). -/
def meshNext (node dir : Nat) : Option Nat :=
  if dir = 0 then (if node % 8 < 7 then some (node + 1) else none)
  else if dir = 1 then (if 0 < node % 8 then some (node - 1) else none)
  else if dir = 2 then (if node + 8 < 80 then some (node + 8) else none)
  else if dir = 3 then (if 8 ≤ node then some (node - 8) else none)
  else none

/-- The opposite direction. -/
def dirBack (dir : Nat) : Nat := if dir % 2 = 0 then dir + 1 else dir - 1

/-- A virtual channel of a link. -/
def Dev.link (d : Dev) (k : Nat) : LinkRt := kvD d.qf.links k {}

/-- A virtual channel of a link is replaced. -/
def Dev.setLink (d : Dev) (k : Nat) (l : LinkRt) : Dev := { d with qf := { d.qf with links := kvPut {} k l d.qf.links } }

/-- The input of class `c` that follows the one granted last in the rotation of five. -/
def rotPick (waiting : List (Nat × Nat)) (c last : Nat) : Option Nat :=
  ((List.range 5).map (fun k => (last + 1 + k) % 5)).find? (fun i => waiting.contains (i, c))

/-- The grant of a router output (R111): class L before the others; classes 1, 2 and 3 by the grants left of the rotation 8 : 4 : 1, which
begins anew when every class that waits has spent its own. -/
def ArbRt.grant (a : ArbRt) (waiting : List (Nat × Nat)) : Option (Nat × Nat) × ArbRt :=
  let take := fun (a : ArbRt) (c : Nat) => match rotPick waiting c (a.last.getD c 4) with
    | none => (none, a)
    | some i => (some (i, c), { a with last := a.last.set c i })
  if waiting.any (fun x => x.2 == 0) then take a 0
  else
    let classes := [1, 2, 3].filter (fun c => waiting.any (fun x => x.2 == c))
    if classes.isEmpty then (none, a)
    else
      let a := if classes.any (fun c => 0 < a.left.getD (c - 1) 0) then a else { a with left := [8, 4, 1] }
      match classes.find? (fun c => 0 < a.left.getD (c - 1) 0) with
      | none => (none, a)
      | some c => take { a with left := a.left.modify (c - 1) (· - 1) } c

/-- A flit that came in at input `i` (0 to 3 from the neighbour in that direction, 4 from the node itself) may leave at output `out`: routes travel along x and
then along y, and none turns back (R16). -/
def turnOk (i out : Nat) : Bool :=
  if i = 0 then out != 0
  else if i = 1 then out != 1
  else if i = 2 then out == 3 || out == 4
  else if i = 3 then out == 2 || out == 4
  else i == 4

/-- The blocks with an isolation wrapper at a mesh node (R15, R538, R639). -/
def nodeBlks (node : Nat) : List Blk :=
  if node = 1 then .pkt :: (List.range 4).map .eth
  else if node = 79 then (List.range 32).map .tdm ++ (List.range 4).map .madi
  else (nodeBlk node 0).toList

/-- The node's own input and output at its router are cut off: all its blocks are isolated (R17). -/
def Dev.nodeCut (d : Dev) (node : Nat) : Bool := !(nodeBlks node).isEmpty && (nodeBlks node).all d.isolated

/-- One flit is granted at output `out` (0 to 3 a direction, 4 the node itself). It spends a credit of its link and enters the next buffer; the
buffer it leaves returns one. A flit whose virtual channel has no credit is not granted (R110), nor one whose way would not be dimension-ordered (R16), nor one from or to a block that is
isolated from the router (R17). The reply tells the input and the class. -/
def Dev.flitGrant (d : Dev) (node out : Nat) (waiting : List (Nat × Nat)) : Dev :=
  let able := waiting.filter (fun x => decide (x.1 < 5 ∧ x.2 < 4) && turnOk x.1 out && !((x.1 == 4 || out == 4) && d.nodeCut node) &&
    (out == 4 || ((meshNext node out).isSome && decide (0 < (d.link (linkKey node out x.2)).credits))))
  let ak := 8 * node + out
  match (kvD d.qf.arbs ak {}).grant able with
  | (none, _) => d
  | (some (i, c), a) =>
    let d := { d with qf := { d.qf with arbs := kvSet ak a d.qf.arbs } }
    let d := if out = 4 then d else
      let k := linkKey node out c
      let l := d.link k
      d.setLink k { l with credits := l.credits - 1, buf := l.buf + 1 }
    let d := match meshNext node i with
      | none => d
      | some m =>
        let k := linkKey m (dirBack i) c
        let l := d.link k
        if 0 < l.buf then d.setLink k { l with buf := l.buf - 1, ret := l.ret + 1 } else d
    { d with reply := { d.reply with words := [BitVec.ofNat 32 i, BitVec.ofNat 32 c] } }

/-- R118 at a virtual channel with no flit on the wire and no credit in return: its sender's credits become 32 minus its buffered flits. -/
def Dev.creditResync (d : Dev) (k : Nat) : Dev :=
  let l := d.link k
  if l.bad && l.wire == 0 && l.ret == 0 then
    (d.setLink k { l with credits := 32 - l.buf, bad := false }).ev E.CREDIT_RESYNC (k / 16 + k / 4 % 4 * 128 + k % 4 * 512)
  else d

/-- A credit in return reaches the sender (R110). -/
def Dev.creditReturn (d : Dev) (k : Nat) : Dev :=
  let l := d.link k
  if 0 < l.ret then d.setLink k { l with ret := l.ret - 1, credits := l.credits + 1 } else d

/-- A grant at a router output (R111). -/
def execFlitGrant (w : When) (node out : Nat) (waiting : List (Nat × Nat)) (s : State) : Out := s.runMain w (·.flitGrant node out waiting)

/-- A link credit reaches the sender (R110). -/
def execLinkCreditReturn (w : When) (node dir cls : Nat) (s : State) : Out := s.runMain w (·.creditReturn (linkKey node dir cls))

/-- The sender's credits of a failed channel are re-synchronised (R118). -/
def execCreditResync (w : When) (node dir cls : Nat) (s : State) : Out := s.runMain w (·.creditResync (linkKey node dir cls))

/-! ### The level census (R114 to R117, R165) -/

/-- A difference modulo 2^32 as a signed number. -/
def diff32 (x : Int) : Int := signedOf 32 (fieldOf 32 x)

/-- The credit equation of a queue, left minus right (R115). -/
def QRt.creditDiff (r : QRt) : Int := (r.credit.toNat + r.inFlight + r.depth + r.ret : Int) - r.n

/-- The item-fate equation of a queue, left minus right, modulo 2^32 (R116). -/
def QRt.fateDiff (r : QRt) : Int :=
  diff32 ((r.c cPushed : Int) - (r.c cPopped + r.c cFlushed + r.c cSpilled + r.c cDropFull + r.c cDiscard + r.c cLost) - r.depth)

/-- Counter `k` of a cistern in the order of `CisRt.cnt`. -/
def CisRt.c (c : CisRt) (k : Nat) : Nat := (c.cnt.getD k 0).toNat

/-- The equation of a cistern, left minus right, modulo 2^32 (R165). -/
def CisRt.heldDiff (c : CisRt) : Int := diff32 ((c.c 0 : Int) - (c.c 1 + c.c 2 + c.c 3) - c.ring.length)

/-- The census takes its snapshot: the equations that fail, a queue's and a cistern's against its baseline (R117). -/
def Dev.censusSample (d : Dev) : Dev :=
  let links := d.qf.links.filterMap (fun x =>
    let v : Int := (x.2.credits + x.2.wire + x.2.buf + x.2.ret : Int) - 32
    if v = 0 then none else some (x.1, v))
  let qs := (d.idxs S.QUEUES).map (fun q => (q, d.q q))
  let credit := qs.filterMap (fun x => if qPosted (d.objD S.QUEUES x.1) || x.2.creditDiff == x.2.baseC then none else some (x.1, x.2.creditDiff))
  let fate := qs.filterMap (fun x => if x.2.fateDiff == x.2.baseF then none else some (x.1, x.2.fateDiff))
  let cist := d.cis.filterMap (fun x => if x.2.heldDiff == x.2.baseline then none else some (x.1, x.2.heldDiff))
  let d := d.set R.QF_CENSUS_STAT_DONE 0
  { d with qf := { d.qf with snap := some ⟨d.org.num, links, credit, fate, cist⟩ } }

/-- The first failing equation of a census in the order of R117: its KIND, its ID and its difference. -/
def Snap.first (s : Snap) : Option (Nat × Nat × Int) :=
  match s.links with
  | x :: _ => some (1, x.1 / 16 + x.1 / 4 % 4 * 128 + x.1 % 4 * 512, x.2)
  | [] => match s.credit, s.fate with
    | [], [] => none
    | x :: _, [] => some (2, x.1, x.2)
    | [], y :: _ => some (3, y.1, y.2)
    | x :: _, y :: _ => if x.1 ≤ y.1 then some (2, x.1, x.2) else some (3, y.1, y.2)

/-- The equations of R114 to R116 that failed. -/
def Snap.fails (s : Snap) : Nat := s.links.length + s.credit.length + s.fate.length

/-- The failures of queues and links are recorded, counted and become baselines (R117, R118). -/
def Dev.censusFail (d : Dev) (s : Snap) : Dev :=
  match s.first with
  | none => d.set R.QF_STAT_CENSUS_OK 1
  | some (kind, id, v) =>
    let d := d.set R.QF_STAT_CENSUS_OK 0
    let d := if d.flag R.QF_CENSUS_STAT_ERR then d else
      (((d.set R.QF_CENSUS_STAT_ERR 1).set R.QF_CENSUS_STAT_KIND kind).set R.QF_CENSUS_FIRST_ID id).set R.QF_CENSUS_DELTA_D (fieldOf 32 v)
    let d := (d.count R.QF_CENSUS_FAILS_COUNT s.fails).ev E.CENSUS_ERR id (fieldOf 24 v)
    let d := d.each s.links (fun d x => d.setLink x.1 { d.link x.1 with bad := true })
    let d := d.each s.credit (fun d x => d.setQ x.1 { d.q x.1 with baseC := x.2 })
    d.each s.fate (fun d x => d.setQ x.1 { d.q x.1 with baseF := x.2 })

/-- The failures of cisterns become baselines, and the lowest is written to CIS_LAST (R165). -/
def Dev.censusCis (d : Dev) (s : Snap) : Dev :=
  match s.cist with
  | [] => d
  | (c, v) :: _ =>
    let rebase := fun (x : Nat × CisRt) => (x.1, match kvGet x.1 s.cist with
      | some b => { x.2 with baseline := b }
      | none => x.2)
    let d := { d with cis := d.cis.map rebase }
    ((d.set R.CIS_STAT_CENSUS_ERR 1).set R.CIS_LAST_IDX c).ev E.CIS_CENSUS_ERR c (fieldOf 24 v)

/-- The census completes (R117). -/
def Dev.censusComplete (d : Dev) : Dev :=
  match d.qf.snap with
  | none => d
  | some s =>
    let d := (d.set R.QF_CENSUS_STAT_DONE 1).set R.QF_CENSUS_STROKE_NUM s.stroke
    let d := { d with qf := { d.qf with snap := none } }
    (d.censusFail s).censusCis s

/-- The census completes (R117). -/
def execCensusComplete (w : When) (s : State) : Out := s.runMain w (·.censusComplete)

/-! ### What an isolation does to queues (R121) -/

/-- The queues whose producer lies in block `b`. -/
def Dev.feeds (d : Dev) (b : Blk) : List Nat :=
  ((d.bank.sec S.QUEUES).filter (fun x => nodeBlk (qProdNode x.2) (qProdPort x.2) == some b)).map Prod.fst

/-- The items that block `b` has open are discarded with their words counted, and their credits come back; what is left of an item swallowed
never arrives (R121). -/
def Dev.isoQueues (d : Dev) (b : Blk) : Dev :=
  d.each (d.feeds b) (fun d q =>
    let r := (d.q q).dropOpen (qPosted (d.objD S.QUEUES q)) false false
    let r := match r.swallow with
      | some (n, _) => { r.add cFlushedWords n with swallow := none }
      | none => r
    d.setQ q { r with mal := false })

end Sys2Proof.Machine
end

