-- ==== Sys2Proof/Machine/Cis.lean ====
section
/-! DEFINITION. The cisterns (R146 to R167): where a sample plays, acceptance, the source-clock estimator, the release pass, and the commands. -/

namespace Sys2Proof.Machine

/-! ### The image bits of a cistern (R146) -/

/-- MODE: SAMPLE -/
def cSample (o : Nat) : Bool := bit o 1
/-- TIMING: LOCKED -/
def cLocked (o : Nat) : Bool := bit o 2
/-- DUAL -/
def cDual (o : Nat) : Bool := bit o 3
/-- ADAPT -/
def cAdapt (o : Nat) : Bool := bit o 4
/-- FMT: bytes of a sample -/
def cBytes (o : Nat) : Nat := if bit o 5 then 3 else 2
/-- The clock rate of a RATE code, in Hz. -/
def rateHz (r : Nat) : Nat := [8000, 16000, 32000, 44100, 48000, 88200, 96000].getD r 8000
/-- RATE in Hz -/
def cRate (o : Nat) : Nat := rateHz (bits o 8 3)
/-- CHANNELS -/
def cChannels (o : Nat) : Nat := bits o 11 5
/-- TS_PER_PKT -/
def cTsPer (o : Nat) : Nat := bits o 48 16
/-- DELAY_MIN -/
def cDelayMin (o : Nat) : Nat := bits o 77 13
/-- DELAY_MAX -/
def cDelayMax (o : Nat) : Nat := bits o 90 13
/-- BASE -/
def cBase (o : Nat) : Nat := bits o 104 24
/-- SLOTS_MAX -/
def cSlotsMax (o : Nat) : Nat := bits o 142 14
/-- SLOT_WORDS -/
def cSlotWords (o : Nat) : Nat := bits o 156 9
/-- REORDER -/
def cReorder (o : Nat) : Nat := bits o 165 7
/-- EST_WIN -/
def cEstWin (o : Nat) : Nat := bits o 172 4
/-- OUT_Q -/
def cOutQ (o : Nat) : Nat := bits o 176 16
/-- CONCEAL_MAX -/
def cConcealMax (o : Nat) : Nat := bits o 192 13
/-- GONE_TIMEOUT -/
def cGone (o : Nat) : Nat := bits o 205 13
/-- KP_SHIFT -/
def cKp (o : Nat) : Nat := bits o 218 4
/-- KI_SHIFT -/
def cKi (o : Nat) : Nat := bits o 222 4
/-- JUMP_TS -/
def cJumpTs (o : Nat) : Nat := bits o 226 16

/-- Cistern `n`. -/
def Dev.cistern (d : Dev) (n : Nat) : CisRt := kvD d.cis n {}

/-- Cistern `n` is replaced. -/
def Dev.setCis (d : Dev) (n : Nat) (c : CisRt) : Dev := { d with cis := kvSet n c d.cis }

/-- A cistern as it starts under its image bits (R499, R643). -/
def cisFresh (o : Nat) : CisRt :=
  { delay := bits o 64 13, cur := bits o 64 13, slots := bits o 128 14, pts := BitVec.ofNat 32 (bits o 16 32),
    tsOfs := BitVec.ofNat 32 (bits o 242 32) }

/-- Counter `k` of a cistern counts `n` more. -/
def CisRt.add (c : CisRt) (k n : Nat) : CisRt := { c with cnt := c.cnt.modify k (· + BitVec.ofNat 32 n) }

/-- Places of the counters in `CisRt.cnt`. -/
def kAccepted : Nat := 0
/-- RELEASED -/
def kReleased : Nat := 1
/-- DISCARD -/
def kDiscard : Nat := 2
/-- FLUSHED -/
def kFlushed : Nat := 3
/-- LATE -/
def kLate : Nat := 4
/-- DUP -/
def kDup : Nat := 5
/-- OVERFLOW -/
def kOverflow : Nat := 6
/-- CONCEALED -/
def kConcealed : Nat := 7
/-- JUMPS -/
def kJumps : Nat := 8
/-- RX_TOTAL -/
def kRxTotal : Nat := 9

/-! ### House time and stroke position (R43, R641) -/

/-- STK_PHASE_NS and STK_PHASE_SUB as they act, in 2^-16 ns (R86). -/
def Dev.phaseReg (d : Dev) : Nat := min 124999 (d.get R.STK_PHASE_NS_NS) * 65536 + d.get R.STK_PHASE_SUB_SUB

/-- The phase offset in force, in 2^-16 ns: while the origin runs, a change takes effect at the next boundary (R87). -/
def Dev.phaseNow (d : Dev) : Nat := if d.flag R.STK_STAT_RUNNING then d.org.phase else d.phaseReg

/-- The phase offset P in ns (R43). -/
def Dev.phaseNs (d : Dev) : Frac := mkFrac d.phaseNow 65536

/-- STK_NUM_BIAS: the counted stroke number minus that of R43. -/
def Dev.bias (d : Dev) : Int := signedOf 32 (d.get R.STK_NUM_BIAS_BIAS)

/-- The stroke position of a house time in ns, in counted strokes. -/
def Dev.posOf (d : Dev) (ns : Frac) : Frac := ((ns.sub d.phaseNs).mul (mkFrac 1 125000)).add (fInt d.bias)

/-- The house time in ns of a stroke position. -/
def Dev.nsOf (d : Dev) (p : Frac) : Frac := ((p.sub (fInt d.bias)).mul (fInt 125000)).add d.phaseNs

/-- A timestamp in ns. -/
def stampNs (s : Stamp) : Frac := mkFrac (stampSub16 s) 65536

/-! ### Where a sample plays (R148, R642) -/

/-- Strokes of one RTP unit: 1 / (n × RATIO), RATIO 1 in LOCKED mode. -/
def cisStep (o ratio : Nat) : Frac := if cLocked o then mkFrac 8000 (cRate o) else mkFrac (8000 * 2 ^ 40) (cRate o * ratio)

/-- pos(T) of FREE mode under an anchor. The position is kept exact; only where an anchor is formed is it held to 1/65,536 stroke (R642; log entry 134). -/
def Anchor.posT (a : Anchor) (o ratio ts : Nat) : Frac :=
  (mkFrac a.pos 65536).add ((fInt (signedOf 32 (fieldOf 32 ((ts : Int) - a.ts)))).mul (cisStep o ratio))

/-- pos(T) of LOCKED mode, with the media time nearest the time `ns` given. -/
def Dev.lockedPos (d : Dev) (o tsOfs ts : Nat) (ns : Frac) : Frac :=
  let m : Nat := (ts + 2 ^ 32 - tsOfs) % 2 ^ 32
  let at' := ns.mul (mkFrac (cRate o) (10 ^ 9))
  let k := (((at'.sub (fInt m)).mul (mkFrac 1 (2 ^ 32))).add (mkFrac 1 2)).floor
  d.posOf ((fInt (m + k * 2 ^ 32)).mul (mkFrac (10 ^ 9) (cRate o)))

/-- pos(T) of the packet with sequence number `seq`. Packets from before a jump keep the anchor before it (R159). -/
def Dev.cisPos (d : Dev) (o : Nat) (c : CisRt) (seq ts : Nat) (ns : Frac) : Frac :=
  if cLocked o then d.lockedPos o c.tsOfs.toNat ts ns
  else match c.anchor0, c.anchor with
    | some (a, r), _ => if seq < c.jumpSeq then a.posT o r ts else ((c.anchor.getD a).posT o c.ratio ts)
    | none, some a => a.posT o c.ratio ts
    | none, none => d.posOf ns

/-- A position held to 1/65,536 stroke (R642). -/
def hold16 (p : Frac) : Int := p.roundMul 65536

/-! ### Receive statistics and legs (R140, R156) -/

/-- The sequence number extended to the value nearest the highest received, and the statistics after it (RFC 3550 Appendix A.1, whose restart begins
with no wraps counted; log entry 18). Extended numbers are kept with 65,536 added, so that one before the first packet's is a number too. -/
def CisRt.seqStat (c : CisRt) (seq : Nat) : Nat × CisRt :=
  match c.high with
  | none => (seq + 65536, { c with base := seq + 65536, high := some (seq + 65536), bad := none })
  | some h =>
    let ud := (seq + 65536 - h % 65536) % 65536
    let ext := if ud < 32768 then h + ud else h + ud - 65536
    if ud < 3000 then (ext, { c with high := some (h + ud) })
    else if ud ≤ 65536 - 100 then
      if c.bad == some seq then (seq + 65536, { c with base := seq + 65536, high := some (seq + 65536), bad := none })
      else (ext, { c with bad := some ((seq + 1) % 65536) })
    else (ext, c)

/-- The interarrival jitter (RFC 3550 Appendix A.8, with division truncated toward zero). -/
def CisRt.jitterStat (c : CisRt) (o ts : Nat) (ns : Frac) : CisRt :=
  let t := (ns.mul (mkFrac (cRate o) (10 ^ 9))).floor - ts
  match c.transit with
  | none => { c with transit := some t }
  | some t0 =>
    let dd : Int := ((signedOf 32 (fieldOf 32 (t - t0))).natAbs : Nat)
    { c with transit := some t, jitter := c.jitter + truncDiv (dd - c.jitter) 16 }

/-- LEG_OFFSET after a sequence number received on both legs (R156); the arrivals are in 2^-16 ns. The offset is not bounded here: its field shows it modulo 2^24
(log entry 133). -/
def CisRt.pairStat (c : CisRt) (seq : Nat) (leg : Bool) (at16 : Nat) : CisRt :=
  match c.pairs.find? (fun x => x.1 == seq) with
  | none => { c with pairs := (seq, leg, at16) :: c.pairs.filter (fun x => decide (seq < x.1 + 32768)) }
  | some (_, l, a) =>
    if l == leg then c
    else
      let dif : Int := if leg then (at16 : Int) - a else (a : Int) - at16
      { c with pairs := c.pairs.filter (fun x => x.1 != seq), legOfs := c.legOfs + truncDiv (dif - c.legOfs * 65536) (16 * 65536),
               ofsPairs := c.ofsPairs + 1 }

/-- A leg is up. -/
def CisRt.up (c : CisRt) (legB : Bool) : Bool := if legB then c.legUp.2 else c.legUp.1

/-- A leg is set up or down. -/
def CisRt.setUp (c : CisRt) (legB v : Bool) : CisRt := { c with legUp := if legB then (c.legUp.1, v) else (v, c.legUp.2) }

/-- REF_LEG switches when it is down and the other leg is up (R156). -/
def CisRt.refSwitch (c : CisRt) (now : Nat) : CisRt :=
  if !c.up c.refLeg && c.up (!c.refLeg) then { c with refLeg := !c.refLeg, refSwAt := some now } else c

/-- The absolute cycle of a leg's last packet, with the one before kept. -/
def CisRt.legStamp (c : CisRt) (legB : Bool) (now : Nat) : CisRt :=
  if legB then { c with legPrev := (c.legPrev.1, c.legAt.2), legAt := (c.legAt.1, some now) }
  else { c with legPrev := (c.legAt.1, c.legPrev.2), legAt := (some now, c.legAt.2) }

/-- A packet on a leg reaches step 6: the leg is up (R156). -/
def Dev.legPacket (d : Dev) (n o seq : Nat) (leg : Bool) (at16 : Nat) : Dev :=
  let c := d.cistern n
  let c := { ((c.add (if leg then 11 else 10) 1).legStamp leg d.absCc) with lastAt := some d.absCc }
  if cDual o then
    let c := c.pairStat seq leg at16
    if c.up leg then d.setCis n c
    else (d.setCis n ((c.setUp leg true).refSwitch d.absCc)).ev E.LEG_UP n (b2n leg)
  else d.setCis n c

/-! ### Anchoring, jumps and the estimator (R149, R157, R159) -/

/-- An arrival on leg A's scale (R157). -/
def CisRt.legA (c : CisRt) (ns : Frac) : Frac := if c.refLeg then ns.sub (fInt c.legOfs) else ns

/-- e of R157. -/
def Dev.cisE (d : Dev) (o : Nat) (c : CisRt) (seq ts : Nat) (ns : Frac) : Frac := (c.legA ns).sub (d.nsOf (d.cisPos o c seq ts ns))

/-- W_ns of R157. -/
def cisWns (o : Nat) : Int := roundEven (2 ^ cEstWin o * cTsPer o * 10 ^ 9 : Nat) (cRate o)

/-- RATIO after a window, and whether it was clamped (R157). -/
def cisRatio (ratio : Nat) (w corr : Int) : Nat × Bool :=
  let r := if w ≤ 0 then (ratio : Int) else roundEven ((ratio : Int) * (w - corr)) w.toNat
  let lo : Int := 2 ^ 40 - 2 ^ 31
  let hi : Int := 2 ^ 40 + 2 ^ 31
  ((clampInt lo hi r).toNat, decide (r < lo ∨ hi < r))

/-- A packet accepted from REF_LEG updates the estimator (R157). -/
def Dev.cisEstimate (d : Dev) (n o seq ts : Nat) (ns : Frac) : Dev :=
  let c := d.cistern n
  let e := d.cisE o c seq ts ns
  let wmin := match c.wmin with
    | none => e
    | some m => m.min e
  if c.k + 1 < 2 ^ cEstWin o then d.setCis n { c with k := c.k + 1, wmin := some wmin }
  else
    let acc := c.acc.add wmin
    let corr := (wmin.mul (mkFrac 1 (2 ^ cKp o))).floor + (acc.mul (mkFrac 1 (2 ^ cKi o))).floor
    let p := d.cisPos o c seq ts ns
    let (r, lim) := cisRatio c.ratio (cisWns o) corr
    let d := d.setCis n { c with acc := acc, anchor := some ⟨ts, hold16 p⟩, ratio := r, k := 0, wmin := none }
    if lim then d.ev E.RATIO_LIMIT n else d

/-- The cistern anchors, for the first time or at a jump, on a packet's arrival; after a jump no earlier than the last packet before it ends. The
window begins anew with this packet (R149, R159, R642). -/
def Dev.cisAnchor (d : Dev) (n seq ts : Nat) (ns : Frac) : Dev :=
  let c := d.cistern n
  let p := d.posOf ns
  let p := match c.endPos with
    | none => p
    | some e => p.max e
  d.setCis n { c with anchor0 := c.anchor.map (fun a => (a, c.ratio)), jumpSeq := seq, anchor := some ⟨ts, hold16 p⟩, k := 0, wmin := none }

/-- A source jump (R159). -/
def Dev.cisJump (d : Dev) (n seq ts : Nat) (ns : Frac) : Dev :=
  let d := d.cisAnchor n seq ts ns
  let d := d.setCis n { ((d.cistern n).add kJumps 1) with jumped := true, jumpAt := some d.absCc }
  ((d.set R.CIS_STAT_JUMP 1).set R.CIS_LAST_IDX n).ev E.SRC_JUMP n (ts % 2 ^ 24)

/-- The tests of R159 on a packet from REF_LEG. -/
def Dev.cisJumps (d : Dev) (o : Nat) (c : CisRt) (seq ts : Nat) (ns : Frac) : Bool :=
  (match c.lastAcc with
    | none => false
    | some (q, t) => decide (cJumpTs o < (signedOf 32 (fieldOf 32 ((ts : Int) - (t + ((seq : Int) - q) * cTsPer o)))).natAbs)) ||
  (fInt (c.cur * 62500)).lt (d.cisE o c seq ts ns).abs

/-- The test of R160: the timestamp lies further than JUMP_TS from that of the arrival under the held anchor and RATIO. -/
def Dev.cisBackJumps (d : Dev) (o : Nat) (c : CisRt) (ts : Nat) (ns : Frac) : Bool :=
  match c.anchor with
  | none => false
  | some a =>
    let x := ((d.posOf ns).sub (mkFrac a.pos 65536)).div (cisStep o c.ratio)
    let f := x.sub (fInt (signedOf 32 (fieldOf 32 ((ts : Int) - a.ts))))
    let w := f.sub (fInt (((f.mul (mkFrac 1 (2 ^ 32))).add (mkFrac 1 2)).floor * 2 ^ 32))
    (fInt (cJumpTs o)).lt w.abs

/-- A packet from REF_LEG, as the estimator takes it (R157). -/
def CisRt.refers (c : CisRt) (o : Nat) (leg : Bool) : Bool := !cDual o || leg == c.refLeg

/-- A packet from REF_LEG, as the jump tests take it (R159): in the cycle in which REF_LEG goes down and switches, the leg that went down counts still
(R167). -/
def CisRt.tested (c : CisRt) (o now : Nat) (leg : Bool) : Bool := c.refers o leg || c.refSwAt == some now

/-- The clock side of an accepted packet: first anchoring, jump or estimator (R149, R157, R159). `back` says that the return test of R160 has been
made on it, and whether it found a jump. The answer says whether it jumped. -/
def Dev.cisClock (d : Dev) (n o seq ts : Nat) (leg : Bool) (back : Option Bool) (ns : Frac) : Dev × Bool :=
  let c := d.cistern n
  let est := fun (d : Dev) => if c.refers o leg then d.cisEstimate n o seq ts ns else d
  if cLocked o then (d, false)
  else if c.anchor.isNone then (est (d.cisAnchor n seq ts ns), false)
  else match back with
    | some j => (est d, j)
    | none =>
      if c.tested o d.absCc leg && d.cisJumps o c seq ts ns then (est (d.cisJump n seq ts ns), true)
      else (est d, false)

/-- A packet time in strokes, rounded up. -/
def cisPktStrokes (o : Nat) : Nat := ceilDiv (cTsPer o * 8000) (cRate o)

/-- The adaptive step at an accepted packet whose marker bit is set (R164; log entry 19). -/
def Dev.cisAdapt (d : Dev) (n o seq ts : Nat) (ns : Frac) : Dev :=
  let c := d.cistern n
  match c.endPos with
  | none => d
  | some e =>
    let fin := e.floor + c.cur
    let p := (d.cisPos o c seq ts ns).floor
    if c.ring.isEmpty && decide (fin ≤ d.org.num ∧ fin + cisPktStrokes o ≤ p + c.cur) then
      let t := clampNat (cDelayMin o) (cDelayMax o) (ceilDiv (4 * c.jitter.toNat * 8000) (cRate o) + cisPktStrokes o)
      let new := if t < c.cur then max t (min c.cur (fin - p).toNat) else t
      d.setCis n { c with cur := new }
    else d

/-! ### Acceptance (R151, R152, R155) -/

/-- The slot of an extended sequence number, which is kept with 65,536 added. -/
def CisRt.slot (c : CisRt) (seq : Nat) : Nat := (((seq : Int) - 65536) % (max 1 c.slots : Nat)).toNat

/-- The packet held with this sequence number. -/
def CisRt.held (c : CisRt) (seq : Nat) : Option CisPkt := (kvGet (c.slot seq) c.ring).bind (fun p => if p.seq = seq then some p else none)

/-- The media descriptor word of R152. -/
def mediaWord (ts seq bytes pt : Nat) (mk leg : Bool) : Nat :=
  ts % 2 ^ 32 + seq % 65536 * 2 ^ 32 + bytes % 4096 * 2 ^ 48 + pt % 128 * 2 ^ 60 + b2n mk * 2 ^ 67 + b2n leg * 2 ^ 68

/-- What reaches step 6 of R139: a packet's sequence number, timestamp, payload type, marker bit, leg, payload and arrival. -/
structure RtpIn where
  seq : Nat
  ts : Nat
  pt : Nat
  mark : Bool
  leg : Bool
  payload : List Byte
  stamp : Stamp
  deriving DecidableEq, Repr

/-- The packet is written to its slot and counted ACCEPTED; a packet of another number that the slot still holds counts DISCARD (log entry 20). -/
def Dev.cisWrite (d : Dev) (n o ext : Nat) (x : RtpIn) : Dev :=
  let c := d.cistern n
  let pos := d.cisPos o c ext x.ts (stampNs x.stamp)
  let step := cisStep o c.ratio
  let body := packBytes x.payload
  let it := mkItem 0 n ((mediaWord x.ts x.seq x.payload.length x.pt x.mark x.leg :: body).map (fun v => mkW v false false false false))
  let p : CisPkt := { seq := ext, ts := x.ts, words := body.length + 1, frames := x.payload.length / max 1 (cChannels o * cBytes o), leg := x.leg,
                      pos := pos, step := step, stroke := d.org.num, cc := d.org.cc }
  let fin := pos.add (step.mul (fInt (cTsPer o)))
  let c := if (kvGet (c.slot ext) c.ring).isSome then c.add kDiscard 1 else c
  let c := { (c.add kAccepted 1) with
    ring := kvSet (c.slot ext) p c.ring
    lastAcc := some (ext, x.ts)
    endPos := some (match c.endPos with
      | none => fin
      | some e => fin.max e) }
  (d.setCis n c).resWriteN (cBase o + c.slot ext * cSlotWords o) it

/-- A copy of a packet already held counts DUP; leg A's copy replaces leg B's of the same cycle (R155), and meets neither the jump tests nor the estimator, whichever
leg REF_LEG names (log entry 137). -/
def Dev.cisDup (d : Dev) (n o ext : Nat) (x : RtpIn) (p : CisPkt) : Dev :=
  let c := (d.cistern n).add kDup 1
  if cDual o && p.leg && !x.leg && p.stroke == d.org.num && p.cc == d.org.cc then
    let body := packBytes x.payload
    let it := mkItem 0 n ((mediaWord x.ts x.seq x.payload.length x.pt x.mark x.leg :: body).map (fun v => mkW v false false false false))
    let c := { c with ring := kvSet (c.slot ext) { p with leg := false, words := body.length + 1 } c.ring }
    (d.setCis n c).resWriteN (cBase o + c.slot ext * cSlotWords o) it
  else d.setCis n c

/-- The packet is accepted (R151): its clock side, the adaptive step, and its slot. -/
def Dev.cisTake (d : Dev) (n o ext : Nat) (x : RtpIn) (back : Option Bool) : Dev :=
  let (d, jumped) := d.cisClock n o ext x.ts x.leg back (stampNs x.stamp)
  let d := if cAdapt o && !cSample o && x.mark && !jumped then d.cisAdapt n o ext x.ts (stampNs x.stamp) else d
  d.cisWrite n o ext x

/-- The packet's frames have been concealed in part: it comes too late, also in cycle 0 of its playout stroke (R150, R167; log entry 111). -/
def CisRt.begun (c : CisRt) (ext : Nat) : Bool := c.next == some ext && decide (0 < c.frame) && (c.held ext).isNone

/-- The outcomes of R151, in their order. -/
def Dev.cisAccept (d : Dev) (n o ext : Nat) (x : RtpIn) (back : Option Bool) : Dev :=
  let c := d.cistern n
  let low := decide (ext + (cReorder o - 1) < c.high.getD ext)
  let below := match c.next with
    | some q => decide (ext < q)
    | none => false
  if c.st = 0 then d.setCis n (c.add kLate 1)
  else if c.st = 1 && below && !low &&
      decide ((d.org.num : Int) < (d.cisPos o c ext x.ts (stampNs x.stamp)).floor + c.cur) then
    (d.setCis n { c with next := some ext }).cisTake n o ext x back
  else if below || low || c.begun ext then (d.setCis n (c.add kLate 1)).evOnce E.CIS_LATE 0 n
  else match c.held ext with
    | some p => d.cisDup n o ext x p
    | none =>
      if c.slots ≤ ext - c.next.getD ext then (d.setCis n (c.add kOverflow 1)).evOnce E.CIS_OVERFLOW 0 n
      else (d.setCis n { c with next := some (c.next.getD ext) }).cisTake n o ext x back

/-- The first packet after GONE: STATE becomes PLAYING, and in FREE mode the return test finds the old anchor good or the packet a source jump, whatever
becomes of the packet by R151 (R160). -/
def Dev.cisReturn (d : Dev) (n o ext : Nat) (x : RtpIn) : Dev :=
  let d := (d.setCis n { d.cistern n with st := 2 }).ev E.SRC_BACK n
  let j := !cLocked o && d.cisBackJumps o (d.cistern n) x.ts (stampNs x.stamp)
  (if j then d.cisJump n ext x.ts (stampNs x.stamp) else d).cisAccept n o ext x (some j)

/-- A packet reaches cistern `n` (R140, R151, R156, R160). -/
def Dev.cisPacket (d : Dev) (n o : Nat) (x : RtpIn) : Dev :=
  let (ext, c) := (d.cistern n).seqStat x.seq
  let c := (c.jitterStat o x.ts (stampNs x.stamp)).add kRxTotal 1
  let d := (d.setCis n c).legPacket n o ext x.leg (stampSub16 x.stamp)
  if (d.cistern n).st = 3 then d.cisReturn n o ext x else d.cisAccept n o ext x none

/-! ### The release pass (R150, R152 to R154) -/

/-- The expected timestamp of a missing packet (R153): from the packet released last, else from the first packet held. -/
def CisRt.expectTs (c : CisRt) (o seq : Nat) : Option Nat :=
  match c.lastRel with
  | some (q, t) => some (fieldOf 32 ((t : Int) + ((seq : Int) - q) * cTsPer o))
  | none => c.lastAcc.map (fun x => fieldOf 32 ((x.2 : Int) + ((seq : Int) - x.1) * cTsPer o))

/-- The packet at NEXT_SEQ: the packet where its slot holds it, its timestamp, the position of its first sample, and the step of a sample. -/
def Dev.cisDue (d : Dev) (o : Nat) (c : CisRt) : Option (Option CisPkt × Nat × Frac × Frac) :=
  match c.next with
  | none => none
  | some q => match c.held q with
    | some p => some (some p, p.ts, p.pos, p.step)
    | none => (c.expectTs o q).map (fun t => (none, t, d.cisPos o c q t (mkFrac d.now48 (2 ^ 48)), cisStep o c.ratio))

/-- Concealment is still within CONCEAL_MAX strokes at stroke `s`. -/
def CisRt.conceals (c : CisRt) (o s : Nat) : Bool := match c.lossRun with
  | none => decide (0 < cConcealMax o)
  | some r => decide (s < r + cConcealMax o)

/-- NEXT_SEQ moves past the packet at it. -/
def CisRt.pass (c : CisRt) : CisRt := { c with next := c.next.map (· + 1), frame := 0 }

/-- The packet at NEXT_SEQ has been released: its slot is free and RELEASED counts it. -/
def CisRt.release (c : CisRt) (p : CisPkt) : CisRt :=
  { (c.add kReleased 1).pass with ring := kvDel (c.slot p.seq) c.ring, lastRel := some (p.seq, p.ts), lossRun := none }

/-- Loss runs from stroke `s` on; CIS_LOSS fires where it begins with a concealment (R153). -/
def Dev.cisLoss (d : Dev) (n s : Nat) (conceal : Bool) : Dev :=
  let c := d.cistern n
  if c.lossRun.isSome then d
  else
    let d := d.setCis n { c with lossRun := some s }
    if conceal then d.ev E.CIS_LOSS n else d

/-- One packet time of FRAME mode at stroke `s`, and whether another may follow. -/
def Dev.cisFrameOne (d : Dev) (n o s : Nat) : Dev × Bool :=
  let c := d.cistern n
  match d.cisDue o c with
  | none => (d, false)
  | some (held, ts, pos, _) =>
    if (s : Int) < pos.floor + c.cur then (d, false)
    else match held with
      | some p =>
        let (ws, d) := d.resReadN (cBase o + c.slot p.seq * cSlotWords o) (p.words + 1)
        let c := { c.release p with lastPt := bits (wData (ws.getD 1 0)) 60 7 }
        ((d.setCis n c).qPush (cOutQ o) ws, true)
      | none =>
        if c.conceals o s then
          let d := d.cisLoss n s true
          let c := d.cistern n
          let it := mkItem (2 ^ (rConceal - 48)) n [mkW (mediaWord ts (c.next.getD 0) 0 c.lastPt false false) false false false false]
          ((d.setCis n (c.add kConcealed 1).pass).qPush (cOutQ o) it, true)
        else (d.setCis n c.pass, true)

/-- The packet times of FRAME mode that fall due at stroke `s`. -/
def Dev.cisFrames (n o s : Nat) : Nat → Dev → Dev
  | 0, d => d
  | k + 1, d => match d.cisFrameOne n o s with
    | (d, true) => Dev.cisFrames n o s k d
    | (d, false) => d

/-- The words of sample frame `i` of a held packet (R154): each lane a channel, POISON where a word of it is poisoned. -/
def Dev.cisSample (d : Dev) (n o i : Nat) (p : CisPkt) : List MWord × Dev :=
  let ch := cChannels o
  let b := cBytes o
  let lo := i * ch * b
  let a := cBase o + (d.cistern n).slot p.seq * cSlotWords o + 2 + lo / 9
  let (ws, d) := d.resReadN a ((lo + ch * b + 8) / 9 - lo / 9)
  let bytes := (wordBytes (ws.map wData)).drop (lo % 9)
  let lane := fun k => if k < ch then beNat ((bytes.drop (k * b)).take b) * (if b = 2 then 256 else 1) else 0
  let poison := ws.any wPoison
  ((List.range (ceilDiv ch 3)).map (fun w => mkW (packLanes (lane (3 * w)) (lane (3 * w + 1)) (lane (3 * w + 2))) false false false poison), d)

/-- The sample frames of stroke `s` in RTP order, at most `k` more: words so far, the first frame's timestamp and position, the count, and whether a
frame is real and whether one is concealed. With `all` missing frames are concealed also past CONCEAL_MAX. -/
def Dev.cisSamples (n o s : Nat) (all : Bool) : Nat → Dev → List MWord → Option (Nat × Nat) → Nat → Bool → Bool → Dev × List MWord × Option (Nat × Nat) × Nat × Bool × Bool
  | 0, d, ws, hd, cnt, real, conc => (d, ws, hd, cnt, real, conc)
  | k + 1, d, ws, hd, cnt, real, conc =>
    let c := d.cistern n
    match d.cisDue o c with
    | none => (d, ws, hd, cnt, real, conc)
    | some (held, ts, pos, step) =>
      let p := pos.add (step.mul (fInt c.frame))
      if (s : Int) < p.floor + c.cur then (d, ws, hd, cnt, real, conc)
      else
        let hd' := hd.getD ((ts + c.frame) % 2 ^ 32, ((p.sub (fInt p.floor)).mul (fInt 65536)).floor.toNat)
        match held with
        | some pk =>
          let (fw, d) := if c.frame < pk.frames then d.cisSample n o c.frame pk else ([], d)
          let c := { d.cistern n with lossRun := none }
          let c := if c.frame + 1 < pk.frames then { c with frame := c.frame + 1 } else c.release pk
          let one := if fw.isEmpty then 0 else 1
          Dev.cisSamples n o s all k (d.setCis n c) (ws ++ fw) (some hd') (cnt + one) true conc
        | none =>
          let send := all || c.conceals o s
          let d := d.cisLoss n s send
          let c := d.cistern n
          let c := if send && c.frame == 0 then c.add kConcealed 1 else c
          let c := if c.frame + 1 < cTsPer o then { c with frame := c.frame + 1 } else c.pass
          let zero := List.replicate (ceilDiv (cChannels o) 3) (mkW 0 false false true false)
          Dev.cisSamples n o s all k (d.setCis n c) (if send then ws ++ zero else ws) (if send then some hd' else hd) (cnt + b2n send) real (conc || send)

/-- Loss has not run for CONCEAL_MAX strokes at stroke `s` (R154). -/
def CisRt.sends (c : CisRt) (o s : Nat) : Bool := match c.lossRun with
  | none => true
  | some r => decide (s < r + cConcealMax o)

/-- The item of SAMPLE mode for stroke `s` (R154): none in the strokes that an increased delay passes over (R163), nor after CONCEAL_MAX strokes of loss. In a
stroke with a real frame every missing one is a marked zero. Where
no frame falls in the stroke the item has COUNT 0, and its first frame's timestamp and position are free values (log entry 1). -/
def Dev.cisSamplePass (d : Dev) (n o s : Nat) : Dev :=
  if s < (d.cistern n).quiet then d
  else
  let (_, _, _, _, some', _) := Dev.cisSamples n o s false 13 d [] none 0 false false
  let (d, ws, hd, cnt, real, conc) := Dev.cisSamples n o s some' 13 d [] none 0 false false
  let c := d.cistern n
  if real || conc || c.sends o s then
    let (w1, d) := match hd with
      | some (t, f) => (t + f * 2 ^ 32, d)
      | none => d.takeFree 48
    let w1 := w1 + cnt * 2 ^ 48 + cChannels o * 2 ^ 52
    d.qPush (cOutQ o) (mkItem (if conc then 2 ^ (rConceal - 48) else 0) n (mkW w1 false false false false :: ws))
  else d

/-- STATE becomes PLAYING at the playout stroke of NEXT_SEQ (R149). -/
def Dev.cisStartPlay (d : Dev) (n o s : Nat) : Dev :=
  let c := d.cistern n
  if c.st = 1 then match d.cisDue o c with
    | some (_, _, pos, _) => if pos.floor + c.cur ≤ s then (d.setCis n { c with st := 2 }).ev E.CIS_PLAY_START n else d
    | none => d
  else d

/-- The publication of RATIO at a boundary, with the anchor as it stands before a FLUSH or STOP of that boundary drops it (R158). What was published stands while
the cistern has no anchor, so that the positions of its lanes move on and their histories age out (R216). -/
def Dev.cisPublish (d : Dev) (n : Nat) : Dev :=
  let c := d.cistern n
  let c := if c.anchor.isSome then { c with pub := c.ratio, pubAnchor := c.anchor } else c
  d.setCis n { c with pubOfs := c.tsOfs, pubJump := c.jumped, jumped := false }

/-- The release pass of cistern `n` for the stroke that begins (R150). -/
def Dev.cisRelease (d : Dev) (n o : Nat) : Dev :=
  let s := d.org.num
  let d := d.cisStartPlay n o s
  let c := d.cistern n
  if c.st = 2 || c.st = 3 then
    if cSample o then d.cisSamplePass n o s else Dev.cisFrames n o s 65536 d
  else d

/-! ### Boundary commands (R161 to R163, R167) -/

/-- The held packets count FLUSHED and the cistern is in state `st`; RATIO and acc stay (R161, R643). -/
def Dev.cisEmpty (d : Dev) (n : Nat) (st : BitVec 2) : Dev :=
  let c := d.cistern n
  let c := { (c.add kFlushed c.ring.length) with
    ring := [], st := st, flushPend := false, stopPend := false, next := none, anchor := none, anchor0 := none, jumpSeq := 0,
    lastAcc := none, endPos := none, lastRel := none, lossRun := none, frame := 0, quiet := 0 }
  d.setCis n c

/-- A FLUSH or STOP applies (R161, R180). -/
def Dev.cisFlushNow (d : Dev) (n : Nat) (st : BitVec 2) : Dev := (d.cisEmpty n st).ev E.CIS_FLUSH_DONE n

/-- A resize keeps the newest packets that fit (R162). -/
def Dev.cisResizeNow (d : Dev) (n o slots : Nat) : Dev :=
  let c := d.cistern n
  let top := c.ring.foldl (fun m x => max m x.2.seq) 0
  let keep := c.ring.filter (fun x => decide (top < x.2.seq + slots))
  let (img, d) := keep.foldl (fun (y : List (CisPkt × List MWord) × Dev) x =>
    let (ws, d) := y.2.resReadN (cBase o + x.1 * cSlotWords o) (x.2.words + 1)
    (y.1 ++ [(x.2, ws)], d)) ([], d)
  let c' := { (c.add kDiscard (c.ring.length - keep.length)) with slots := slots, resizePend := none, ring := [] }
  let c' := { c' with ring := img.foldl (fun r x => kvSet (c'.slot x.1.seq) x.1 r) [] }
  let d := d.each img (fun d x => d.resWriteN (cBase o + c'.slot x.1.seq * cSlotWords o) x.2)
  (d.setCis n c').ev E.CIS_RESIZE_DONE n

/-- At a decrease, the packets at NEXT_SEQ whose playout ends before stroke `s` are discarded; of a packet partly skipped in SAMPLE mode the frames
before stroke `s` are passed over (R163). -/
def Dev.cisSkip (n o s : Nat) : Nat → Dev → Dev
  | 0, d => d
  | k + 1, d =>
    let c := d.cistern n
    match d.cisDue o c with
    | none => d
    | some (held, _, pos, step) =>
      let units : Nat := match held with
        | some p => if cSample o then p.frames else cTsPer o
        | none => cTsPer o
      let last := pos.add (step.mul (fInt ((units : Int) - 1)))
      if last.floor + c.cur < s then
        let c := match held with
          | some p => { (c.add kDiscard 1) with ring := kvDel (c.slot p.seq) c.ring }
          | none => c
        Dev.cisSkip n o s k (d.setCis n c.pass)
      else if cSample o && decide (pos.floor + c.cur < s) then
        let gone := ((List.range units).filter (fun (i : Nat) => decide ((pos.add (step.mul (fInt i))).floor + c.cur < s))).length
        d.setCis n { c with frame := max c.frame gone }
      else d

/-- A delay change at the boundary that begins a stroke (R163). -/
def Dev.cisDelayNow (d : Dev) (n o delay : Nat) : Dev :=
  let c := d.cistern n
  let quiet := if delay ≤ c.cur then c.quiet - (c.cur - delay) else max c.quiet d.org.num + (delay - c.cur)
  let d' := d.setCis n { c with delay := delay, cur := delay, delayPend := none, quiet := if c.st = 2 || c.st = 3 then quiet else 0 }
  if delay < c.cur && c.st != 0 then Dev.cisSkip n o d.org.num 65536 d' else d'

/-- A pending STOP or FLUSH applies; STOP applies alone (R167). -/
def Dev.cisApplyFlush (d : Dev) (n : Nat) : Dev :=
  let c := d.cistern n
  if c.stopPend then (d.setCis n { c with resizePend := none, delayPend := none }).cisFlushNow n 0
  else if c.flushPend then d.cisFlushNow n 1
  else d

/-- A pending resize and then a pending delay change apply (R167). -/
def Dev.cisApplyRest (d : Dev) (n o : Nat) : Dev :=
  let d := match (d.cistern n).resizePend with
    | some k => d.cisResizeNow n o k
    | none => d
  match (d.cistern n).delayPend with
  | some k => d.cisDelayNow n o k
  | none => d

/-- The cisterns at a stroke boundary. -/
def Dev.cisBoundary (d : Dev) : Dev :=
  if d.isolated .cis then d
  else d.each (d.bank.sec S.CISTERNS) (fun d x => (((d.cisPublish x.1).cisApplyFlush x.1).cisApplyRest x.1 x.2).cisRelease x.1 x.2)

/-- No packet for GONE_TIMEOUT strokes (R160). In the cycle in which the time expires a packet still counts, and GONE is not entered (R167). -/
def Dev.cisGone (d : Dev) (n : Nat) : Dev :=
  let c := d.cistern n
  let o := d.objD S.CISTERNS n
  if c.st = 2 && (match c.lastAt with
      | some a => decide (a + cGone o * 156250 < d.absCc)
      | none => false) && !d.isolated .cis then
    ((d.setCis n { c with st := 3 }).set R.CIS_LAST_IDX n).ev E.SRC_GONE n
  else d

/-- A leg delivers no packet for GONE_TIMEOUT strokes (R156). Where the leg's time is over in the very cycle in which its packet is found a jump, the jump applies
and the leg goes down (R167). -/
def Dev.cisLegDown (d : Dev) (n : Nat) (legB : Bool) : Dev :=
  let c := d.cistern n
  let o := d.objD S.CISTERNS n
  let passed := fun (a : Option Nat) => match a with
    | some a => decide (a + cGone o * 156250 ≤ d.absCc)
    | none => true
  let at' := if legB then c.legAt.2 else c.legAt.1
  let prev := if legB then c.legPrev.2 else c.legPrev.1
  let jumping := at' == some d.absCc && c.jumpAt == some d.absCc && legB == c.refLeg && passed prev
  if cDual o && c.up legB && (passed at' || jumping) && !d.isolated .cis then
    (d.setCis n ((c.setUp legB false).refSwitch d.absCc)).ev E.LEG_DOWN n (b2n legB)
  else d

/-! ### The descriptor and the commands (R146, R161, R166) -/

/-- The image bits of a cistern that are fields: its Reserved bits read zero (R9, R146). -/
def cisImage (o : Nat) : Nat := setBits (setBits (bits o 0 274) 6 2 0) 103 1 0

/-- The 512 bits of a cistern descriptor as it stands. -/
def Dev.cisDesc (d : Dev) (n : Nat) : Nat :=
  let c := d.cistern n
  let o := cisImage (d.objD S.CISTERNS n)
  let o := setBits (setBits (setBits (setBits o 16 32 c.pts.toNat) 64 13 c.delay) 128 14 c.slots) 242 32 c.tsOfs.toNat
  let a := c.anchor.getD {}
  o + c.st.toNat * 2 ^ 320 + b2n c.refLeg * 2 ^ 322 + b2n c.legUp.1 * 2 ^ 323 + b2n c.legUp.2 * 2 ^ 324 +
    b2n c.resizePend.isSome * 2 ^ 325 + b2n (c.flushPend || c.stopPend) * 2 ^ 326 + b2n (decide (16 ≤ c.ofsPairs)) * 2 ^ 327 +
    c.ratio % 2 ^ 48 * 2 ^ 328 + c.next.getD 0 % 65536 * 2 ^ 376 + a.ts % 2 ^ 32 * 2 ^ 392 + fieldOf 32 (a.pos / 65536) * 2 ^ 424 +
    c.cur % 2 ^ 13 * 2 ^ 456 + fieldOf 24 c.legOfs * 2 ^ 472 + fieldOf 16 a.pos * 2 ^ 496

/-- The sixteen words of STATS (R166). -/
def CisRt.stats (c : CisRt) : List Nat :=
  [c.c 0, c.c 1, c.c 2, c.c 3, c.ring.length, c.c 4, c.c 5, c.c 6, c.c 7, c.c 8, c.c 9, c.base - 65536, c.high.getD 65536 - 65536,
   fieldOf 32 c.jitter, c.c 10, c.c 11]

/-- CIS_CMD OP 1 to 10 on the cistern in CIS_IDX (R161, R178). -/
def Dev.cisCmd (d : Dev) (req : Requester) (op : Nat) : Dev :=
  d.command C.cis req (if op = 1 ∨ op = 2 then .none else .oper) (fun d =>
    let n := d.get R.CIS_IDX_IDX
    let a := d.get R.CIS_ARG_ARG
    let o := d.objD S.CISTERNS n
    let c := d.cistern n
    if op < 1 ∨ 10 < op then .error 2
    else if (d.obj S.CISTERNS n).isNone then .error 1
    else if op = 1 then .ok (d.setWords R.CIS_DATA_D 16 (d.cisDesc n))
    else if op = 2 then .ok (d.each c.stats.zipIdx (fun d x => d.set (R.CIS_DATA_D x.2) x.1))
    else if d.isolated .cis then .error 2
    else if op = 3 then .ok (d.setCis n { c with flushPend := true })
    else if op = 4 then (if 1 ≤ a ∧ a ≤ cSlotsMax o then .ok (d.setCis n { c with resizePend := some a }) else .error 2)
    else if op = 5 then
      if 1 ≤ a ∧ a ≤ 8000 ∧ (!cAdapt o ∨ (cDelayMin o ≤ a ∧ a ≤ cDelayMax o)) then .ok (d.setCis n { c with delayPend := some a }) else .error 2
    else if op = 6 then (if c.st = 0 then .ok (d.setCis n { c with st := 1 }) else .error 2)
    else if op = 7 then .ok (d.setCis n { c with stopPend := true })
    else if op = 8 then .ok (d.setCis n { c with pts := BitVec.ofNat 32 a })
    else if op = 9 then .ok (d.setCis n { c with tsOfs := BitVec.ofNat 32 a })
    else .ok (d.setCis n { c with refLeg := bit a 0 }))

/-- GONE_TIMEOUT of a cistern expires (R160). -/
def execCisGoneTimeout (w : When) (c : Nat) (s : State) : Out := s.runMain w (·.cisGone c)

/-- GONE_TIMEOUT of a leg expires (R156). -/
def execLegTimeout (w : When) (c : Nat) (legB : Bool) (s : State) : Out := s.runMain w (·.cisLegDown c legB)

/-- CIS_CMD READ (R161). -/
def execCisRead (w : When) (req : Requester) (s : State) : Out := s.runReq w req (·.cisCmd req 1)

/-- CIS_CMD STATS (R166). -/
def execCisStats (w : When) (req : Requester) (s : State) : Out := s.runReq w req (·.cisCmd req 2)

/-- CIS_CMD FLUSH (R161). -/
def execCisFlush (w : When) (req : Requester) (s : State) : Out := s.runReq w req (·.cisCmd req 3)

/-- CIS_CMD RESIZE (R162). -/
def execCisResize (w : When) (req : Requester) (s : State) : Out := s.runReq w req (·.cisCmd req 4)

/-- CIS_CMD SET_DELAY (R163). -/
def execSetDelay (w : When) (req : Requester) (s : State) : Out := s.runReq w req (·.cisCmd req 5)

/-- CIS_CMD START (R161). -/
def execCisStart (w : When) (req : Requester) (s : State) : Out := s.runReq w req (·.cisCmd req 6)

/-- CIS_CMD STOP (R161). -/
def execCisStop (w : When) (req : Requester) (s : State) : Out := s.runReq w req (·.cisCmd req 7)

/-- CIS_CMD SET_PT (R161). -/
def execSetPt (w : When) (req : Requester) (s : State) : Out := s.runReq w req (·.cisCmd req 8)

/-- CIS_CMD SET_OFFSET (R161). -/
def execSetOffset (w : When) (req : Requester) (s : State) : Out := s.runReq w req (·.cisCmd req 9)

/-- CIS_CMD SET_REF (R161). -/
def execSetRef (w : When) (req : Requester) (s : State) : Out := s.runReq w req (·.cisCmd req 10)

end Sys2Proof.Machine
end

