-- ==== Sys2Proof/Machine/Crypto.lean ====
section
/-! DEFINITION. The algorithms that the spec takes whole from other standards: SHA-384 and SHA-1 (FIPS 180-4), HMAC (RFC 2104), AES (FIPS 197), GCM
(SP 800-38D), and the verification of ECDSA signatures over brainpoolP384r1 (RFC 5639). Log entry 17. -/

namespace Sys2Proof.Machine

/-! ### SHA-384 (R484, R574) -/

/-- `x` rotated right by `n` within `w` bits. -/
def rotr (w x n : Nat) : Nat := x / 2 ^ n + x % 2 ^ n * 2 ^ (w - n)

/-- The 80 constants of SHA-512, 64 bits each, the first lowest. -/
def sha512K : Nat := 0x6C44198C4A4758175FCB6FAB3AD6FAEC597F299CFC657E2A4CC5D4BECB3E42B6431D67C49C100D4C3C9EBE0A15C9BEBC32CAAB7B40C7249328DB77F523047D841B710B35131C471B113F9804BEF90DAE0A637DC5A2C898A606F067AA72176FBAF57D4F7FEE6ED178EADA7DD6CDE0EB1ED186B8C721C0C207CA273ECEEA26619CC67178F2E372532BBEF9A3F7B2C67915A4506CEBDE82BDE990BEFFFA23631E288CC702081A6439EC84C87814A1F0AB7278A5636F43172F60748F82EE5DEFB2FC682E6FF3D6B2B8A35B9CCA4F7763E3734ED8AA4AE3418ACB391C0CB3C5C95A6334B0BCB5E19B48A82748774CDF8EEB991E376C085141AB5319A4C116B8D2D0C8106AA07032BBD1B8F40E35855771202AD69906245565A910D192E819D6EF5218C76C51A30654BE30C24B8B70D0F89791A81A664BBC423001A2BFE8A14CF1036492722C851482353B81C2C92E47EDAEE6766A0ABB3C77B2A8650A73548BAF63DE53380D139D95B3DF4D2C6DFC5AC42AED2E1B21385C26C92627B70A8546D22FFC142929670A0E6E7006CA6351E003826FD5A79147930AA725C6E00BF33DA88FC2BF597FC7BEEF0EE4B00327C898FB213FA831C66D2DB43210983E5152EE66DFAB76F988DA831153B55CB0A9DCBD41FBD44A7484AA6EA6E4832DE92C6F592B0275240CA1CC77AC9C650FC19DC68B8CD5B5EFBE4786384F25E3E49B69C19EF14AD2C19BF174CF6926949BDC06A725C7123580DEB1FE3B1696B172BE5D74F27B896F550C7DC3D5FFB4E2243185BE4EE4B28C12835B0145706FBED807AA98A3030242AB1C5ED5DA6D8118923F82A4AF194F9B59F111F1B605D0193956C25BF348B538E9B5DBA58189DBBCB5C0FBCFEC4D3B2F7137449123EF65CD428A2F98D728AE22

/-- The initial value of SHA-384, eight words, the first lowest. -/
def sha384Init : Nat := 0x47B5481DBEFA4FA4DB0C2E0D64F98FA78EB44A876858151167332667FFC00B31152FECD8F70E59399159015A3070DD17629A292A367CD507CBBB9D5DC1059ED8

/-- Sum modulo 2^64. -/
def add64 (a b : Nat) : Nat := (a + b) % 2 ^ 64

/-- The message schedule of SHA-512: `n` more words behind the last sixteen, which `l` holds newest first. -/
def sha512Sched : Nat → List Nat → List Nat
  | 0, l => l
  | n + 1, l =>
    let a := l.getD 14 0
    let b := l.getD 1 0
    let s0 := rotr 64 a 1 ^^^ rotr 64 a 8 ^^^ (a / 2 ^ 7)
    let s1 := rotr 64 b 19 ^^^ rotr 64 b 61 ^^^ (b / 2 ^ 6)
    sha512Sched n ((l.getD 15 0 + s0 + l.getD 6 0 + s1) % 2 ^ 64 :: l)

/-- One round of SHA-512 on its eight working words. -/
def sha512Round (v : List Nat) (k w : Nat) : List Nat :=
  match v with
  | [a, b, c, d, e, f, g, h] =>
    let s1 := rotr 64 e 14 ^^^ rotr 64 e 18 ^^^ rotr 64 e 41
    let ch := (e &&& f) ^^^ ((2 ^ 64 - 1 - e) &&& g)
    let t1 := h + s1 + ch + k + w
    let s0 := rotr 64 a 28 ^^^ rotr 64 a 34 ^^^ rotr 64 a 39
    let mj := (a &&& b) ^^^ (a &&& c) ^^^ (b &&& c)
    [(t1 + s0 + mj) % 2 ^ 64, a, b, c, (d + t1) % 2 ^ 64, e, f, g]
  | _ => v

/-- The compression of one block of 128 bytes, given as sixteen words. -/
def sha512Block (v : List Nat) (ws : List Nat) : List Nat :=
  let sched := (sha512Sched 64 ws.reverse).reverse
  let out := sched.zipIdx.foldl (fun v x => sha512Round v (bits sha512K (64 * x.2) 64) x.1) v
  (v.zip out).map (fun x => add64 x.1 x.2)

/-- Words of `k` bytes each, big-endian, from a list of bytes. -/
def beWords (k : Nat) : Nat → List Byte → List Nat
  | 0, _ => []
  | n + 1, l => beNat (l.take k) :: beWords k n (l.drop k)

/-- A message padded by FIPS 180-4 for blocks of `b` bytes with a length field of `f` bytes. -/
def shaPad (b f : Nat) (m : List Byte) : List Byte :=
  let n := m.length
  let z := (b - (n + 1 + f) % b) % b
  m ++ 0x80 :: List.replicate z 0 ++ beBytes f (8 * n)

/-- The blocks of a padded message of `k` words of `s` bytes each. -/
def shaBlocks (k s : Nat) : Nat → List Byte → List (List Nat)
  | 0, _ => []
  | n + 1, l => beWords s k (l.take (k * s)) :: shaBlocks k s n (l.drop (k * s))

/-- SHA-384. -/
def sha384 (m : List Byte) : BitVec 384 :=
  let p := shaPad 128 16 m
  let v0 := (List.range 8).map (fun i => bits sha384Init (64 * i) 64)
  let v := (shaBlocks 16 8 (p.length / 128) p).foldl sha512Block v0
  BitVec.ofNat 384 ((v.take 6).foldl (fun x w => x * 2 ^ 64 + w) 0)

/-! ### SHA-1 and HMAC-SHA1 (R141) -/

/-- The message schedule of SHA-1, newest first. -/
def sha1Sched : Nat → List Nat → List Nat
  | 0, l => l
  | n + 1, l => sha1Sched n (rotr 32 (l.getD 2 0 ^^^ l.getD 7 0 ^^^ l.getD 13 0 ^^^ l.getD 15 0) 31 :: l)

/-- Round `t` of SHA-1. -/
def sha1Round (v : List Nat) (t w : Nat) : List Nat :=
  match v with
  | [a, b, c, d, e] =>
    let (f, k) :=
      if t < 20 then ((b &&& c) ||| ((2 ^ 32 - 1 - b) &&& d), 0x5A827999)
      else if t < 40 then (b ^^^ c ^^^ d, 0x6ED9EBA1)
      else if t < 60 then ((b &&& c) ||| (b &&& d) ||| (c &&& d), 0x8F1BBCDC)
      else (b ^^^ c ^^^ d, 0xCA62C1D6)
    [(rotr 32 a 27 + f + e + k + w) % 2 ^ 32, a, rotr 32 b 2, c, d]
  | _ => v

/-- The compression of one block of 64 bytes. -/
def sha1Block (v : List Nat) (ws : List Nat) : List Nat :=
  let out := ((sha1Sched 64 ws.reverse).reverse).zipIdx.foldl (fun v x => sha1Round v x.2 x.1) v
  (v.zip out).map (fun x => (x.1 + x.2) % 2 ^ 32)

/-- SHA-1, as 20 bytes. -/
def sha1 (m : List Byte) : List Byte :=
  let p := shaPad 64 8 m
  let v := (shaBlocks 16 4 (p.length / 64) p).foldl sha1Block [0x67452301, 0xEFCDAB89, 0x98BADCFE, 0x10325476, 0xC3D2E1F0]
  v.flatMap (fun w => beBytes 4 w)

/-- HMAC-SHA1 under a key of at most 64 bytes. -/
def hmacSha1 (key m : List Byte) : List Byte :=
  let k := key ++ List.replicate (64 - key.length) 0
  sha1 (k.map (· ^^^ 0x5C) ++ sha1 (k.map (· ^^^ 0x36) ++ m))

/-! ### AES (R141) -/

/-- The S-box of FIPS 197, entry 0 in the lowest byte. -/
def aesSbox : Nat := 0x16BB54B00F2D99416842E6BF0D89A18CDF2855CEE9871E9B948ED9691198F8E19E1DC186B95735610EF6034866B53E708A8BBD4B1F74DDE8C6B4A61C2E2578BA08AE7A65EAF4566CA94ED58D6D37C8E779E4959162ACD3C25C2406490A3A32E0DB0B5EDE14B8EE4688902A22DC4F816073195D643D7EA7C41744975FEC130CCDD2F3FF1021DAB6BCF5389D928F40A351A89F3C507F02F94585334D43FBAAEFD0CF584C4A39BECB6A5BB1FC20ED00D153842FE329B3D63B52A05A6E1B1A2C830975B227EBE28012079A059618C323C7041531D871F1E5A534CCF73F362693FDB7C072A49CAFA2D4ADF04759FA7DC982CA76ABD7FE2B670130C56F6BF27B777C63

/-- An S-box entry. -/
def sbox (x : Byte) : Byte := BitVec.ofNat 8 (bits aesSbox (8 * x.toNat) 8)

/-- Multiplication by x in GF(2^8). -/
def xtime (x : Byte) : Byte := if bit x.toNat 7 then (x <<< 1) ^^^ 0x1B else x <<< 1

/-- A column of MixColumns. -/
def mixCol (a b c d : Byte) : List Byte :=
  [xtime a ^^^ xtime b ^^^ b ^^^ c ^^^ d, a ^^^ xtime b ^^^ xtime c ^^^ c ^^^ d,
   a ^^^ b ^^^ xtime c ^^^ xtime d ^^^ d, xtime a ^^^ a ^^^ b ^^^ c ^^^ xtime d]

/-- The byte-wise sum of two lists. -/
def xorBytes (a b : List Byte) : List Byte := a.zipWith (· ^^^ ·) b

/-- SubBytes and ShiftRows on the 16 bytes of a state, column by column. -/
def subShift (s : List Byte) : List Byte := (List.range 16).map (fun i => sbox (s.getD ((i + 4 * (i % 4)) % 16) 0))

/-- MixColumns. -/
def mixCols (s : List Byte) : List Byte :=
  (List.range 4).flatMap (fun c => mixCol (s.getD (4 * c) 0) (s.getD (4 * c + 1) 0) (s.getD (4 * c + 2) 0) (s.getD (4 * c + 3) 0))

/-- The key schedule: words of four bytes, newest first, `i` the number of the next, `nk` the words of the key. -/
def aesSched (nk : Nat) : Nat → Nat → Byte → List (List Byte) → List (List Byte)
  | 0, _, _, l => l
  | n + 1, i, rc, l =>
    let t := l.getD 0 []
    let back := l.getD (nk - 1) []
    if i % nk = 0 then
      let r := ((t.drop 1) ++ t.take 1).map sbox
      aesSched nk n (i + 1) (xtime rc) (xorBytes back (xorBytes r [rc, 0, 0, 0]) :: l)
    else if nk = 8 ∧ i % nk = 4 then aesSched nk n (i + 1) rc (xorBytes back (t.map sbox) :: l)
    else aesSched nk n (i + 1) rc (xorBytes back t :: l)

/-- The round keys, 16 bytes each. -/
def aesKeys (key : List Byte) : List (List Byte) :=
  let nk := key.length / 4
  let ws := (aesSched nk (4 * (nk + 7) - nk) nk 1 ((List.range nk).map (fun i => (key.drop (4 * i)).take 4)).reverse).reverse
  (List.range (nk + 7)).map (fun r => ((ws.drop (4 * r)).take 4).flatten)

/-- AES encryption of a block under its round keys. -/
def aesBlock (ks : List (List Byte)) (b : List Byte) : List Byte :=
  let n := ks.length
  let s := ((ks.take (n - 1)).drop 1).foldl (fun s k => xorBytes (mixCols (subShift s)) k) (xorBytes b (ks.getD 0 []))
  xorBytes (subShift s) (ks.getD (n - 1) [])

/-- `n` blocks of the key stream of counter mode from a 128-bit counter. -/
def ctrStream (ks : List (List Byte)) (ctr : Nat) : Nat → List Byte
  | 0 => []
  | n + 1 => aesBlock ks (beBytes 16 ctr) ++ ctrStream ks (ctr + 1) n

/-- Counter mode from counter `ctr`. -/
def aesCtr (key : List Byte) (ctr : Nat) (m : List Byte) : List Byte :=
  xorBytes m (ctrStream (aesKeys key) ctr (m.length / 16 + 1))

/-- Multiplication in the field of GHASH: `n` bits of `x` are left, from the first. -/
def ghashMul (x : Nat) : Nat → Nat → Nat → Nat
  | 0, _, z => z
  | n + 1, v, z =>
    let z := if bit x n then z ^^^ v else z
    ghashMul x n (if bit v 0 then (v / 2) ^^^ (0xE1 * 2 ^ 120) else v / 2) z

/-- GHASH over 16-byte blocks. -/
def ghash (h : Nat) : Nat → List Byte → Nat → Nat
  | 0, _, y => y
  | n + 1, l, y => ghash h n (l.drop 16) (ghashMul (y ^^^ beNat (l.take 16)) 128 h 0)

/-- Bytes padded with zeros to whole blocks. -/
def pad16 (l : List Byte) : List Byte := l ++ List.replicate ((16 - l.length % 16) % 16) 0

/-- The GCM tag of associated data and cipher text under a 96-bit IV. -/
def gcmTag (key iv aad c : List Byte) : List Byte :=
  let ks := aesKeys key
  let l := pad16 aad ++ pad16 c ++ beBytes 8 (8 * aad.length) ++ beBytes 8 (8 * c.length)
  let s := ghash (beNat (aesBlock ks (List.replicate 16 0))) (l.length / 16) l 0
  xorBytes (beBytes 16 s) (aesBlock ks (iv ++ [0, 0, 0, 1]))

/-- GCM's counter mode under a 96-bit IV. -/
def gcmCtr (key iv m : List Byte) : List Byte := aesCtr key (beNat iv * 2 ^ 32 + 2) m

/-! ### ECDSA over brainpoolP384r1 (R484, R581) -/

/-- The prime of the field. -/
def bpP : Nat := 0x8CB91E82A3386D280F5D6F7E50E641DF152F7109ED5456B412B1DA197FB71123ACD3A729901D1A71874700133107EC53

/-- The coefficient A of the curve. -/
def bpA : Nat := 0x7BC382C63D8C150C3C72080ACE05AFA0C2BEA28E4FB22787139165EFBA91F90F8AA5814A503AD4EB04A8C7DD22CE2826

/-- The coefficient B of the curve. -/
def bpB : Nat := 0x04A8C7DD22CE28268B39B55416F0447C2FB77DE107DCD2A62E880EA53EEB62D57CB4390295DBC9943AB78696FA504C11

/-- The base point. -/
def bpG : Nat × Nat :=
  (0x1D1C64F068CF45FFA2A63A81B7C13F6B8847A3E77EF14FE3DB7FCAFE0CBD10E8E826E03436D646AAEF87B2E247D4AF1E,
   0x8ABE1D7520F9C2A45CB1EB8E95CFD55262B70B29FEEC5864E19C054FF99129280E4646217791811142820341263C5315)

/-- The order of the base point. -/
def bpN : Nat := 0x8CB91E82A3386D280F5D6F7E50E641DF152F7109ED5456B31F166E6CAC0425A7CF3AB6AF6B7FC3103B883202E9046565

/-- `b ^ e` modulo `m`, over the lowest `n` bits of `e`. -/
def powMod (m : Nat) : Nat → Nat → Nat → Nat
  | 0, _, _ => 1
  | n + 1, b, e => (if e % 2 = 1 then b else 1) * powMod m n (b * b % m) (e / 2) % m

/-- A point in Jacobian coordinates; z is 0 at infinity. -/
structure JPoint where
  x : Nat
  y : Nat
  z : Nat
  deriving DecidableEq, Repr

/-- The difference modulo the prime. -/
def subP (a b : Nat) : Nat := (a + bpP - b % bpP) % bpP

/-- Doubling. -/
def JPoint.double (p : JPoint) : JPoint :=
  if p.z = 0 ∨ p.y = 0 then ⟨1, 1, 0⟩
  else
    let yy := p.y * p.y % bpP
    let s := 4 * p.x * yy % bpP
    let zz := p.z * p.z % bpP
    let m := (3 * p.x * p.x + bpA * (zz * zz % bpP)) % bpP
    let x := subP (m * m) (2 * s)
    ⟨x, subP (m * subP s x) (8 * (yy * yy % bpP)), 2 * p.y * p.z % bpP⟩

/-- The sum of two points. -/
def JPoint.add (p q : JPoint) : JPoint :=
  if p.z = 0 then q else if q.z = 0 then p
  else
    let zp := p.z * p.z % bpP
    let zq := q.z * q.z % bpP
    let u1 := p.x * zq % bpP
    let u2 := q.x * zp % bpP
    let s1 := p.y * zq % bpP * q.z % bpP
    let s2 := q.y * zp % bpP * p.z % bpP
    if u1 = u2 then (if s1 = s2 then p.double else ⟨1, 1, 0⟩)
    else
      let h := subP u2 u1
      let r := subP s2 s1
      let hh := h * h % bpP
      let hhh := hh * h % bpP
      let v := u1 * hh % bpP
      let x := subP (r * r) (hhh + 2 * v)
      ⟨x, subP (r * subP v x) (s1 * hhh), p.z * q.z % bpP * h % bpP⟩

/-- `k` times a point, over the `n` lowest bits of `k`. -/
def JPoint.mul : Nat → Nat → JPoint → JPoint
  | 0, _, _ => ⟨1, 1, 0⟩
  | n + 1, k, p =>
    let r := JPoint.mul n (k / 2) p.double
    if k % 2 = 1 then r.add p else r

/-- A public key as R574 stores it, x and then y, 48 bytes each, lies on the curve. -/
def onCurve (pub : BitVec 768) : Bool :=
  let x := pub.toNat / 2 ^ 384
  let y := pub.toNat % 2 ^ 384
  decide (x < bpP) && decide (y < bpP) && decide (y * y % bpP = (x * x % bpP * x + bpA * x + bpB) % bpP)

/-- The ECDSA signature `sig` (r and then s) over the hash `h` verifies under `pub`. -/
def ecdsaVerify (pub sig : BitVec 768) (h : BitVec 384) : Bool :=
  let r := sig.toNat / 2 ^ 384
  let s := sig.toNat % 2 ^ 384
  if r = 0 ∨ bpN ≤ r ∨ s = 0 ∨ bpN ≤ s ∨ !onCurve pub then false
  else
    let wi := powMod bpN 384 s (bpN - 2)
    let u1 := h.toNat * wi % bpN
    let u2 := r * wi % bpN
    let g : JPoint := ⟨bpG.1, bpG.2, 1⟩
    let q : JPoint := ⟨pub.toNat / 2 ^ 384, pub.toNat % 2 ^ 384, 1⟩
    let p := (g.mul 384 u1).add (q.mul 384 u2)
    if p.z = 0 then false
    else
      let zi := powMod bpP 384 p.z (bpP - 2)
      decide (p.x * (zi * zi % bpP) % bpP % bpN = r)

end Sys2Proof.Machine
end

