-- ==== Sys2Proof/Machine/Pkt.lean ====
section
/-! DEFINITION. The packet engine (R127 to R145, R168 to R173): parsing, the flow store, the RTP checks, SRTP, and egress. -/

namespace Sys2Proof.Machine

/-! ### Bytes of a frame -/

/-- Byte `i` of a frame, zero beyond its end. -/
def byteAt (l : List Byte) (i : Nat) : Nat := (l.getD i 0).toNat

/-- The big-endian number of `n` bytes from `i`. -/
def beAt (l : List Byte) (i n : Nat) : Nat := beNat ((l.drop i).take n)

/-- The one's-complement sum of 16-bit words, over at most `n` words (RFC 1071). -/
def sum16 : Nat → List Byte → Nat
  | 0, _ => 0
  | n + 1, l => if l.isEmpty then 0 else beNat (l.take 2 ++ List.replicate (2 - l.length) 0) + sum16 n (l.drop 2)

/-- A sum of 16-bit words folded to 16 bits. -/
def fold16 (x : Nat) : Nat :=
  let y := x / 65536 + x % 65536
  y / 65536 + y % 65536

/-- The Internet checksum of bytes. -/
def inetSum (l : List Byte) : Nat := fold16 (sum16 (l.length / 2 + 1) l)

/-- `l` with the bytes from `i` replaced. -/
def putBytes (l : List Byte) (i : Nat) (b : List Byte) : List Byte := l.take i ++ b ++ l.drop (i + b.length)

/-! ### Parsing (R127 to R129) -/

/-- What parsing finds: ethertype, the innermost VID (zero is none), and for IP the addresses (an IPv4 address in IPv4-mapped form), whether it is a
fragment, malformed, and the UDP ports and payload. -/
structure Parsed where
  ethertype : Nat := 0
  vid : Nat := 0
  ip : Bool := false
  v6 : Bool := false
  src : List Byte := []
  dst : List Byte := []
  frag : Bool := false
  bad : Bool := false
  udp : Bool := false
  dport : Nat := 0
  sport : Nat := 0
  payload : List Byte := []
  deriving DecidableEq, Repr, Inhabited

/-- An IPv4 address in IPv4-mapped form. -/
def mapped (a : List Byte) : List Byte := List.replicate 10 0 ++ [0xFF, 0xFF] ++ a

/-- The ethertype's place and the innermost VID: up to two tags, the outer of type 0x88A8 or 0x8100, the inner of type 0x8100 (R127, R128). Of a
double-tagged frame only the inner VID counts, zero meaning that the frame carries no VLAN (log entry 136). -/
def tags (f : List Byte) : Nat × Nat :=
  let t := beAt f 12 2
  if t = 0x88A8 ∨ t = 0x8100 then
    if beAt f 16 2 = 0x8100 then (20, beAt f 18 2 % 4096) else (16, beAt f 14 2 % 4096)
  else (12, 0)

/-- The IPv6 headers before UDP (R129): at most two Hop-by-Hop or Destination Options headers of 64 bytes together are skipped. The answer is
the header that follows and its place. -/
def skipV6 (l : List Byte) : Nat → Nat → Nat → Nat → Nat × Nat
  | 0, nh, off, _ => (nh, off)
  | k + 1, nh, off, len =>
    if nh = 0 ∨ nh = 60 then
      let n := 8 * (byteAt l (off + 1) + 1)
      if 64 < len + n then (nh, off) else skipV6 l k (byteAt l off) (off + n) (len + n)
    else (nh, off)

/-- The UDP part of a parse: `l` holds the IP payload from the UDP header on, `ph` the sum of the pseudo-header but for its length. -/
def Parsed.withUdp (p : Parsed) (l : List Byte) (ph : Nat) : Parsed :=
  let len := beAt l 4 2
  let ck := beAt l 6 2
  let sum := fold16 (sum16 (l.length / 2 + 1) l + ph + l.length + 17)
  { p with udp := true, sport := beAt l 0 2, dport := beAt l 2 2, payload := l.drop 8,
           bad := p.bad || decide (l.length < 8 ∨ len ≠ l.length) || (if ck = 0 then p.v6 else sum != 65535) }

/-- A frame is parsed (R127 to R129). -/
def parse (f : List Byte) : Parsed :=
  let (at', vid) := tags f
  let et := beAt f at' 2
  let l := f.drop (at' + 2)
  let p : Parsed := { ethertype := et, vid := vid }
  if et = 0x0800 then
    let ihl := 4 * (byteAt l 0 % 16)
    let tot := beAt l 2 2
    let fo := beAt l 6 2
    let body := (l.take tot).drop ihl
    let frag := bit fo 13 || decide (fo % 8192 ≠ 0)
    let p := { p with ip := true, src := mapped ((l.drop 12).take 4), dst := mapped ((l.drop 16).take 4), frag := frag,
                      bad := decide (byteAt l 0 / 16 ≠ 4 ∨ ihl < 20 ∨ tot < ihl ∨ l.length < tot) || inetSum (l.take ihl) != 65535 }
    if byteAt l 9 = 17 ∧ fo % 8192 = 0 then p.withUdp body (sum16 4 ((l.drop 12).take 8)) else p
  else if et = 0x86DD then
    let tot := beAt l 4 2 + 40
    let p := { p with ip := true, v6 := true, src := (l.drop 8).take 16, dst := (l.drop 24).take 16, bad := decide (byteAt l 0 / 16 ≠ 6 ∨ l.length < tot) }
    let (nh, off) := skipV6 l 2 (byteAt l 6) 40 0
    let p := { p with frag := nh == 44 }
    if nh = 17 then p.withUdp ((l.take tot).drop off) (sum16 16 ((l.drop 8).take 32)) else p
  else p

/-- The local address entry that a frame's destination address, VLAN and port match: the lowest LADDR (R128). Its bits are the 24 bytes of R489. -/
def Dev.laddr (d : Dev) (port : Nat) (p : Parsed) : Option Nat :=
  if !p.ip then none
  else ((d.bank.sec S.LADDR).find? (fun x =>
    bit x.2 40 == p.v6 && bit x.2 (32 + port) && leBytes 16 (bits x.2 64 128) == p.dst &&
      (if bit x.2 28 then p.vid != 0 && bits x.2 16 12 == p.vid else p.vid == 0))).map Prod.fst

/-! ### Counters of PKT (R177) -/

/-- PKT_CNT[k] counts one. -/
def Dev.pktCnt (d : Dev) (k : Nat) : Dev := d.count (R.PKT_CNT_COUNT k)

/-- A frame is dropped as MALFORMED (1), TOO_LONG (8) or OVERSIZE (10). -/
def Dev.pktBad (d : Dev) (k : Nat) : Dev := (d.pktCnt k).evOnce E.PKT_MALFORMED

/-- A frame is dropped because its receive buffer is full, or ingress is disabled (R174, R177). -/
def Dev.rxFifoDrop (d : Dev) : Dev := ((d.pktCnt 14).set R.PKT_STAT_FIFO_DROP 1).evOnce E.RX_FIFO_DROP

/-! ### Exception items (R130, R131) -/

/-- The item of R131, for exception classes 0 to 4, or CLASS 7 for ACTION 1 (R136). -/
def excItem (port cls target : Nat) (st : Stamp) (b : List Byte) : List MWord :=
  mkItem 0 0 (([b.length % 65536 + port % 4 * 2 ^ 16 + cls % 8 * 2 ^ 18 + target % 65536 * 2 ^ 21, st.sec.toNat,
    st.ns.toNat + st.sub.toNat * 2 ^ 32] ++ packBytes b).map (fun v => mkW v false false false false))

/-- A frame goes to exception class `c`, within the class's limit of frames in a stroke (R130). -/
def Dev.pktExc (d : Dev) (c port target : Nat) (st : Stamp) (b : List Byte) : Dev :=
  let (q, lim) := d.bank.exc.getD c (0, 0)
  if lim ≤ d.pkt.exc.getD c 0 then (d.pktCnt 9).evOnce E.EXC_DROP
  else ({ d with pkt := { d.pkt with exc := d.pkt.exc.modify c (· + 1) } }).qPush q (excItem port c target st b)

/-! ### The flow store (R132 to R138) -/

/-- One bit step of the reflected CRC-32C. -/
def crcStep : Nat → Nat → Nat
  | 0, c => c
  | n + 1, c => crcStep n (if c % 2 = 1 then (c / 2) ^^^ 0x82F63B78 else c / 2)

/-- CRC-32C of bytes from a preset (R132). -/
def crc32c (seed : Nat) (l : List Byte) : Nat := (l.foldl (fun c b => crcStep 8 (c ^^^ b.toNat)) seed) ^^^ 0xFFFFFFFF

/-- The key of a flow: LADDR, whether it is IPv6, the remote address in 16 bytes, and the local and remote ports. -/
structure FlowKey where
  laddr : Nat
  v6 : Bool
  raddr : List Byte
  lport : Nat
  rport : Nat
  deriving DecidableEq, Repr

/-- The bucket of a key (R132). -/
def Dev.bucket (d : Dev) (k : FlowKey) : Nat :=
  crc32c d.bank.seed (beBytes 2 k.laddr ++ k.raddr ++ beBytes 2 k.lport ++ beBytes 2 k.rport ++ [0, 0]) % 2 ^ 18

/-- Entry `i` of the flow store, word 0 in the low 72 bits. -/
def Dev.flow (d : Dev) (i : Nat) : Nat := (kvD d.pkt.flows i 0).toNat

/-- Entry `i` of the flow store is replaced. -/
def Dev.setFlow (d : Dev) (i v : Nat) : Dev := { d with pkt := { d.pkt with flows := kvPut 0 i (BitVec.ofNat 144 v) d.pkt.flows } }

/-- Fields of a flow entry (R133). -/
def fValid (e : Nat) : Bool := bit e 104
/-- KIND -/
def fKind (e : Nat) : Nat := bits e 105 2
/-- SSRC -/
def fSsrc (e : Nat) : Nat := bits e 72 32
/-- SSRC_ANY -/
def fAny (e : Nat) : Bool := bit e 107
/-- LEG -/
def fLeg (e : Nat) : Bool := bit e 108
/-- SEC_EN -/
def fSec (e : Nat) : Bool := bit e 109
/-- ACTION -/
def fAction (e : Nat) : Nat := bits e 110 2
/-- TARGET -/
def fTarget (e : Nat) : Nat := bits e 112 16
/-- LADDR -/
def fLaddr (e : Nat) : Nat := bits e 128 12

/-- The key that an entry and its tail spell; none for a tail, or a head without its tail. -/
def flowKey (e t : Nat) : Option FlowKey :=
  if fKind e = 0 then some ⟨fLaddr e, false, mapped (beBytes 4 (bits e 0 32)), bits e 32 16, bits e 48 16⟩
  else if fKind e = 1 ∧ fValid t ∧ fKind t = 2 then
    some ⟨fLaddr e, true, beBytes 16 (bits e 0 64 + bits t 0 64 * 2 ^ 64), bits t 72 16, bits t 88 16⟩
  else none

/-- The key of entry `i`, where it is VALID and no tail. -/
def Dev.keyAt (d : Dev) (i : Nat) : Option FlowKey :=
  if fValid (d.flow i) then flowKey (d.flow i) (if i % 2 = 0 then d.flow (i + 1) else 0) else none

/-- The entry that matches a key (R134): an exact SSRC before SSRC_ANY, the lower way among equals; without an SSRC any entry of the key (R135). -/
def Dev.flowFind (d : Dev) (k : FlowKey) (ssrc : Option Nat) : Option Nat :=
  let l := ((List.range 4).map (fun w => 4 * d.bucket k + w)).filter (fun i => d.keyAt i == some k)
  match ssrc with
  | none => l.head?
  | some x => match l.find? (fun i => fSsrc (d.flow i) == x) with
    | some i => some i
    | none => l.find? (fun i => fAny (d.flow i))

/-- PKT_FS_DATA as a number. -/
def Dev.fsData (d : Dev) : Nat := d.getWords R.PKT_FS_DATA_D 9

/-- A flow entry as it is stored: HIT clear, Reserved bits zero (R9, R133). -/
def flowStored (e : Nat) : Nat := setBits (setBits (e % 2 ^ 144) 64 8 0) 140 4 0

/-- The tail of an IPv6 entry as it is stored (R9, R133). -/
def tailStored (t : Nat) : Nat := setBits (setBits (t % 2 ^ 144) 64 8 0) 107 37 0

/-- INSERT of the entry `e` with its tail `t` (R138; log entry 21). -/
def Dev.fsInsertNow (d : Dev) (e t : Nat) : Except Nat Dev :=
  match flowKey e t with
  | none => .error 2
  | some k =>
    if !fValid e ∨ fAction e = 3 then .error 2
    else
      let b := 4 * d.bucket k
      let free := fun w => !fValid (d.flow (b + w))
      let same := (List.range 4).any (fun w => d.keyAt (b + w) == some k && fSsrc (d.flow (b + w)) == fSsrc e && fAny (d.flow (b + w)) == fAny e)
      let way := if k.v6 then [0, 2].find? (fun w => free w && free (w + 1)) else [0, 1, 2, 3].find? free
      if same then .error 5
      else match way with
        | none => .error 4
        | some w =>
          let d := d.setFlow (b + w) (flowStored e)
          let d := if k.v6 then d.setFlow (b + w + 1) (tailStored t) else d
          .ok (d.set R.PKT_FS_IDX_IDX (b + w))

/-- PKT_FS_CMD OP 1 to 6 (R138, R176). -/
def Dev.fsCmd (d : Dev) (req : Requester) (op : Nat) : Dev :=
  d.command C.fs req (if op = 1 ∨ op = 6 then .none else .oper) (fun d =>
    let i := d.get R.PKT_FS_IDX_IDX
    let x := d.fsData
    let e := x % 2 ^ 144
    let cur := d.flow i
    if op = 1 then .ok (d.setWords R.PKT_FS_DATA_D 9 (cur + d.flow (i + 1) * 2 ^ 144))
    else if op = 6 then (match d.obj S.LADDR i with
      | none => .error 1
      | some b => .ok (d.setWords R.PKT_FS_DATA_D 9 b))
    else if op < 1 ∨ 6 < op ∨ d.isolated .pkt then .error 2
    else if op = 2 then d.fsInsertNow e (x / 2 ^ 144)
    else if op = 5 then (match flowKey e (x / 2 ^ 144) with
      | none => .error 2
      | some k => match d.flowFind k (some (fSsrc e)) with
        | none => .error 1
        | some j => .ok (d.set R.PKT_FS_IDX_IDX j))
    else if !fValid cur then .error 1
    else if fKind cur = 2 then .error 2
    else if op = 3 then
      let d := d.setFlow i 0
      .ok (if fKind cur = 1 then d.setFlow (i + 1) 0 else d)
    else if fAction e = 3 then .error 2
    else .ok (d.setFlow i (setBits cur 107 21 (bits e 107 21))))

/-- PKT_FS_CMD READ (R138, R176). -/
def execFsRead (w : When) (req : Requester) (s : State) : Out := s.runReq w req (·.fsCmd req 1)

/-- PKT_FS_CMD INSERT (R138). -/
def execFsInsert (w : When) (req : Requester) (s : State) : Out := s.runReq w req (·.fsCmd req 2)

/-- PKT_FS_CMD DELETE (R138). -/
def execFsDelete (w : When) (req : Requester) (s : State) : Out := s.runReq w req (·.fsCmd req 3)

/-- PKT_FS_CMD REPLACE (R138). -/
def execFsReplace (w : When) (req : Requester) (s : State) : Out := s.runReq w req (·.fsCmd req 4)

/-- PKT_FS_CMD LOOKUP (R176). -/
def execFsLookup (w : When) (req : Requester) (s : State) : Out := s.runReq w req (·.fsCmd req 5)

/-- PKT_FS_CMD READ of a local address entry (R176). -/
def execFsReadLaddr (w : When) (req : Requester) (s : State) : Out := s.runReq w req (·.fsCmd req 6)

/-! ### SRTP (R141 to R145) -/

/-- SRTP context `n`. -/
def Dev.ctx (d : Dev) (n : Nat) : SrtpCtx := kvD d.pkt.ctxs n {}

/-- SRTP context `n` is replaced. -/
def Dev.setCtx (d : Dev) (n : Nat) (c : SrtpCtx) : Dev := { d with pkt := { d.pkt with ctxs := kvSet n c d.pkt.ctxs } }

/-- Bytes of the tag of a suite. -/
def tagLen (suite : Nat) : Nat := if suite ≤ 2 then 10 else 16

/-- The cipher key bytes of a context, the first byte in the lowest bits (log entry 22). -/
def SrtpCtx.keyBytes (c : SrtpCtx) : List Byte := leBytes (if c.suite = 1 ∨ c.suite = 3 then 16 else 32) c.key.toNat

/-- Salt bytes: 14 for counter mode, 12 for GCM. -/
def SrtpCtx.saltBytes (c : SrtpCtx) : List Byte := leBytes (if c.suite ≤ 2 then 14 else 12) c.salt.toNat

/-- The payload's key stream applied (RFC 3711 section 4.1.1, RFC 7714 section 8): `idx` is the packet index. -/
def SrtpCtx.cipher (c : SrtpCtx) (ssrc idx : Nat) (m : List Byte) : List Byte :=
  if c.suite ≤ 2 then aesCtr c.keyBytes ((beNat c.saltBytes * 2 ^ 16) ^^^ (ssrc * 2 ^ 64) ^^^ (idx * 2 ^ 16)) m
  else gcmCtr c.keyBytes (xorBytes c.saltBytes (beBytes 12 (ssrc * 2 ^ 48 + idx))) m

/-- The tag of a packet: `hdr` its RTP header, `enc` its encrypted payload. -/
def SrtpCtx.tag (c : SrtpCtx) (ssrc idx : Nat) (hdr enc : List Byte) : List Byte :=
  if c.suite ≤ 2 then (hmacSha1 (leBytes 20 c.auth.toNat) (hdr ++ enc ++ beBytes 4 (idx / 65536))).take 10
  else gcmTag c.keyBytes (xorBytes c.saltBytes (beBytes 12 (ssrc * 2 ^ 48 + idx))) hdr enc

/-- The packet index of a sequence number, estimated by RFC 3711 Appendix A: ROC - 1 is taken modulo 2^32. ROC + 1 is not, so that an index past its limit
shows (R144). -/
def SrtpCtx.index (c : SrtpCtx) (seq : Nat) : Nat :=
  let v := if c.sl < 32768 then (if c.sl + 32768 < seq then (c.roc + 2 ^ 32 - 1) % 2 ^ 32 else c.roc)
    else if seq + 32768 < c.sl then c.roc + 1 else c.roc
  v * 65536 + seq

/-- One packet more under the present keys: SRTP_KEY_SOFT fires where PKT_COUNT reaches KEY_SOFT (R144). -/
def Dev.ctxCount (d : Dev) (n : Nat) : Dev :=
  let c := d.ctx n
  let k := (c.cnt + 1) % 2 ^ 48
  let d := d.setCtx n { c with cnt := k }
  if k = c.soft ∧ 0 < c.soft then (d.set R.PKT_STAT_KEY_SOFT 1).ev E.SRTP_KEY_SOFT n else d

/-- The index would pass its limit: the context acts as SUITE 0 from now on (R144). -/
def Dev.ctxEnd (d : Dev) (n : Nat) : Dev := (d.setCtx n { d.ctx n with ended := true }).ev E.SRTP_KEY_END n

/-- The replay window after an authenticated index (R143). -/
def SrtpCtx.accept (c : SrtpCtx) (idx : Nat) : SrtpCtx :=
  let h := c.roc * 65536 + c.sl
  if h ≤ idx then { c with roc := idx / 65536, sl := idx % 65536, win := (c.win <<< (idx - h)) ||| 1 }
  else { c with win := c.win ||| (1 <<< (h - idx)) }

/-- The index is in the window already (`some true`), or too old for it (`some false`). -/
def SrtpCtx.replay (c : SrtpCtx) (idx : Nat) : Option Bool :=
  let h := c.roc * 65536 + c.sl
  if h < idx then none
  else if 128 ≤ h - idx then some false
  else if c.win.getLsbD (h - idx) then some true else none

/-- An inbound packet is authenticated, checked against replay and decrypted (R143): `hl` is its RTP header's length. -/
def Dev.unprotect (d : Dev) (n o hl : Nat) (pk : List Byte) : Dev × Option (List Byte) :=
  let c := d.ctx n
  let seq := beAt pk 2 2
  let ssrc := beAt pk 8 4
  if c.suite = 0 ∨ c.ended then (d.pktCnt 6, none)
  else
    let idx := c.index seq
    if 2 ^ 48 ≤ idx then ((d.ctxEnd n).pktCnt 6, none)
    else
      let t := tagLen c.suite
      let enc := (pk.take (pk.length - t)).drop hl
      let authOk := decide (hl + t ≤ pk.length) && c.tag ssrc idx (pk.take hl) enc == pk.drop (pk.length - t)
      match c.replay idx with
      | some seen =>
        if seen && cDual o then (d.setCis n ((d.cistern n).add kDup 1), none)
        else ((d.pktCnt 5).evOnce E.SRTP_REPLAY, none)
      | none =>
        if !authOk then ((d.pktCnt 4).evOnce E.SRTP_AUTH_FAIL, none)
        else ((d.setCtx n (c.accept idx)).ctxCount n, some (pk.take hl ++ c.cipher ssrc idx enc))

/-! ### The RTP checks (R139) -/

/-- The length of an RTP header with its CSRC list and extension, where the packet holds it. -/
def rtpHdrLen (pk : List Byte) : Option Nat :=
  let n := 12 + 4 * (byteAt pk 0 % 16)
  if pk.length < n then none
  else if bit (byteAt pk 0) 4 then
    let m := n + 4 + 4 * beAt pk (n + 2) 2
    if pk.length < n + 4 ∨ pk.length < m then none else some m
  else some n

/-- The payload types valid for a cistern. -/
def CisRt.ptOk (c : CisRt) (pt : Nat) : Bool := (leBytes 4 c.pts.toNat).any (fun b => b.toNat == 128 + pt)

/-- A packet with ACTION 0 meets the checks of R139, in their order. -/
def Dev.rtpIn (d : Dev) (n : Nat) (leg sec : Bool) (st : Stamp) (pk : List Byte) : Dev :=
  match d.obj S.CISTERNS n with
  | none => d.pktCnt 15
  | some o =>
    match (if byteAt pk 0 / 64 = 2 then rtpHdrLen pk else none) with
    | none => d.pktBad 1
    | some hl =>
      match (if sec then d.unprotect n o hl pk else (d, some pk)) with
      | (d, none) => d
      | (d, some pk) =>
        let body := pk.drop hl
        let pad := if bit (byteAt pk 0) 5 then byteAt body (body.length - 1) else 0
        let pt := byteAt pk 1 % 128
        if body.length < pad ∨ (bit (byteAt pk 0) 5 ∧ body = []) then d.pktBad 1
        else
          let pl := body.take (body.length - pad)
          if !(d.cistern n).ptOk pt then (d.pktCnt 7).evOnce E.PT_MISMATCH
          else if (cSlotWords o - 2) * 9 < pl.length then d.pktBad 8
          else if d.isolated .cis then d.pktCnt 15
          else d.cisPacket n o ⟨beAt pk 2 2, beAt pk 4 4, pt, bit (byteAt pk 1) 7, leg, pl, st⟩

/-! ### Ingress (R129, R135, R136) -/

/-- A UDP packet to a local address is looked up and handled by its entry (R134 to R136). The SSRC of a payload too short to hold one is the number of the bytes
present (log entry 135). -/
def Dev.pktFlow (d : Dev) (port la : Nat) (p : Parsed) (st : Stamp) (f : List Byte) : Dev :=
  let b1 := byteAt p.payload 1
  let rtcp := decide (192 ≤ b1 ∧ b1 ≤ 223)
  let key : FlowKey := ⟨la, p.v6, p.src, p.dport, p.sport⟩
  match d.flowFind key (if rtcp then none else some (beAt p.payload 8 4)) with
  | none => ((d.pktCnt 3).evOnce E.PKT_UNKNOWN_FLOW).pktExc 3 port 0 st f
  | some i =>
    let e := d.flow i
    let d := d.setFlow i (setBits e 140 1 1)
    if rtcp then d.pktExc 2 port (fTarget e) st f
    else if fAction e = 0 then d.rtpIn (fTarget e) (fLeg e) (fSec e) st p.payload
    else if fAction e = 1 ∧ d.qValid (fTarget e) then d.qPush (fTarget e) (excItem port 7 0 st p.payload)
    else d.pktCnt 15

/-- A frame takes the first path of R129 that matches it. -/
def Dev.pktFrame (d : Dev) (port : Nat) (f : List Byte) (st : Stamp) : Dev :=
  let d := d.pktCnt 0
  if 1526 < f.length + 4 then d.pktBad 10
  else
    let p := parse f
    let la := d.laddr port p
    if p.ethertype = 0x88F7 ∨ (p.udp ∧ la.isSome ∧ (p.dport = 319 ∨ p.dport = 320)) then d.pktExc 0 port 0 st f
    else if p.frag then d.pktExc 4 port 0 st f
    else if p.bad then d.pktBad 1
    else if p.ethertype = 0x0806 ∨ (p.ip ∧ !p.udp ∧ la.isSome) then d.pktExc 1 port 0 st f
    else match (if p.udp then la else none) with
      | some n => d.pktFlow port n p st f
      | none => if f.take 6 == List.replicate 6 0xFF then d.pktExc 1 port 0 st f else d.pktCnt 2

/-- The oldest frame of a port's receive buffer is handled (R129). While PKT is in block reset frames are dropped uncounted (R539); while RX_EN is
0 they count RX_FIFO_DROP (R177). -/
def Dev.pktIngress (d : Dev) (port : Nat) : Dev :=
  match kvD d.pkt.rx port [] with
  | [] => d
  | (f, st) :: r =>
    let d := { d with pkt := { d.pkt with rx := kvPut [] port r d.pkt.rx } }
    if d.isolated .pkt then d
    else if !d.flag R.PKT_CTL_RX_EN then d.rxFifoDrop
    else d.pktFrame port f st

/-- PKT handles a frame (R129). -/
def execPktIngress (w : When) (port : Nat) (s : State) : Out := s.runMain w (·.pktIngress port)

/-! ### SRTP contexts by command (R142, R144, R177) -/

/-- The non-key fields of a context, as READ returns them. -/
def SrtpCtx.read (c : SrtpCtx) : Nat := c.suite + c.roc * 2 ^ 8 + c.sl * 2 ^ 40 + c.cnt * 2 ^ 56 + c.soft * 2 ^ 104

/-- The context that SET loads from 1,024 bits. -/
def ctxOf (x : Nat) : SrtpCtx :=
  { suite := bits x 0 3, roc := bits x 8 32, sl := bits x 40 16, soft := bits x 104 48, key := BitVec.ofNat 256 (bits x 256 256),
    salt := BitVec.ofNat 112 (bits x 512 112), auth := BitVec.ofNat 160 (bits x 624 160) }

/-- The keys and the SUITE of a context are zeroed (R177, R586). -/
def SrtpCtx.zeroed (c : SrtpCtx) : SrtpCtx := { c with suite := 0, key := 0, salt := 0, auth := 0 }

/-- The run-time part of egress stream `n`. -/
def Dev.eg (d : Dev) (n : Nat) : EgRt := kvD d.pkt.eg n {}

/-- The run-time part of egress stream `n` is replaced. -/
def Dev.setEg (d : Dev) (n : Nat) (e : EgRt) : Dev := { d with pkt := { d.pkt with eg := kvSet n e d.pkt.eg } }

/-- PKT_SC_CMD OP 1 to 3 (R142, R144, R177). -/
def Dev.scCmd (d : Dev) (req : Requester) (op : Nat) : Dev :=
  d.command C.sc req (if op = 2 then .none else if op = 1 then .fwOnly else .oper) (fun d =>
    let n := d.get R.PKT_SC_IDX_IDX
    if op < 1 ∨ 3 < op then .error 2
    else if op = 2 then .ok (d.setWords R.PKT_SC_DATA_D 32 (d.ctx n).read)
    else if d.isolated .pkt then .error 2
    else if op = 1 then
      let c := ctxOf (d.getWords R.PKT_SC_DATA_D 32)
      let eg := fun (d : Dev) => if 16384 ≤ n ∧ (kvGet (n - 16384) d.pkt.eg).isSome then d.setEg (n - 16384) { d.eg (n - 16384) with past := false } else d
      if 5 ≤ c.suite then .error 2 else .ok (eg (d.setCtx n c))
    else .ok (d.setCtx n (d.ctx n).zeroed))

/-- PKT_SC_CMD SET (R144). -/
def execScSet (w : When) (req : Requester) (s : State) : Out := s.runReq w req (·.scCmd req 1)

/-- PKT_SC_CMD READ (R177). -/
def execScRead (w : When) (req : Requester) (s : State) : Out := s.runReq w req (·.scCmd req 2)

/-- PKT_SC_CMD ZERO (R177). -/
def execScZero (w : When) (req : Requester) (s : State) : Out := s.runReq w req (·.scCmd req 3)

/-! ### Egress (R168 to R172) -/

/-- TIMING: LOCKED -/
def eLocked (o : Nat) : Bool := bit o 1
/-- SEC_EN -/
def eSec (o : Nat) : Bool := bit o 2
/-- SUPPRESS_IDLE -/
def eSuppress (o : Nat) : Bool := bit o 3
/-- DUAL -/
def eDual (o : Nat) : Bool := bit o 4
/-- PORT, or PORT2 for the second copy -/
def ePort (o : Nat) (second : Bool) : Nat := if second then bits o 8 2 else bits o 6 2
/-- RATE in Hz -/
def eRate (o : Nat) : Nat := rateHz (bits o 10 3)
/-- IN_Q -/
def eInQ (o : Nat) : Nat := bits o 16 16
/-- TEMPLATE and TEMPLATE_LEN, or those of the second path -/
def eTemplate (o : Nat) (second : Bool) : Nat × Nat := if second then (bits o 64 24, bits o 88 8) else (bits o 32 24, bits o 56 8)
/-- SSRC -/
def eSsrc (o : Nat) : Nat := bits o 96 32
/-- PT -/
def ePt (o : Nat) : Nat := bits o 128 7
/-- PERIOD -/
def ePeriod (o : Nat) : Nat := bits o 136 16
/-- PHASE -/
def ePhase (o : Nat) : Nat := bits o 152 16
/-- LAUNCH_CC -/
def eLaunch (o : Nat) : Nat := bits o 168 18
/-- TS_OFFSET or TS_BASE -/
def eTsOfs (o : Nat) : Nat := bits o 192 32
/-- S_BASE -/
def eSBase (o : Nat) : Nat := bits o 224 32

/-- Counter `k` of an egress stream counts one modulo 2^32: TX packets, TX_LINK_DOWN, TX_SUPPRESSED. -/
def EgRt.add (e : EgRt) (k : Nat) : EgRt := { e with cnt := e.cnt.modify k (· + 1) }

/-- The counters of PKT and of the stream count one (R177). -/
def Dev.egCnt (d : Dev) (n k : Nat) : Dev := (d.setEg n ((d.eg n).add k)).pktCnt (11 + k)

/-- The RTP timestamp of stroke `t` (R171). -/
def Dev.egTs (d : Dev) (o : Nat) (t : Int) : Nat :=
  if eLocked o then
    fieldOf 32 (((d.nsOf (fInt t)).mul (mkFrac (eRate o) (10 ^ 9))).floor + eTsOfs o)
  else fieldOf 32 ((eTsOfs o : Int) + (t - eSBase o) * (eRate o / 8000 : Nat))

/-- The lengths, the identification and the checksums of a packet over its template (R170): `tl` is the template's length. -/
def fixHeaders (tl id : Nat) (f : List Byte) : List Byte :=
  let (at', _) := tags f
  let ip := at' + 2
  let n := f.length
  let f := putBytes f (tl - 4) (beBytes 2 (n - (tl - 8)))
  let f := putBytes f (tl - 2) [0, 0]
  let v6 := beAt f at' 2 = 0x86DD
  let f := if v6 then putBytes f (ip + 4) (beBytes 2 (n - ip - 40))
    else
      let g := putBytes (putBytes (putBytes f (ip + 2) (beBytes 2 (n - ip))) (ip + 4) (beBytes 2 id)) (ip + 10) [0, 0]
      putBytes g (ip + 10) (beBytes 2 (65535 - inetSum ((g.drop ip).take (4 * (byteAt g ip % 16)))))
  let ph := (if v6 then sum16 16 ((f.drop (ip + 8)).take 32) else sum16 4 ((f.drop (ip + 12)).take 8)) + 17 + (n - (tl - 8))
  let u := f.drop (tl - 8)
  let ck := 65535 - fold16 (sum16 (u.length / 2 + 1) u + ph)
  putBytes f (tl - 2) (beBytes 2 (if ck = 0 then 65535 else ck))

/-- A packet in a port's list, in the order of R170: LAUNCH_CC, then stream, within each stroke. -/
def insTx (x : TxPkt) : List TxPkt → List TxPkt
  | [] => [x]
  | a :: r =>
    if x.stroke < a.stroke ∨ (x.stroke = a.stroke ∧ (x.cc < a.cc ∨ (x.cc = a.cc ∧ x.stream < a.stream))) then x :: a :: r else a :: insTx x r

/-- A packet of an egress stream goes on the wire: TS_LAST is its timestamp (R168). -/
def Dev.egSent (d : Dev) (x : TxPkt) : Dev :=
  if (kvGet x.stream d.pkt.eg).isSome then d.setEg x.stream { d.eg x.stream with tsLast := x.ts } else d

/-- A packet is queued for launch on its port; where the port's link is down, or TX_EN is 0, it is discarded and counted TX_LINK_DOWN (R172, R177). -/
def Dev.egQueue (d : Dev) (port : Nat) (x : TxPkt) : Dev :=
  if d.flag R.PKT_CTL_TX_EN && d.flag (R.ETH_STAT_LINK port) then
    { d with pkt := { d.pkt with tx := kvSet port (insTx x (kvD d.pkt.tx port [])) d.pkt.tx } }
  else d.egCnt x.stream 1

/-- The protected RTP packet of an egress stream (R141, R144): none where its context gives no key. `idx` is the packet index. -/
def Dev.protect (d : Dev) (n ssrc idx : Nat) (hdr body : List Byte) : Dev × Option (List Byte) :=
  let k := 16384 + n
  let c := d.ctx k
  if c.suite = 0 ∨ c.ended then (d.pktCnt 6, none)
  else if 2 ^ 48 ≤ idx then ((d.ctxEnd k).pktCnt 6, none)
  else
    let enc := c.cipher ssrc idx body
    (d.ctxCount k, some (hdr ++ enc ++ c.tag ssrc idx hdr enc))

/-- One copy of a packet is built on its template and queued. -/
def Dev.egCopy (d : Dev) (n o s id : Nat) (ts : Word) (rtp : List Byte) (second : Bool) : Dev :=
  let (a, len) := eTemplate o second
  let (ws, d) := d.resReadN a (ceilDiv len 9)
  let f := (wordBytes (ws.map wData)).take len ++ rtp
  d.egQueue (ePort o second) ⟨n, s, eLaunch o, fixHeaders len id f, ts⟩

/-- Egress builds the packet of stream `n` for the stroke that begins (R170 to R172). The packet index is formed from the stream's own ROC and SEQ (R168), not from
the context's ROC (log entry 132); where ROC and SEQ have run over their 48 bits it is past the limit of R144. -/
def Dev.egBuild (d : Dev) (n o : Nat) : Dev :=
  let s := d.org.num
  let (it, d) := d.qPop (eInQ o) true
  let e := d.eg n
  if eSuppress o && bit (itemHdr it) rIdle then (d.setEg n { e with markNext := true }).egCnt n 2
  else
    let md := wData (it.getD 1 0)
    let body := (wordBytes ((it.drop 2).map wData)).take (bits md 48 12)
    let ts := d.egTs o ((s : Int) - ePeriod o)
    let mk := e.markNext || bit md 67
    let hdr := [(0x80 : Byte), BitVec.ofNat 8 (b2n mk * 128 + ePt o)] ++ beBytes 2 e.seq.toNat ++ beBytes 4 ts ++ beBytes 4 (eSsrc o)
    let idx := e.roc.toNat * 65536 + e.seq.toNat + b2n e.past * 2 ^ 48
    let v4 := !bit o 5
    let e' := { e with seq := e.seq + 1, roc := if e.seq = 0xFFFF then e.roc + 1 else e.roc,
                       past := e.past || (e.seq == 0xFFFF && e.roc == 0xFFFFFFFF),
                       ipId := if v4 then e.ipId + 1 else e.ipId, markNext := false }
    let d := d.setEg n e'
    match (if eSec o then d.protect n (eSsrc o) idx hdr body else (d, some (hdr ++ body))) with
    | (d, none) => d
    | (d, some rtp) =>
      let d := d.egCopy n o s e.ipId.toNat (BitVec.ofNat 32 ts) rtp false
      if eDual o then d.egCopy n o s e.ipId.toNat (BitVec.ofNat 32 ts) rtp true else d

/-- The egress streams that the stroke selects (R170). -/
def Dev.egBoundary (d : Dev) : Dev :=
  let d := { d with pkt := { d.pkt with exc := [0, 0, 0, 0, 0] } }
  if d.isolated .pkt then d
  else d.each (d.bank.sec S.EGRESS) (fun d x => if d.org.num % max 1 (ePeriod x.2) = ePhase x.2 then d.egBuild x.1 x.2 else d)

/-- The image bits of an egress stream that are fields: its Reserved bits read zero (R9, R168). -/
def egImage (o : Nat) : Nat := setBits (setBits (setBits (o % 2 ^ 256) 13 3 0) 135 1 0) 186 6 0

/-- The 512 bits of an egress descriptor (R168). -/
def Dev.egDesc (d : Dev) (n : Nat) : Nat :=
  let e := d.eg n
  egImage (d.objD S.EGRESS n) + e.seq.toNat * 2 ^ 256 + e.roc.toNat * 2 ^ 272 + e.tsLast.toNat * 2 ^ 304 + e.ipId.toNat * 2 ^ 336 +
    b2n e.markNext * 2 ^ 352

/-- PKT_EG_CMD OP 1 and 2 (R177). -/
def Dev.egCmd (d : Dev) (req : Requester) (op : Nat) : Dev :=
  d.command C.eg req (if op = 1 ∨ op = 2 then .none else .oper) (fun d =>
    let n := d.get R.PKT_EG_IDX_IDX
    if op < 1 ∨ 2 < op then .error 2
    else if (d.obj S.EGRESS n).isNone then .error 1
    else if op = 1 then .ok (d.setWords R.PKT_EG_DATA_D 16 (d.egDesc n))
    else .ok (d.each ((d.eg n).cnt.zipIdx) (fun d x => d.set (R.PKT_EG_DATA_D x.2) x.1.toNat)))

/-- PKT_EG_CMD READ (R177). -/
def execEgRead (w : When) (req : Requester) (s : State) : Out := s.runReq w req (·.egCmd req 1)

/-- PKT_EG_CMD STATS (R177). -/
def execEgStats (w : When) (req : Requester) (s : State) : Out := s.runReq w req (·.egCmd req 2)

end Sys2Proof.Machine
end

