-- ==== Sys2Proof/Machine/Cnv.lean ====
section
/-! DEFINITION. The conversion engine (R181 to R225): chains of CIC and FIR stages, filter-set swaps, ASRC lanes, the pass, and the commands. -/

namespace Sys2Proof.Machine

/-! ### Image bits of chains (R191), sets (R201) and lanes (R207) -/

/-- SRC -/
def hSrc (o : Nat) : Nat := bits o 1 2
/-- SRC_IDX -/
def hSrcIdx (o : Nat) : Nat := bits o 3 4
/-- MEMBERS -/
def hMembers (o : Nat) : Nat := bits o 7 7
/-- CLASS -/
def hClass (o : Nat) : Nat := bits o 14 2
/-- CIC_K -/
def hCicK (o : Nat) : Nat := bits o 48 3
/-- CIC_R, 1 without a CIC -/
def hCicR (o : Nat) : Nat := if hCicK o = 0 then 1 else max 1 (bits o 51 9)
/-- CIC_SHIFT -/
def hShift (o : Nat) : Int := signedOf 7 (bits o 60 7)
/-- SET1 -/
def hSet1 (o : Nat) : Nat := bits o 67 5
/-- SET1_EN -/
def hSet1En (o : Nat) : Bool := bit o 72
/-- M1, 1 where stage 1 is absent -/
def hM1 (o : Nat) : Nat := if hSet1En o then max 1 (bits o 73 5) else 1
/-- SET2 -/
def hSet2 (o : Nat) : Nat := bits o 78 5
/-- SET2_EN -/
def hSet2En (o : Nat) : Bool := bit o 83
/-- M2, 1 where stage 2 is absent -/
def hM2 (o : Nat) : Nat := if hSet2En o then max 1 (bits o 84 5) else 1
/-- SETTLE -/
def hSettle (o : Nat) : Bool := bit o 89
/-- SYNC_GRP -/
def hSyncGrp (o : Nat) : Nat := bits o 90 3
/-- OUT_N -/
def hOutN (o : Nat) : Nat := bits o 93 7
/-- Inputs for one output sample: CIC_R × M1 × M2 -/
def hDecim (o : Nat) : Nat := hCicR o * hM1 o * hM2 o

/-- TAPS -/
def sTaps (o : Nat) : Nat := bits o 0 13
/-- The first coefficient of a bank -/
def sBank (o : Nat) (b : Bool) : Nat := if b then bits o 32 19 else bits o 13 19
/-- GAIN -/
def sGain (o : Nat) : Nat := bits o 51 4
/-- XF_MAX -/
def sXfMax (o : Nat) : Nat := bits o 55 12

/-- SRC: FIXED -/
def lFixed (o : Nat) : Bool := bit o 1
/-- EN_INIT -/
def lEnInit (o : Nat) : Bool := bit o 2
/-- N, the output samples of a stroke (ORATE) -/
def lN (o : Nat) : Nat := [1, 2, 3, 4, 6, 12].getD (bits o 3 3) 1
/-- IRATE in Hz -/
def lIrate (o : Nat) : Nat := rateHz (bits o 6 3)
/-- PROTO -/
def lProto (o : Nat) : Nat := bits o 9 2
/-- BYPASS_INT -/
def lBypass (o : Nat) : Bool := bit o 11
/-- CLASS -/
def lClass (o : Nat) : Nat := bits o 12 2
/-- CIS -/
def lCis (o : Nat) : Nat := bits o 14 14
/-- CH -/
def lCh (o : Nat) : Nat := bits o 28 4
/-- IN_SLOT -/
def lInSlot (o : Nat) : Nat := bits o 64 6
/-- OUT_SLOT -/
def lOutSlot (o : Nat) : Nat := bits o 70 6
/-- LAT -/
def lLat (o : Nat) : Nat := bits o 76 7
/-- D_MAX -/
def lDMax (o : Nat) : Nat := bits o 83 12
/-- D_INIT -/
def lDInit (o : Nat) : Nat := bits o 95 20
/-- DSLEW -/
def lDSlew (o : Nat) : Nat := bits o 115 16
/-- HIST_BASE -/
def lHist (o : Nat) : Nat := bits o 131 24
/-- Entries of the history -/
def lHistLen (o : Nat) : Nat := 2 ^ bits o 155 4
/-- RATIO_F of the image -/
def lRatioF (o : Nat) : Nat := bits o 160 48

/-! ### Run-time parts -/

/-- Chain `n`. -/
def Dev.chain (d : Dev) (n : Nat) : ChainRt := kvD d.cnv.chains n {}

/-- Chain `n` is replaced. -/
def Dev.setChain (d : Dev) (n : Nat) (c : ChainRt) : Dev := { d with cnv := { d.cnv with chains := kvSet n c d.cnv.chains } }

/-- Filter set `n`. -/
def Dev.fset (d : Dev) (n : Nat) : SetRt := kvD d.cnv.sets n {}

/-- Filter set `n` is replaced. -/
def Dev.setFset (d : Dev) (n : Nat) (c : SetRt) : Dev := { d with cnv := { d.cnv with sets := kvSet n c d.cnv.sets } }

/-- Lane `n`. -/
def Dev.lane (d : Dev) (n : Nat) : LaneRt := kvD d.cnv.lanes n {}

/-- Lane `n` is replaced. -/
def Dev.setLane (d : Dev) (n : Nat) (c : LaneRt) : Dev := { d with cnv := { d.cnv with lanes := kvSet n c d.cnv.lanes } }

/-- Counter `k` of a lane counts one. -/
def LaneRt.add (l : LaneRt) (k : Nat) : LaneRt := { l with cnt := l.cnt.modify k (· + 1) }

/-- CNV_CNT[k] counts `n`. -/
def Dev.cnvCnt (d : Dev) (k n : Nat) : Dev := d.count (R.CNV_CNT_COUNT k) n

/-- CNV_LAST: KIND 1 lane, 2 chain, 3 set. -/
def Dev.cnvLast (d : Dev) (kind idx : Nat) : Dev := (d.set R.CNV_LAST_IDX idx).set R.CNV_LAST_KIND kind

/-- `n` samples of an object saturated (R187). -/
def Dev.cnvClip (d : Dev) (kind idx n : Nat) : Dev :=
  if n = 0 then d
  else (((d.cnvCnt 0 n).set R.CNV_STAT_CLIP 1).cnvLast kind idx).evOnce E.CNV_CLIP 0 idx

/-- The TAPS of the filter sets of a chain's stages, zero for an absent stage. -/
def Dev.hTaps (d : Dev) (o : Nat) : Nat × Nat :=
  (if hSet1En o then sTaps (d.objD S.SETS (hSet1 o)) else 0, if hSet2En o then sTaps (d.objD S.SETS (hSet2 o)) else 0)

/-- P of R196. -/
def Dev.hPrime (d : Dev) (o : Nat) : Nat :=
  if hSettle o then 0
  else hCicK o + ceilDiv (d.hTaps o).1 (hM1 o) + ceilDiv (d.hTaps o).2 (hM2 o)

/-- A member of a chain after a synchronising reset. -/
def Dev.chMem0 (d : Dev) (o : Nat) : ChMem :=
  { integ := List.replicate (hCicK o) 0, comb := List.replicate (hCicK o) 0, d1 := List.replicate (d.hTaps o).1 {},
    d2 := List.replicate (d.hTaps o).2 {} }

/-- A chain as it starts (R222: as after SYNC). -/
def Dev.chainFresh (d : Dev) (o : Nat) : ChainRt :=
  { mem := List.replicate (hMembers o) (d.chMem0 o), prime := d.hPrime o }

/-! ### The words of a chain in the reservoir (R182, R191) -/

/-- STATE_BASE -/
def hState (o : Nat) : Nat := bits o 100 24

/-- Delay-line samples as words, three to a word in the layout of R189, without tags. -/
def tapWords (x : List Smp) : List MWord :=
  (List.range (ceilDiv x.length 3)).map (fun w =>
    let f := fun k => fieldOf 24 (x.getD (3 * w + k) {}).v
    mkW (packLanes (f 0) (f 1) (f 2)) false false false false)

/-- Delay-line samples with the values that words hold; a word that reads POISON poisons its samples. -/
def tapsOf (x : List Smp) (ws : List MWord) : List Smp :=
  x.zipIdx.map (fun s =>
    let w := ws.getD (s.2 / 3) 0
    { s.1 with v := sLane (wData w) (s.2 % 3), poison := s.1.poison || wPoison w })

/-- The words of a member: integrators, combs, the open settling sum, and the delay lines. The spec gives the address alone: DESIGN CHOICE (unsafe, log entry
119). -/
def ChMem.words (m : ChMem) : List MWord :=
  (m.integ ++ m.comb ++ [BitVec.ofInt 72 m.acc]).map (fun x => mkW x.toNat false false false false) ++ tapWords m.d1 ++ tapWords m.d2

/-- A member with the values that its words hold. -/
def ChMem.ofWords (m : ChMem) (ws : List MWord) : ChMem :=
  let k := m.integ.length
  let c := m.comb.length
  let t := ceilDiv m.d1.length 3
  { m with
    integ := (ws.take k).map (fun w => BitVec.ofNat 72 (wData w)), comb := ((ws.drop k).take c).map (fun w => BitVec.ofNat 72 (wData w))
    acc := signedOf 72 (wData (ws.getD (k + c) 0)), d1 := tapsOf m.d1 (ws.drop (k + c + 1)), d2 := tapsOf m.d2 (ws.drop (k + c + 1 + t)) }

/-- The words of a chain: where they begin and how many a member takes. -/
def Dev.chainSpan (d : Dev) (o : Nat) : Nat × Nat := (hState o, hMembers o * (d.chMem0 o).words.length)

/-- The words of a chain lie in a CONV partition of the image (R182, R487). An image that gives them none has no address for them, and the chain keeps them itself. -/
def Dev.chainHeld (d : Dev) (o : Nat) : Bool :=
  (d.bank.sec S.PARTITIONS).any (fun x => bits x.2 1 4 == 3 && !bit x.2 0 &&
    decide (bits x.2 6 36 ≤ (d.chainSpan o).1 ∧ (d.chainSpan o).1 + (d.chainSpan o).2 ≤ bits x.2 6 36 + bits x.2 42 36))

/-- A delay line for `n` taps: one whose set has changed its TAPS keeps its newest samples (R222). -/
def fitTaps (n : Nat) (x : List Smp) : List Smp := x.take n ++ List.replicate (n - x.length) ({} : Smp)

/-- The members of a chain as the pass reads them: the words lie as the delay lines were when they were stored, whatever TAPS its sets have now (R222). -/
def Dev.chainLoad (d : Dev) (c o : Nat) : List ChMem × Dev :=
  let l := (List.range (hMembers o)).map (fun j => (d.chain c).mem.getD j (d.chMem0 o))
  let fit : ChMem → ChMem := fun m => { m with d1 := fitTaps (d.hTaps o).1 m.d1, d2 := fitTaps (d.hTaps o).2 m.d2 }
  if !d.chainHeld o then (l.map fit, d)
  else
    let n := (l.headD (d.chMem0 o)).words.length
    let (ws, d) := d.resReadN (hState o) (hMembers o * n)
    (l.zipIdx.map (fun x => fit (x.1.ofWords ((ws.drop (x.2 * n)).take n))), d)

/-- The members of a chain are written back. -/
def Dev.chainStore (d : Dev) (o : Nat) (l : List ChMem) : Dev :=
  if d.chainHeld o then d.resWriteN (hState o) (l.flatMap ChMem.words) else d

/-- A chain starts, its registers and delay lines zero (R222). -/
def Dev.chainStart (d : Dev) (c o : Nat) : Dev := (d.setChain c (d.chainFresh o)).chainStore o (d.chainFresh o).mem

/-- A lane as it starts at the boundary that begins stroke `s` (R222; log entry 23). -/
def laneFresh (o s : Nat) : LaneRt :=
  { en := lEnInit o, dTgt := lDInit o, dCur := lDInit o * 256, s0 := s, ratio := lRatioF o }

/-! ### Samples (R186 to R190) -/

/-- REASON bit OVF in a sample's reasons. -/
def rsOvf : Nat := 2
/-- REASON bit PRIME in a sample's reasons. -/
def rsPrime : Nat := 1
/-- REASON bit CONCEAL in a sample's reasons. -/
def rsConceal : Nat := 4

/-- The reasons that pass on to an output: PRIME is never copied (R188). -/
def rsPass (r : Nat) : Nat := r / 2 * 2 % 128

/-- A rounded result as a sample: saturated and marked where it clips (R187). The answer says whether it did. -/
def mkSmp (v : Int) (rs : Nat) (poison : Bool) : Smp × Nat :=
  let (x, c) := satLane v
  ({ v := x, rs := if c then rs ||| rsOvf else rs, poison := poison }, b2n c)

/-- The sample at index `i` of an item's payload from word `at'` on (R189). -/
def itemSmp (it : List MWord) (at' i : Nat) : Smp :=
  let w := it.getD (at' + i / 3) 0
  { v := sLane (wData w) (i % 3), rs := if wMark w then hReason (itemHdr it) % 128 else 0, poison := wPoison w }

/-- The items of a stroke's samples, `n` a member, `m` members, `f k j` sample k of member j (R189, R190). -/
def smpItems (n m : Nat) (f : Nat → Nat → Smp) : List (List MWord) :=
  let one := fun k0 n =>
    let len := n * m
    let s := fun i => if i < len then f (k0 + i / max 1 m) (i % max 1 m) else {}
    let ws := (List.range (ceilDiv len 3)).map (fun w =>
      let a := s (3 * w)
      let b := s (3 * w + 1)
      let c := s (3 * w + 2)
      mkW (packLanes (fieldOf 24 a.v) (fieldOf 24 b.v) (fieldOf 24 c.v)) false false (a.rs ||| b.rs ||| c.rs != 0) (a.poison || b.poison || c.poison))
    mkItem ((List.range len).foldl (fun r i => r ||| (s i).rs) 0) 0 ws
  if 255 < ceilDiv (n * m) 3 then [one 0 (n / 2), one (n / 2) (n / 2)] else [one 0 n]

/-- The items a consumer pops in a stroke for `n` samples of `m` members (R190): how many, and samples a member in each. -/
def popShape (n m : Nat) : Nat × Nat := if 255 < ceilDiv (n * m) 3 then (2, n / 2) else (1, n)

/-! ### Coefficients (R204 to R206) -/

/-- Coefficient `i` as a signed number; an uncorrectable one reads zero. -/
def Dev.coef (d : Dev) (i : Nat) : Int := if d.cnv.coefUe.contains i then 0 else (kvD d.cnv.coef i 0).toInt

/-- `n` coefficients from `i`, and whether one of them is uncorrectable. -/
def Dev.coefs (d : Dev) (i n : Nat) : List Int × Bool :=
  ((List.range n).map (fun k => d.coef (i + k)), d.cnv.coefUe.any (fun u => decide (i ≤ u ∧ u < i + n)))

/-- The errors met in reading `n` coefficients from `i` (R206). -/
def Dev.coefErr (d : Dev) (i n : Nat) : Dev :=
  let d := if d.cnv.coefUe.any (fun u => decide (i ≤ u ∧ u < i + n)) then ((d.cnvCnt 7 1).set R.CNV_STAT_COEF_UE 1).ev E.COEF_ECC_UE i else d
  if d.cnv.coefCe.any (fun u => decide (i ≤ u ∧ u < i + n)) then ((d.cnvCnt 6 1).set R.CNV_STAT_COEF_CE 1).ev E.COEF_ECC_CE else d

/-! ### Filter sets (R202 to R204, R222) -/

/-- What a set does at one output sample: the bank that was active, the bank that is, and fade sample j of F; F is 0 without a fade. -/
structure SetAt where
  old : Bool
  new : Bool
  j : Nat := 0
  f : Nat := 0
  deriving DecidableEq, Repr, Inhabited

/-- A request applies while no fade runs (R203): the answer says whether the swap completes at once. -/
def SetRt.start (s : SetRt) (b : Bool) (f : Nat) : SetRt × Bool :=
  if b == s.active then (s, true)
  else if f = 0 then ({ s with active := b }, true)
  else ({ s with active := b, fadeJ := 1, fadeF := f }, false)

/-- One output sample of a set at which `reqs` apply, in their order: the set after it, what it does, and how often SWAP_DONE, SWAP_PEND and
SWAP_MERGED come about. -/
def SetRt.sample (s : SetRt) (reqs : List (Bool × Nat)) : SetRt × SetAt × Nat × Nat × Nat :=
  let (s, done) := if 0 < s.fadeF then ({ s with fadeJ := s.fadeJ + 1 }, 0)
    else match s.pend with
      | some (b, f) =>
        let (s, x) := { s with pend := none }.start b f
        (s, b2n x)
      | none => (s, 0)
  let merged := reqs.length - 1
  let (s, done, pended, merged) := match reqs.getLast? with
    | none => (s, done, 0, merged)
    | some (b, f) =>
      if 0 < s.fadeF then ({ s with pend := some (b, f) }, done, 1, merged + b2n s.pend.isSome)
      else
        let (s, x) := s.start b f
        (s, done + b2n x, 0, merged)
  if 0 < s.fadeF then
    let a : SetAt := ⟨!s.active, s.active, s.fadeJ, s.fadeF⟩
    if s.fadeF ≤ s.fadeJ then ({ s with fadeJ := 0, fadeF := 0 }, a, done + 1, pended, merged) else (s, a, done, pended, merged)
  else (s, ⟨s.active, s.active, 0, 0⟩, done, pended, merged)

/-- The output sample, of `n` in stroke `s`, at which an action for stroke position `p` applies (R196, R197): the first at or after it that is still to
be computed; none where it lies beyond the stroke, or where the pass that first met it has applied it. -/
def placeAt (n s : Nat) (p : Frac) (seen : Option Nat) : Option Nat :=
  let at' := fun r => (((p.sub (fInt (r : Nat))).mul (fInt n)).ceil).toNat
  let k := at' s
  if n ≤ k then none
  else match seen with
    | some r => if r < s ∧ at' r < n then none else some k
    | none => some k

/-- The stroke position of an action's TIME. -/
def Dev.actPos (d : Dev) (h : Handed) : Frac := d.posOf (fInt h.time)

/-- TARGET of a trigger's image bits (R406). -/
def gTarget (o : Nat) : Nat := bits o 1 3

/-- The output rate of a set's stage, in samples per stroke: of the first chain that runs it. -/
def Dev.setRate (d : Dev) (n : Nat) : Nat :=
  match (d.bank.sec S.CHAINS).find? (fun x => (hSet1En x.2 && hSet1 x.2 == n) || (hSet2En x.2 && hSet2 x.2 == n)) with
  | none => 1
  | some (_, o) => if hSet1En o && hSet1 o == n then hOutN o * hM2 o else hOutN o

/-- The requests that apply to set `n` at output `k` of `rate`: the SWAP command first, then triggers in ascending number (R222). A trigger's request with F above
XF_MAX is refused (R202). -/
def Dev.setReqs (d : Dev) (n rate k : Nat) : List (Bool × Nat) :=
  let c := match (d.fset n).due with
    | some r => if k = 0 then [r] else []
    | none => []
  let acts := d.tim.handed.filter (fun h => gTarget h.bits == 3 && bits h.bits 32 5 == n &&
    decide (bits h.bits 38 12 ≤ sXfMax (d.objD S.SETS n)) && placeAt rate d.org.num (d.actPos h) h.seen == some k)
  c ++ ((List.range 64).flatMap (fun u => acts.filter (fun h => h.unit == u))).map (fun h => (bit h.bits 37, bits h.bits 38 12))

/-- A set runs through the output samples of the stroke: what it does at each, with its events (R203, R204). -/
def Dev.setRun (d : Dev) (n : Nat) : Dev × List SetAt :=
  let rate := d.setRate n
  let (d, l) := (List.range rate).foldl (fun (x : Dev × List SetAt) k =>
    let (d, l) := x
    let (s, a, done, pended, merged) := (d.fset n).sample (d.setReqs n rate k)
    let d := d.setFset n s
    let d := if 0 < done then (d.cnvLast 3 n).ev E.SWAP_DONE n else d
    let d := if 0 < pended then (d.cnvLast 3 n).ev E.SWAP_PEND n else d
    let d := if 0 < merged then ((d.cnvCnt 1 merged).cnvLast 3 n).ev E.SWAP_MERGED n else d
    (d, a :: l)) (d, [])
  (d.setFset n { d.fset n with due := none }, l.reverse)

/-! ### CIC and FIR (R193, R194, R200) -/

/-- One input through the integrators. -/
def integStep (x : BitVec 72) : List (BitVec 72) → List (BitVec 72)
  | [] => []
  | a :: r => (a + x) :: integStep (a + x) r

/-- One decimated value through the combs. -/
def combStep (v : BitVec 72) : List (BitVec 72) → BitVec 72 × List (BitVec 72)
  | [] => (v, [])
  | p :: r =>
    let (y, r') := combStep (v - p) r
    (y, v :: r')

/-- `x` × 2^(-sh), convergently rounded. -/
def roundShift (x sh : Int) : Int := if 0 ≤ sh then roundEven x (2 ^ sh.toNat) else x * 2 ^ (-sh).toNat

/-- A FIR stage: TAPS, GAIN, the coefficients of both banks, whether a bank reads an uncorrectable coefficient, and what its set does at each output of
the stroke. -/
structure FirCfg where
  taps : Nat
  gain : Nat
  a : List Int
  b : List Int
  ueA : Bool
  ueB : Bool
  sched : List SetAt
  deriving Repr, Inhabited

/-- The sum of a bank over a delay line. -/
def firAcc (c : List Int) (x : List Smp) : Int := (c.zip x).foldl (fun s p => s + p.1 * p.2.v) 0

/-- Output `i` of the stroke of a FIR stage, over its delay line (R186, R188, R194, R203). -/
def FirCfg.out (f : FirCfg) (i : Nat) (x : List Smp) : Smp × Nat :=
  let s := f.sched.getD i ⟨false, false, 0, 0⟩
  let co := fun b => if b then f.b else f.a
  let ue := fun b => if b then f.ueB else f.ueA
  let y := if s.f = 0 then roundEven (firAcc (co s.new) x * 2 ^ f.gain) (2 ^ 23)
    else roundEven ((firAcc (co s.old) x * ((s.f : Int) - s.j) + firAcc (co s.new) x * s.j) * 2 ^ f.gain) (s.f * 2 ^ 23)
  let rs := rsPass ((x.getD (f.taps / 2) {}).rs ||| (x.getD ((f.taps - 1) / 2) {}).rs)
  mkSmp y rs (x.any Smp.poison || ue s.new || (s.f != 0 && ue s.old))

/-- A sample enters a delay line of `n` taps. -/
def pushTap (n : Nat) (s : Smp) (x : List Smp) : List Smp := (s :: x).take n

/-- A chain's stages in one pass. -/
structure ChCfg where
  o : Nat
  f1 : Option FirCfg
  f2 : Option FirCfg
  weights : List Int := []
  deriving Repr, Inhabited

/-- Input `i` of those for output `k` goes through a member's stages: an output comes at input 0, the instant of output `k` (log entry 24). -/
def ChCfg.input (c : ChCfg) (k i : Nat) (x : Smp) (m : ChMem) : ChMem × Option Smp × Nat :=
  let r := hCicR c.o
  let m1 := hM1 c.o
  let m2 := hM2 c.o
  let (m, s, clips) := if hCicK c.o = 0 then (m, x, 0)
    else
      let ig := integStep (BitVec.ofInt 72 x.v) m.integ
      if i % r = 0 then
        let (y, cb) := combStep (ig.getLastD 0) m.comb
        let (s, n) := mkSmp (roundShift y.toInt (hShift c.o)) 0 false
        ({ m with integ := ig, comb := cb }, s, n)
      else ({ m with integ := ig }, {}, 0)
  if i % r ≠ 0 then (m, none, clips)
  else match c.f1 with
    | none => (m, some { s with rs := rsPass s.rs }, clips)
    | some f1 =>
      let m := { m with d1 := pushTap f1.taps s m.d1 }
      let ci := i / r
      if ci % m1 ≠ 0 then (m, none, clips)
      else
        let si := ci / m1
        let (y, n1) := f1.out (k * m2 + si) m.d1
        match c.f2 with
        | none => (m, some y, clips + n1)
        | some f2 =>
          let m := { m with d2 := pushTap f2.taps y m.d2 }
          if si % m2 ≠ 0 then (m, none, clips + n1)
          else
            let (z, n2) := f2.out k m.d2
            (m, some z, clips + n1 + n2)

/-- The product of a polynomial and a boxcar of length `l`. -/
def boxcar (l : Nat) (p : List Int) : List Int :=
  (List.range (p.length + l - 1)).map (fun i => ((List.range l).map (fun j => if j ≤ i then p.getD (i - j) 0 else 0)).foldl (· + ·) 0)

/-- The weights of a settling window of `w` inputs (R200). -/
def settleWeights (k w : Nat) : List Int :=
  let b := (List.range k).foldl (fun p _ => boxcar (w / max 1 k) p) [1]
  List.replicate (w - b.length) 0 ++ b

/-- An input of a settling window; the answer is the output where the window ends. -/
def ChCfg.settle (c : ChCfg) (x : Smp) (m : ChMem) : ChMem × Option Smp × Nat :=
  let acc := m.acc + x.v * c.weights.getD m.wpos 0
  if m.wpos + 1 < c.weights.length then ({ m with acc := acc, wpos := m.wpos + 1 }, none, 0)
  else
    let (s, n) := mkSmp (roundShift acc (hShift c.o)) 0 false
    ({ m with acc := 0, wpos := 0 }, some s, n)

/-- The inputs for output `k` go through a member: its outputs and clips. -/
def ChCfg.chunk (c : ChCfg) (k : Nat) (xs : List Smp) (m : ChMem) : ChMem × List Smp × Nat :=
  xs.zipIdx.foldl (fun (a : ChMem × List Smp × Nat) x =>
    let (m, out, clips) := a
    let (m, y, n) := if hSettle c.o then c.settle x.1 m else c.input k x.2 x.1 m
    (m, out ++ y.toList, clips + n)) (m, [], 0)

/-! ### A chain's stroke -/

/-- A BSD clock gives its exact count: an output clock always, an input clock after two consecutive strokes of it (R452, R453). -/
def Dev.bsdClkOk (d : Dev) (c : Nat) : Bool := match d.obj S.BSD c with
  | none => false
  | some o => !bit o 1 || (decide (2 ≤ kvD d.ports.bsdGood c 0) && !d.ports.bsdBad.contains c)

/-- A direct source delivers (R195): a BSD input whose clock and block run, or a TDC stream whose reference is qualified, while the timing unit's tick clock runs. -/
def Dev.srcDelivers (d : Dev) (o : Nat) : Bool :=
  if hSrc o = 1 then
    match d.obj S.BSD (16 + hSrcIdx o) with
    | none => false
    | some b => !d.halted .bsd && d.bsdClkOk (bits b 1 2)
  else if hSrc o = 2 then d.tim.locked && (hSrcIdx o == 3 || bit (d.get R.TIME_REF_STAT_QUAL) (hSrcIdx o))
  else true

/-- A chain whose direct source does not deliver at this moment remembers it until the pass has seen the source deliver again (R195). -/
def Dev.chainsWatch (d : Dev) : Dev :=
  d.each (d.bank.sec S.CHAINS) (fun d x =>
    if hSrc x.2 = 0 || d.srcDelivers x.2 || !(d.chain x.1).srcOk then d else d.setChain x.1 { d.chain x.1 with srcOk := false })

/-- The inputs of a direct source in this stroke, `n` of them; zeros where it gives fewer. A BSD input takes its line at the edge that EDGE names (R452). Those of a TDC stream are its words of the stroke that ended at the
boundary: DESIGN CHOICE (unsafe, log entry 123). -/
def Dev.directIn (d : Dev) (inp : CnvIn) (o n : Nat) : List Smp :=
  let l : List Smp := if hSrc o = 1 then
      (((inp.bsd.find? (fun x => x.1 == hSrcIdx o)).map Prod.snd).getD []).map (fun b =>
        { v := if (if bit (d.objD S.BSD (16 + hSrcIdx o)) 3 then b.2 else b.1) then 1 else -1 })
    else (kvD d.tim.tdc (hSrcIdx o) {}).words.map (fun x => match x with
      | none => {}
      | some y => { v := y.1, rs := (if y.2.1 then rsOvf else 0) + (if y.2.2 then 32 else 0) })
  l.take n ++ List.replicate (n - l.length) ({} : Smp)

/-- The input items of a queue-fed chain, popped, as samples by member (R189, R190, R225). -/
def Dev.chainIn (d : Dev) (c o n : Nat) : Dev × (Nat → Nat → Smp) :=
  let m := hMembers o
  let (cnt, per) := popShape n m
  let (d, its) := (List.range cnt).foldl (fun (x : Dev × List (List MWord)) _ =>
    let (it, d) := x.1.qPop (hInQ o) false
    let d := if hPlen (itemHdr it) = ceilDiv (per * m) 3 then d
      else ((d.cnvCnt 3 1).cnvLast 2 c).evOnce E.IN_FMT_ERR 0 c
    let it := if hPlen (itemHdr it) = ceilDiv (per * m) 3 ∧ !bit (itemHdr it) rIdle then it else []
    (d, x.2 ++ [it])) (d, [])
  let at' : Nat → Nat → Smp := fun k j => match its.getD (k / max 1 per) [] with
    | [] => {}
    | it => itemSmp it 1 (k % max 1 per * m + j)
  (d, at')

/-- The FIR stage of set `n` with its schedule. -/
def Dev.firCfg (d : Dev) (n : Nat) (sched : Nat → List SetAt) : FirCfg :=
  let o := d.objD S.SETS n
  let (a, ua) := d.coefs (sBank o false) (sTaps o)
  let (b, ub) := d.coefs (sBank o true) (sTaps o)
  ⟨sTaps o, sGain o, a, b, ua, ub, sched n⟩

/-- The output samples at which chain `c` is reset in this stroke (R195, R196). -/
def Dev.chainSyncs (d : Dev) (c o : Nat) (resumes : Bool) : List Nat :=
  let acts := d.tim.handed.filterMap (fun h =>
    if gTarget h.bits == 2 && bit (bits h.bits 32 8) (hSyncGrp o) then placeAt (hOutN o) d.org.num (d.actPos h) h.seen else none)
  (if resumes || (d.chain c).syncDue then [0] else []) ++ acts

/-- A chain runs through the stroke on the inputs `f k j` (sample k of member j): its output samples by member, after its resets. -/
def Dev.chainRun (d : Dev) (c o : Nat) (syncs : List Nat) (f1 f2 : Option FirCfg) (f : Nat → Nat → Smp) : Dev × List (List Smp) × Nat :=
  let (mem, d) := d.chainLoad c o
  let dec := hDecim o
  let cfg : ChCfg := { o := o, f1 := f1, f2 := f2, weights := if hSettle o then settleWeights (hCicK o) (4 * dec) else [] }
  let p := d.hPrime o
  let m0 := d.chMem0 o
  let r := d.chain c
  let prime := (List.range (hOutN o)).foldl (fun (x : Nat × List Bool) k =>
    let n := if syncs.contains k then p else x.1
    (n - 1, x.2 ++ [decide (0 < n)])) (r.prime, [])
  let run := mem.zipIdx.map (fun (q : ChMem × Nat) =>
    let j := q.2
    (List.range (hOutN o)).foldl (fun (x : ChMem × List Smp × Nat) k =>
      let m := if syncs.contains k then m0 else x.1
      let (m, out, n) := cfg.chunk k ((List.range dec).map (fun i => f (k * dec + i) j)) m
      let out := if prime.2.getD k false && !hSettle o then out.map (fun _ => { v := 0, rs := rsPrime }) else out
      (m, x.2.1 ++ out, x.2.2 + n)) (q.1, [], 0))
  let d := d.setChain c { r with mem := run.map (fun x => x.1), prime := prime.1, syncDue := false }
  let d := d.chainStore o (run.map (fun x => x.1))
  (d, run.map (fun x => x.2.1), (run.map (fun x => x.2.2)).foldl (· + ·) 0)

/-- The FIR stages of a chain. -/
def Dev.chainFirs (d : Dev) (o : Nat) (sched : Nat → List SetAt) : Option FirCfg × Option FirCfg :=
  (if hSet1En o && !hSettle o then some (d.firCfg (hSet1 o) sched) else none,
   if hSet2En o && !hSettle o then some (d.firCfg (hSet2 o) sched) else none)

/-- The errors met in reading the banks of set `n` that its schedule uses (R206). -/
def Dev.setErr (d : Dev) (n : Nat) (sched : Nat → List SetAt) : Dev :=
  let o := d.objD S.SETS n
  let uses := fun b => (sched n).any (fun a => a.new == b || (a.f != 0 && a.old == b))
  d.each ([false, true].filter uses) (fun d b => d.coefErr (sBank o b) (sTaps o))

/-- The stroke of chain `c` (R183, R195). One that is abandoned (`skip`) takes its input as zero and pushes nothing (R184). -/
def Dev.chainPass (d : Dev) (inp : CnvIn) (sched : Nat → List SetAt) (skip : Bool) (c o : Nat) : Dev :=
  let n := hOutN o * hDecim o
  let ok := d.srcDelivers o
  let resumes := hSrc o != 0 && ok && !(d.chain c).srcOk
  let d := if hSrc o = 0 then d else d.setChain c { d.chain c with srcOk := ok }
  let d := if resumes then (d.cnvLast 2 c).ev E.CNV_SRC_RESUME c else d
  let (d, f) := if hSrc o = 0 then d.chainIn c o n
    else
      let l : List Smp := if ok then d.directIn inp o n else []
      (d, fun k _ => l.getD k { v := 0 })
  let f := if skip then (fun _ _ => ({} : Smp)) else f
  let (f1, f2) := d.chainFirs o sched
  let d := if f1.isSome then d.setErr (hSet1 o) sched else d
  let d := if f2.isSome then d.setErr (hSet2 o) sched else d
  let syncs := d.chainSyncs c o resumes
  let d := if (d.chainSyncs c o false).isEmpty then d else (d.cnvLast 2 c).ev E.CNV_SYNC_DONE c
  let (d, out, clips) := d.chainRun c o syncs f1 f2 f
  if skip then d else
  let d := d.cnvClip 2 c clips
  let per := (out.getD 0 []).length
  d.each (smpItems per (hMembers o) (fun k j => (out.getD j []).getD k {})) (fun d it => d.qPush (hOutQ o) it)

/-! ### Lanes (R209 to R218) -/

/-- An entry of a lane's history is written (R211). -/
def Dev.histWrite (d : Dev) (n o t : Nat) (s : Smp) : Dev :=
  let l := d.lane n
  let newer := match l.newest with
    | none => true
    | some x => decide (0 < signedOf 32 (fieldOf 32 ((t : Int) - x)))
  let d := d.setLane n { l with newest := if newer then some t else l.newest }
  d.resWrite (lHist o + t % lHistLen o) (mkW (packLanes (fieldOf 24 s.v) (t / 256) (1 + s.rs % 128 * 2)) false false (s.rs != 0) s.poison)

/-- Input sample `t` of a lane, `none` where it is absent (R211). -/
def Dev.histRead (d : Dev) (o t : Nat) : Option Smp × Dev :=
  let (w, d) := d.resRead (lHist o + t % lHistLen o)
  let x := wData w
  if bit x 48 && bits x 24 24 == t / 256 then (some { v := sLane x 0, rs := bits x 49 7, poison := wPoison w }, d) else (none, d)

/-- Members of a FIXED input item of COUNT samples: the fewest that reach every lane's slot and fill its PLEN, else as many as fit (log entry 25). -/
def fixedMembers (plen cnt top : Nat) : Nat :=
  match ((List.range 64).map (· + 1)).find? (fun m => decide (top < m ∧ ceilDiv (cnt * m) 3 = plen - 1)) with
  | some m => m
  | none => max 1 (3 * (plen - 1) / max 1 cnt)

/-- The lanes of an input group. -/
def Dev.laneGroupIn (d : Dev) (q : Nat) : Kv Nat := (d.bank.sec S.LANES).filter (fun x => lInQ x.2 == q)

/-- The lanes of an output group. -/
def Dev.laneGroupOut (d : Dev) (q : Nat) : Kv Nat := (d.bank.sec S.LANES).filter (fun x => lOutQ x.2 == q)

/-- The item of a stroke is written into the history of one lane (R209, R211), as zero samples where its group is abandoned (`zero`, R184). -/
def Dev.laneWrite (d : Dev) (it : List MWord) (top : Nat) (zero : Bool) (n o : Nat) : Dev :=
  let smp := fun i => if zero then ({} : Smp) else itemSmp it 2 i
  let idle := bit (itemHdr it) rIdle
  let w1 := wData (it.getD 1 0)
  if lFixed o then
    let cnt := bits w1 0 8
    let m := fixedMembers (hPlen (itemHdr it)) cnt top
    let l := d.lane n
    let d := d.setLane n { l with next := (l.next + cnt) % 2 ^ 32 }
    if idle then d else d.each (List.range cnt) (fun d k => d.histWrite n o ((l.next + k) % 2 ^ 32) (smp (k * m + lInSlot o)))
  else if idle then d
  else
    let ch := bits w1 52 5
    d.each (List.range (bits w1 48 4)) (fun d k =>
      d.histWrite n o ((w1 + k) % 2 ^ 32) (smp (k * 3 * ceilDiv ch 3 + lCh o)))

/-- The item of an input queue is popped, once in a pass, and shared by its enabled lanes (R207, R218). -/
def Dev.lanePop (d : Dev) (q : Nat) : Dev :=
  if d.cnv.pops.contains q then d
  else
    let d := { d with cnv := { d.cnv with pops := q :: d.cnv.pops } }
    let (it, d) := d.qPop q false
    let g := d.laneGroupIn q
    let top := g.foldl (fun m x => max m (lInSlot x.2)) 0
    d.each g (fun d x => if (d.lane x.1).en then d.laneWrite it top (d.cnv.skip.contains (true, lOutQ x.2)) x.1 x.2 else d)

/-- D_CUR for the next output sample (R215). -/
def LaneRt.slew (l : LaneRt) (o k : Nat) : Nat :=
  let t := l.dTgt * 256
  if lDSlew o = 0 then (if k = 0 then t else l.dCur)
  else if l.dCur < t then min t (l.dCur + lDSlew o) else max t (l.dCur - lDSlew o)

/-- The position of the instant `q` on a lane's source timeline, in RTP units (R210); none where its cistern has no anchor. -/
def Dev.lanePos (d : Dev) (l : LaneRt) (o : Nat) (q : Frac) : Option Frac :=
  if lFixed o then
    some (l.i0.add ((q.sub (fInt l.s0)).mul (mkFrac (lIrate o * l.ratio) (8000 * 2 ^ 40))))
  else
    let co := d.objD S.CISTERNS (lCis o)
    let c := d.cistern (lCis o)
    if cLocked co then some (((d.nsOf q).mul (mkFrac (cRate co) (10 ^ 9))).add (fInt c.pubOfs.toNat))
    else c.pubAnchor.map (fun a =>
      (fInt a.ts).add ((q.sub (mkFrac a.pos 65536)).mul (mkFrac (cRate co * c.pub) (8000 * 2 ^ 40))))

/-- Input sample `t` is newer than every sample already written to the lane's history (R214). -/
def LaneRt.newer (l : LaneRt) (t : Int) : Bool := match l.newest with
  | none => true
  | some nw => decide (0 < signedOf 32 (fieldOf 32 (t - nw)))

/-- The interpolated output at position `x`, in 2^-40 RTP unit (R212, R213): the sample, its clip, and how many absent samples it reads that are newer than
every sample written (R214). At an integer position BYPASS_INT reads sample xi, and xi + 1 for the mark of R212 only. -/
def Dev.laneOut (d : Dev) (l : LaneRt) (o x : Nat) : Dev × Smp × Nat × Nat :=
  let xi : Nat := x / 2 ^ 40 % 2 ^ 32
  let copy := lBypass o && x % 2 ^ 40 == 0
  let (d, win) := (List.range 48).foldl (fun (a : Dev × List (Option Smp)) (j : Nat) =>
    if copy && j != 23 && j != 24 then (a.1, a.2 ++ [none])
    else
      let (s, d) := a.1.histRead o (fieldOf 32 ((xi : Int) - 23 + j))
      (d, a.2 ++ [s])) (d, [])
  let late := (win.zipIdx.filter (fun s => s.1.isNone && (!copy || s.2 == 23) && l.newer ((xi : Int) - 23 + s.2))).length
  let c0 := (win.getD 23 none)
  let c1 := (win.getD 24 none)
  let concl := if c0.isNone && c1.isNone then rsConceal else 0
  let frac : Nat := x % 2 ^ 40
  if copy then
    let s := c0.getD {}
    (d, { s with rs := rsPass s.rs ||| concl }, 0, late)
  else
    let w0 : Nat := (roundEven ((frac % 2 ^ 32 : Nat) : Int) (2 ^ 16)).toNat
    let p : Nat := frac / 2 ^ 32 + w0 / 65536
    let w := w0 % 65536
    let base := d.bank.proto.getD (lProto o) 0
    let (h0, ue0) := d.coefs (base + 48 * p) 48
    let (h1, ue1) := if w = 0 then (h0, false) else d.coefs (base + 48 * (p + 1)) 48
    let d := d.coefErr (base + 48 * p) (if w = 0 then 48 else 96)
    let c := (h0.zip h1).map (fun a => a.1 + roundEven ((a.2 - a.1) * w) 65536)
    let y := roundEven ((c.zip win).foldl (fun s a => s + a.1 * (match a.2 with
      | some q => q.v
      | none => 0)) 0) (2 ^ 23)
    let rs := rsPass ((c0.getD {}).rs ||| (c1.getD {}).rs) ||| concl
    let (s, n) := mkSmp y rs (win.any (fun q => (q.getD {}).poison) || ue0 || ue1)
    (d, s, n, late)

/-- Output sample `k` of lane `n` (R210 to R214). -/
def Dev.laneSample (d : Dev) (n o k : Nat) : Dev × Smp :=
  let l := d.lane n
  let l := { l with dCur := l.slew o k }
  let q := (((fInt d.org.num).add (mkFrac k (lN o))).sub (fInt (lLat o))).sub (mkFrac l.dCur (65536 * lN o))
  match d.lanePos l o q with
  | none => (d.setLane n (l.add 3), { rs := rsConceal })
  | some p =>
    let x := fieldOf 72 (p.roundMul (2 ^ 40))
    let (d, s, clip, late) := d.laneOut l o x
    let l := { l with xLast := x }
    let l := if s.rs &&& rsConceal != 0 then l.add 3 else l
    let l := if clip = 0 then l else l.add 2
    let l := { l with cnt := l.cnt.modify 0 (· + BitVec.ofNat 32 late) }
    let d := (d.setLane n l).cnvClip 1 n clip
    (if 0 < late then ((d.cnvCnt 4 late).cnvLast 1 n).evOnce E.LANE_LATE 0 n else d, s)

/-- An enabled lane whose cistern has published a source jump (R216). -/
def Dev.laneJump (d : Dev) (n o : Nat) : Dev :=
  if (d.lane n).en && !lFixed o && (d.cistern (lCis o)).pubJump then
    (((d.setLane n ((d.lane n).add 1)).cnvCnt 5 1).cnvLast 1 n).ev E.LANE_JUMP n
  else d

/-- The output samples of lane `n` in this stroke. -/
def Dev.laneRun (d : Dev) (n o : Nat) : Dev × List Smp :=
  if !(d.lane n).en then (d, [])
  else
    let d := d.laneJump n o
    (List.range (lN o)).foldl (fun (x : Dev × List Smp) k =>
      let (d, s) := x.1.laneSample n o k
      (d, x.2 ++ [s])) (d, [])

/-- The stroke of the lane group of output queue `q` (R183, R207). -/
def Dev.laneGroupPass (d : Dev) (q : Nat) : Dev :=
  let g := d.laneGroupOut q
  let d := d.each g (fun d x => d.lanePop (lInQ x.2))
  let (d, outs) := g.foldl (fun (a : Dev × List (Nat × List Smp)) x =>
    let (d, s) := a.1.laneRun x.1 x.2
    (d, a.2 ++ [(lOutSlot x.2, s)])) (d, [])
  let m := g.foldl (fun m x => max m (lOutSlot x.2 + 1)) 0
  let n := match g with
    | [] => 0
    | x :: _ => lN x.2
  d.each (smpItems n m (fun k j => ((outs.find? (fun x => x.1 == j)).map (fun x => x.2.getD k {})).getD {})) (fun d it => d.qPush q it)

/-! ### The pass (R183, R184) -/

/-- The class of the lane group of output queue `q`: the lowest of its lanes' (log entry 120). -/
def Dev.groupClass (d : Dev) (q : Nat) : Nat := (d.laneGroupOut q).foldl (fun c x => min c (lClass x.2)) 3

/-- The output queues of the lane groups in class `cls`, in ascending number of their lowest lane. -/
def Dev.laneGroups (d : Dev) (cls : Nat) : List Nat :=
  ((d.bank.sec S.LANES).foldl (fun l x => if l.contains (lOutQ x.2) then l else l ++ [lOutQ x.2]) []).filter (fun q => d.groupClass q == cls)

/-- D_CUR of the lanes of an abandoned group moves on over the stroke (R184, R215). -/
def Dev.groupSlew (d : Dev) (q : Nat) : Dev :=
  d.each (d.laneGroupOut q) (fun d x =>
    let l := d.lane x.1
    if !l.en then d else d.setLane x.1 { l with dCur := (List.range (lN x.2)).foldl (fun c k => { l with dCur := c }.slew x.2 k) l.dCur })

/-- An abandoned lane group: the items of the stroke go into its histories as zero samples (R184), and a source jump counts (R216). -/
def Dev.laneGroupZero (d : Dev) (q : Nat) : Dev :=
  ((d.each (d.laneGroupOut q) (fun d x => d.lanePop (lInQ x.2))).each (d.laneGroupOut q) (fun d x => d.laneJump x.1 x.2)).groupSlew q

/-- What filter sets do in the stroke, by set. -/
def Dev.setRuns (d : Dev) (sets : List Nat) : Dev × Kv (List SetAt) :=
  sets.foldl (fun (x : Dev × Kv (List SetAt)) n =>
    let (d, l) := x.1.setRun n
    (d, x.2 ++ [(n, l)])) (d, [])

/-- The triggered actions of the targets `t` that the pass of the stroke has met: one whose time lies in it stays for those that come later in the next (R197). -/
def Dev.actsMet (d : Dev) (t : Nat → Bool) : Dev :=
  let keep := d.tim.handed.filterMap (fun h =>
    if !t (gTarget h.bits) then some h
    else if (d.actPos h).floor < d.org.num + 1 then (match h.seen with
      | none => some { h with seen := some d.org.num }
      | some _ => none)
    else some h)
  { d with tim := { d.tim with handed := keep } }

/-- The pass of the stroke: chains and lane groups in ascending class, but for those abandoned. -/
def Dev.cnvPass (d : Dev) (inp : CnvIn) : Dev :=
  if d.isolated .cnv || d.cnv.passed == some d.org.num then d
  else
    let d := { d with cnv := { d.cnv with
      passed := some d.org.num, pops := [], coefUe := inp.coefUe.foldl (fun l i => insNat i l) d.cnv.coefUe
      coefCe := inp.coefCe.foldl (fun l i => insNat i l) d.cnv.coefCe } }
    let (d, scheds) := d.setRuns (d.idxs S.SETS)
    let sched := fun n => kvD scheds n []
    let d := d.each [0, 1, 2, 3] (fun d cls =>
      let d := d.each ((d.bank.sec S.CHAINS).filter (fun x => hClass x.2 == cls)) (fun d x =>
        d.chainPass inp sched (d.cnv.skip.contains (false, x.1)) x.1 x.2)
      d.each (d.laneGroups cls) (fun d q => if d.cnv.skip.contains (true, q) then d.laneGroupZero q else d.laneGroupPass q))
    d.actsMet (fun t => t == 2 || t == 3)

/-- A chain, or the lane group of an output queue, has not pushed its items by cycle 156,249 (R184): it is abandoned for the stroke and its queues arm
their fallback. Its delay lines and histories advance with zero input when the pass comes to it, or at the boundary where no pass has run (log entry 26). -/
def Dev.cnvOverrun (d : Dev) (lanes : Bool) (idx : Nat) : Dev :=
  if d.isolated .cnv || d.cnv.passed == some d.org.num || d.cnv.skip.contains (lanes, idx) then d
  else
    let known := if lanes then !(d.laneGroupOut idx).isEmpty else (d.obj S.CHAINS idx).isSome
    if !known then d
    else
      let d := { d with cnv := { d.cnv with skip := (lanes, idx) :: d.cnv.skip } }
      let q := if lanes then idx else hOutQ (d.objD S.CHAINS idx)
      let d := if d.qValid q then d.setQ q { d.q q with fbArmed := true } else d
      let first := match d.laneGroupOut idx with
        | [] => 0
        | x :: _ => x.1
      (((d.cnvCnt 2 1).set R.CNV_STAT_PASS_OVR 1).cnvLast (if lanes then 1 else 2) (if lanes then first else idx)).ev E.CNV_OVERRUN
        (if lanes then first else idx)

/-- `f` in the stroke that has just ended, at the boundary that ends it. -/
def Dev.backOne (d : Dev) (f : Dev → Dev) : Dev :=
  let d' := f { d with org := { d.org with num := d.org.num - 1 } }
  { d' with org := { d'.org with num := d.org.num } }

/-- A stroke without a pass ends: what was abandoned in it goes on as if the stroke had been computed with zero input, the filter sets of its chains with it
(R184, R196). -/
def Dev.cnvAdvance (d : Dev) : Dev :=
  if d.isolated .cnv || d.cnv.passed == some (d.org.num - 1) || d.cnv.skip.isEmpty then d
  else d.backOne (fun d =>
    let d := { d with cnv := { d.cnv with pops := [] } }
    let chains := (d.cnv.skip.filter (fun x => !x.1)).map (fun x => d.objD S.CHAINS x.2)
    let sets := (d.idxs S.SETS).filter (fun n => chains.any (fun o => !hSettle o && ((hSet1En o && hSet1 o == n) || (hSet2En o && hSet2 o == n))))
    let (d, scheds) := d.setRuns sets
    let d := d.each d.cnv.skip (fun d x =>
      if x.1 then d.laneGroupZero x.2 else d.chainPass { bsd := [] } (fun n => kvD scheds n []) true x.2 (d.objD S.CHAINS x.2))
    if chains.isEmpty then d else d.actsMet (fun t => t == 2 || t == 3))

/-! ### Boundary and commands (R202, R215 to R218, R223) -/

/-- The position of the boundary of stroke `s` becomes I0 under a new RATIO_F (R217). -/
def LaneRt.reRatio (l : LaneRt) (o s r : Nat) : LaneRt :=
  { l with i0 := l.i0.add ((fInt ((s : Int) - l.s0)).mul (mkFrac (lIrate o * l.ratio) (8000 * 2 ^ 40))), s0 := s, ratio := r, rPend := none }

/-- The history of a lane is cleared, and its samples are numbered anew (R218; log entry 23). -/
def Dev.laneClear (d : Dev) (n o : Nat) : Dev :=
  let d := d.each (List.range (lHistLen o)) (fun d k => d.resWrite (lHist o + k) 0)
  d.setLane n { d.lane n with newest := none, next := 0, i0 := {}, s0 := d.org.num }

/-- The commands of a lane that wait for the boundary (R215, R217, R218, R222). -/
def Dev.laneBoundary (d : Dev) (n o : Nat) : Dev :=
  let l := d.lane n
  let d := match l.enPend with
    | none => d
    | some true => (d.setLane n { l with en := true, enPend := none }).laneClear n o
    | some false => d.setLane n { l with en := false, enPend := none }
  let l := d.lane n
  let l := match l.rPend with
    | none => l
    | some r => l.reRatio o d.org.num r
  let l := match l.dPend with
    | none => l
    | some x => { l with dTgt := x, dPend := none }
  d.setLane n l

/-- CNV at a stroke boundary: lane commands apply, SWAP and SYNC commands fall due. -/
def Dev.cnvBoundary (d : Dev) : Dev :=
  if d.isolated .cnv then d
  else
    let d := { d with cnv := { d.cnv with skip := [] } }
    let d := d.each (d.bank.sec S.LANES) (fun d x => d.laneBoundary x.1 x.2)
    let d := d.each (d.idxs S.SETS) (fun d n =>
      let s := d.fset n
      match s.cmd with
      | none => d
      | some r => d.setFset n { s with cmd := none, due := some r })
    d.each (d.idxs S.CHAINS) (fun d n =>
      let c := d.chain n
      if c.syncCmd then d.setChain n { c with syncCmd := false, syncDue := true } else d)

/-- The 512 bits of a lane descriptor (R207). -/
def Dev.laneDesc (d : Dev) (n : Nat) : Nat :=
  let l := d.lane n
  setBits (d.objD S.LANES n % 2 ^ 256) 160 48 l.ratio + b2n l.en * 2 ^ 256 + l.dTgt % 2 ^ 20 * 2 ^ 257 + l.dCur % 2 ^ 28 * 2 ^ 277 +
    l.xLast % 2 ^ 72 * 2 ^ 305 + l.s0 % 2 ^ 32 * 2 ^ 377 + fieldOf 32 l.i0.floor * 2 ^ 409

/-- The 512 bits of a chain descriptor (R191). -/
def Dev.chainDesc (d : Dev) (n : Nat) : Nat :=
  let c := d.chain n
  d.objD S.CHAINS n % 2 ^ 256 + c.prime % 2 ^ 14 * 2 ^ 256 + b2n (hSrc (d.objD S.CHAINS n) != 0 && d.srcDelivers (d.objD S.CHAINS n)) * 2 ^ 270

/-- The 128 bits of a filter set descriptor (R201). -/
def Dev.setDesc (d : Dev) (n : Nat) : Nat :=
  let s := d.fset n
  let p := s.pend.getD (false, 0)
  d.objD S.SETS n % 2 ^ 68 + b2n s.active * 2 ^ 68 + s.fadeJ % 4096 * 2 ^ 69 + s.fadeF % 4096 * 2 ^ 81 + b2n s.pend.isSome * 2 ^ 93 +
    b2n p.1 * 2 ^ 94 + p.2 % 4096 * 2 ^ 95

/-- CNV_CMD OP 1 to 10 (R223). -/
def Dev.cnvCmd (d : Dev) (req : Requester) (op : Nat) : Dev :=
  d.command C.cnv req (if op = 1 ∨ op = 2 ∨ op = 3 ∨ op = 10 then .none else .oper) (fun d =>
    let n := d.get R.CNV_IDX_IDX
    let a := d.get R.CNV_ARG_ARG
    let sec := if op = 2 then S.CHAINS else if op = 3 ∨ op = 8 then S.SETS else S.LANES
    let o := d.objD sec n
    let l := d.lane n
    if op < 1 ∨ 10 < op then .error 2
    else if op ≠ 9 ∧ (d.obj sec n).isNone then .error 1
    else if op = 1 then .ok (d.setWords R.CNV_DATA_D 16 (d.laneDesc n))
    else if op = 2 then .ok (d.setWords R.CNV_DATA_D 16 (d.chainDesc n))
    else if op = 3 then .ok (d.setWords R.CNV_DATA_D 16 (d.setDesc n))
    else if op = 10 then .ok (d.each l.cnt.zipIdx (fun d x => d.set (R.CNV_DATA_D x.2) x.1.toNat))
    else if d.isolated .cnv then .error 2
    else if op = 4 then .ok (d.setLane n { l with enPend := some true })
    else if op = 5 then .ok (d.setLane n { l with enPend := some false })
    else if op = 6 then (if a % 2 ^ 20 ≤ lDMax o * 256 then .ok (d.setLane n { l with dPend := some (a % 2 ^ 20) }) else .error 2)
    else if op = 7 then
      if lFixed o then .ok (d.setLane n { l with rPend := some (d.get R.CNV_ARG2_ARG % 65536 * 2 ^ 32 + a) }) else .error 2
    else if op = 8 then
      if sXfMax o < bits a 16 12 then .error 2
      else
        let s := d.fset n
        let d := d.setFset n { s with cmd := some (bit a 0, bits a 16 12) }
        .ok (if s.cmd.isSome then ((d.cnvCnt 1 1).cnvLast 3 n).ev E.SWAP_MERGED n else d)
    else .ok (d.each (d.bank.sec S.CHAINS) (fun d x =>
      if bit (a % 256) (hSyncGrp x.2) then d.setChain x.1 { d.chain x.1 with syncCmd := true } else d)))

/-- Coefficient index `i` may not be written (R205): it lies in a prototype, or in a bank that is active, fading, or the target of a pending
request. -/
def Dev.coefLocked (d : Dev) (i : Nat) : Bool :=
  d.bank.proto.any (fun b => b != 0xFFFFFFFF && decide (b ≤ i ∧ i < b + 257 * 48)) ||
  (d.bank.sec S.SETS).any (fun x =>
    let s := d.fset x.1
    let used := fun b => s.active == b || 0 < s.fadeF || (s.pend.map Prod.fst == some b) || (s.cmd.map Prod.fst == some b) || (s.due.map Prod.fst == some b)
    [false, true].any (fun b => used b && decide (sBank x.2 b ≤ i ∧ i < sBank x.2 b + sTaps x.2)))

/-- A write to CNV_COEF_DATA (R205, R224). -/
def Dev.coefWrite (d : Dev) (req : Requester) (val : Nat) : Dev :=
  if !d.oper req then d.denied
  else
    let i := d.get R.CNV_COEF_ADDR_ADDR
    let d := if d.coefLocked i then d.set R.CNV_STAT_COEF_ERR 1
      else { d with cnv := { d.cnv with coef := kvPut 0 i (BitVec.ofNat 24 val) d.cnv.coef,
                                        coefUe := d.cnv.coefUe.filter (· != i), coefCe := d.cnv.coefCe.filter (· != i) } }
    d.set R.CNV_COEF_ADDR_ADDR (i + 1)

/-- The conversion pass (R183). -/
def execCnvPass (w : When) (inp : CnvIn) (s : State) : Out := s.runMain w (·.cnvPass inp)

/-- A chain or lane group is abandoned (R184). -/
def execCnvOverrun (w : When) (lanes : Bool) (idx : Nat) (s : State) : Out := s.runMain w (·.cnvOverrun lanes idx)

/-- CNV_CMD READ lane (R223). -/
def execLaneRead (w : When) (req : Requester) (s : State) : Out := s.runReq w req (·.cnvCmd req 1)

/-- CNV_CMD READ chain (R223). -/
def execChainRead (w : When) (req : Requester) (s : State) : Out := s.runReq w req (·.cnvCmd req 2)

/-- CNV_CMD READ set (R223). -/
def execSetRead (w : When) (req : Requester) (s : State) : Out := s.runReq w req (·.cnvCmd req 3)

/-- CNV_CMD LANE_ENABLE (R218). -/
def execLaneEnable (w : When) (req : Requester) (s : State) : Out := s.runReq w req (·.cnvCmd req 4)

/-- CNV_CMD LANE_DISABLE (R218). -/
def execLaneDisable (w : When) (req : Requester) (s : State) : Out := s.runReq w req (·.cnvCmd req 5)

/-- CNV_CMD LANE_DELAY (R215). -/
def execLaneDelay (w : When) (req : Requester) (s : State) : Out := s.runReq w req (·.cnvCmd req 6)

/-- CNV_CMD LANE_RATIO (R217). -/
def execLaneRatio (w : When) (req : Requester) (s : State) : Out := s.runReq w req (·.cnvCmd req 7)

/-- CNV_CMD SWAP (R202). -/
def execSwap (w : When) (req : Requester) (s : State) : Out := s.runReq w req (·.cnvCmd req 8)

/-- CNV_CMD SYNC (R196). -/
def execSync (w : When) (req : Requester) (s : State) : Out := s.runReq w req (·.cnvCmd req 9)

/-- CNV_CMD lane counters (R224). -/
def execLaneCounters (w : When) (req : Requester) (s : State) : Out := s.runReq w req (·.cnvCmd req 10)

/-- A coefficient is written (R205). -/
def execCoefWrite (w : When) (req : Requester) (val : Word) (s : State) : Out := s.runReq w req (·.coefWrite req val.toNat)

end Sys2Proof.Machine
end

