-- ==== Sys2Proof/Machine/Time.lean ====
section
/-! DEFINITION. The timing unit (R390 to R431): clock commands and adjustment points, slew, the servo assist, triggers, captures, the return
queues, reference inputs and the DCO. -/

namespace Sys2Proof.Machine

/-- The timing unit is changed by `f`. -/
def Dev.onTim (d : Dev) (f : Tim → Tim) : Dev := { d with tim := f d.tim }

/-! ### Validity and the clock commands (R391 to R399) -/

/-- VALID becomes 1; a start of the origin that waited for it counts its 1 ms from now (R47, R391). -/
def Dev.clkBecomesValid (d : Dev) : Dev :=
  if d.clkValid then d
  else
    let d := (d.set R.TIME_STAT_VALID 1).ev E.TIME_VALID
    if d.flag R.STK_STAT_CLK_INVALID then
      { d.set R.STK_STAT_CLK_INVALID 0 with org := { d.org with enReq := some d.xoNs } }
    else d

/-- The reading becomes `t48` (2^-48 ns) in the construction in force. -/
def Tim.load (t : Tim) (free : Bool) (t48 : Int) : Tim :=
  if free then { t with t0 := t48.toNat % (tWrap * 2 ^ 16), c0 := t.c }
  else { t with t := (t48 / 2 ^ 16).toNat % tWrap }

/-- In FREE mode the clock is re-anchored (R393). -/
def Tim.anchor (t : Tim) (free : Bool) : Tim := if free then t.load true (t.now48 true) else t

/-- The phase that S adds to a tick in the construction in force, in 2^-48 ns: what it moves the rate by within its limits (R394), and the increment of STEPPED mode
(R392). -/
def Tim.slewTick (t : Tim) (free : Bool) : Int :=
  let u := { t with s := 0 }
  if free then t.rate - u.rate else (t.inc - u.inc) * 2 ^ 16

/-- A interval of 125,000 ticks begins: A is reduced by the phase that S is to add over it (R396). -/
def Tim.takeSlew (t : Tim) (free : Bool) : Tim := { t with a := t.a - t.slewTick free * 125000 }

/-- A is brought to what S has left of it: the phase that S has added is exactly what it takes (R396). `A` was reduced for 125,000 ticks when the
interval began. -/
def Tim.settleSlew (t : Tim) (free : Bool) : Tim :=
  match t.adjC with
  | none => t
  | some c => { t with a := t.a + t.slewTick free * (125000 - ((t.c - c).toNat : Int)) }

/-- TRACK with the filters cleared (R396, R425). EST is a register field. -/
def Tim.track (t : Tim) : Tim := { t with saVer := none, saFilt := [] }

/-- The servo assist returns to TRACK with its filters and EST cleared (R425). -/
def Dev.saClear (d : Dev) : Dev :=
  let d := d.onTim Tim.track
  let d := d.each [0, 1, 2, 3] (fun d p => d.set (R.TIME_SA_EST_EST p) 0)
  (d.set R.TIME_SA_STAT_VERIFY 0).set R.TIME_SA_STAT_PATH 0

/-- A clock command applies (R396). -/
def Dev.clkApply (d : Dev) (c : ClkCmd) : Dev :=
  let free := d.freeMode
  match c with
  | .set t => ((d.onTim (fun x => { x.load free t with a := 0, s := 0 })).saClear).clkBecomesValid
  | .step dt => d.onTim (fun x => x.load free ((x.now48 free : Int) + dt))
  | .freq f => d.onTim (fun x => { x with f := f })
  | .adj dt => d.onTim (fun x => { x with a := x.a + dt })

/-- The slew limit in force (R430). -/
def Dev.slewLim (d : Dev) : Nat := clampNat 1 100000 (d.get R.TIME_SLEW_LIM_NSPS)

/-- The slew at an adjustment point (R396); `had` says that there is one. In VERIFY it waits (R425). -/
def Dev.slew (d : Dev) (had : Bool) : Dev :=
  if d.tim.saVer.isSome || !had then d
  else
    let lim := d.slewLim
    let a := d.tim.a
    if lim * 125 * 2 ^ 48 ≤ a.natAbs * 10 ^ 6 then
      let s := (if a < 0 then -1 else 1) * roundEven (lim * 2 ^ 48 : Nat) (10 ^ 9)
      let free := d.freeMode
      d.onTim (fun x => { x with s := s }.takeSlew free)
    else
      let free := d.freeMode
      (d.onTim (fun x => { x.load free ((x.now48 free : Int) + a) with a := 0, s := 0 })).ev E.TIME_ADJ_DONE

/-- A, which a slew is draining, is reduced by what S adds under another construction over what is left of the interval (R396, R397). -/
def Tim.slewOver (t : Tim) (was free : Bool) : Tim :=
  match t.adjC with
  | none => t
  | some c => { t with a := t.a + (t.slewTick was - t.slewTick free) * (125000 - ((t.c - c).toNat : Int)) }

/-- The switch of construction, with the reading continuous (R397). -/
def Dev.modeSwitch (d : Dev) (free : Bool) : Dev :=
  let now := d.now48
  let was := d.freeMode
  let d := d.onTim (fun x => { (x.slewOver was free).load free now with modePend := none })
  ((d.set R.TIME_CTL_MODE (b2n free)).set R.TIME_CTL_MODE_PEND 0).ev E.TIME_MODE_DONE

/-! ### Triggers (R406 to R411) -/

/-- PW_NS of a PIN unit. -/
def gPwNs (o : Nat) : Nat := bits o 32 24

/-- The run-time part of trigger `i`. -/
def Dev.trig (d : Dev) (i : Nat) : TrigRt := kvD d.tim.trigs i {}

/-- The run-time part of trigger `i` is replaced. -/
def Dev.setTrig (d : Dev) (i : Nat) (r : TrigRt) : Dev := d.onTim (fun x => { x with trigs := kvSet i r x.trigs })

/-- TIME of a trigger in ns since the TAI epoch. -/
def TrigRt.time (r : TrigRt) : Nat := r.sec.toNat * 10 ^ 9 + r.ns.toNat

/-- A trigger with another TIME. -/
def TrigRt.withTime (r : TrigRt) (t : Nat) : TrigRt := { r with sec := BitVec.ofNat 48 (t / 10 ^ 9), ns := BitVec.ofNat 32 (t % 10 ^ 9) }

/-- The instance after the present one, or the end of a single shot (R407, R408). -/
def TrigRt.next (r : TrigRt) : TrigRt := if r.period = 0 then { r with armed := false } else r.withTime (r.time + r.period.toNat)

/-- The action and TIME of an instance go to the target block, if they have not gone before (R410). -/
def Dev.handOver (d : Dev) (i time : Nat) : Dev :=
  let o := d.objD S.TRIGGERS i
  let r := d.trig i
  if 2 ≤ gTarget o && gTarget o ≤ 4 && decide (r.given < time) then
    (d.setTrig i { r with given := time }).onTim (fun x => { x with handed := x.handed ++ [{ unit := i, bits := o, time := time }] })
  else d

/-- The unit of the quiet window fires (R551): while an image is active and no window runs (R566), a window is to open at the next boundary. -/
def Dev.quietFire (d : Dev) (i : Nat) : Dev :=
  if d.flag R.CAL_QW_EN && d.get R.CAL_QW_TRIG == i && d.img.active.isSome && d.cal.win.isNone then { d with cal := { d.cal with fired := true } } else d

/-- A PIN unit drives its pin for PW_NS (R409): its leading edge lies at TIME, or, for a late fire, at the place of now on the grid of 250 ps. -/
def Dev.pulseStart (d : Dev) (i : Nat) : Dev :=
  let p : PulseRt := { edge := max (4 * (d.trig i).time) (d.now48 / 2 ^ 46), since := d.rst.xoUs * 1000 + d.rst.xoSub, width := gPwNs (d.objD S.TRIGGERS i) }
  d.onTim (fun x => { x with pulses := kvSet i p x.pulses })

/-- Instance TIME of unit `i` fires: its action (R409, R410). -/
def Dev.trigAct (d : Dev) (i : Nat) : Dev :=
  if gTarget (d.objD S.TRIGGERS i) = 0 then d.quietFire i
  else if gTarget (d.objD S.TRIGGERS i) = 1 then d.pulseStart i
  else d.handOver i (d.trig i).time

/-- An instance is missed (R407, R408). -/
def Dev.trigMiss (d : Dev) (i n : Nat) : Dev :=
  let r := d.trig i
  ((d.setTrig i { r with missed := true, missCnt := BitVec.ofNat 16 (min 65535 (r.missCnt.toNat + n)) }).count
    (R.TIME_CNT_COUNT 2) n).ev E.TRIG_MISSED i

/-- The table of R407 for instance TIME of an armed unit that the clock has reached or passed. -/
def Dev.trigLate (d : Dev) (i : Nat) : Dev :=
  let r := d.trig i
  let late := d.now48 - r.time * 2 ^ 48
  let d := if late ≤ r.lateWin.toNat * 2 ^ 48 then
      let l := BitVec.ofNat 30 (late / 2 ^ 48)
      ((((d.setTrig i { r with late := true, lateness := l }).trigAct i).count (R.TIME_CNT_COUNT 1)).ev E.TRIG_LATE i l.toNat)
    else d.trigMiss i 1
  d.setTrig i (d.trig i).next

/-- The clock was stepped or set forward past armed instances of unit `i`: the latest passed one is put to the table, the ones before it are missed
(R408). -/
def Dev.trigPassed (d : Dev) (i : Nat) : Dev :=
  let r := d.trig i
  if !r.armed || decide (d.now48 < r.time * 2 ^ 48) || (d.obj S.TRIGGERS i).isNone then d
  else
    let n := if r.period = 0 then 0 else (d.nowNs - r.time) / r.period.toNat
    let d := if n = 0 then d else d.trigMiss i n
    (d.setTrig i ((d.trig i).withTime (r.time + n * r.period.toNat))).trigLate i

/-- The clock reaches TIME of unit `i` (R407). No trigger fires while VALID is 0 (R391). -/
def Dev.trigFire (d : Dev) (i : Nat) : Dev :=
  let r := d.trig i
  if r.armed && d.clkValid && (d.obj S.TRIGGERS i).isSome && decide (r.time * 2 ^ 48 ≤ d.now48) then
    let d := ((d.trigAct i).count (R.TIME_CNT_COUNT 0)).ev E.TRIG_FIRED i
    d.setTrig i (d.trig i).next
  else d

/-- The instances of a unit that fall in the stroke that begins, with the repeats of a short period. -/
def TrigRt.inStroke (r : TrigRt) (lo hi : Frac) : List Nat :=
  let n := if r.period = 0 then 1 else 125000 / r.period.toNat + 2
  ((List.range n).map (fun k => r.time + k * r.period.toNat)).filter (fun t => !(fInt t).lt lo && (fInt t).lt hi)

/-- An armed unit hands over the actions whose TIME falls in the present stroke (R410). -/
def Dev.handUnit (d : Dev) (i : Nat) : Dev :=
  let lo := d.nsOf (fInt d.org.num)
  let hi := d.nsOf (fInt (d.org.num + 1 : Nat))
  if d.flag R.STK_STAT_RUNNING && (d.trig i).armed && d.clkValid then d.each ((d.trig i).inStroke lo hi) (fun d t => d.handOver i t) else d

/-- Armed units hand over the actions of the stroke that begins (R410). -/
def Dev.handTriggers (d : Dev) : Dev := d.each (d.idxs S.TRIGGERS) Dev.handUnit

/-- An arming ends or is replaced: its actions still to come are withdrawn, and one whose TIME falls in this cell-clock cycle, of 0.8 ns (R427). -/
def Dev.unhand (d : Dev) (i : Nat) : Dev :=
  let now := d.now48
  d.onTim (fun x => { x with handed := x.handed.filter (fun h => h.unit != i || decide ((5 * h.time + 4) * 2 ^ 48 ≤ 5 * now)) })

/-! ### Adjustment points (R395 to R399, R408) -/

/-- The DCO's frequency word over the stroke, or the 125,000 ticks, that ends enters its history of 1,000 s (R417). -/
def Dev.dcoRecord (d : Dev) : Dev :=
  d.onTim (fun x =>
    let h := match x.dHist with
      | [] => [(x.dcoD, 1)]
      | (v, n) :: r => if v = x.dcoD then (v, n + 1) :: r else (x.dcoD, 1) :: (v, n) :: r
    { x with dHist := (h.foldl (fun (acc : List (Int × Nat) × Nat) y =>
        if acc.2 = 0 then acc else (acc.1 ++ [(y.1, min y.2 acc.2)], acc.2 - y.2)) ([], 8000000)).1 })

/-- With the origin stopped, an adjustment point falls on every 125,000th tick from the one at which the tick PLL became stable (R395). -/
def Tim.adjTick (t : Tim) : Bool := t.locked && t.c != t.lockC && decide ((t.c - t.lockC).toNat % 125000 = 0)

/-- An adjustment point (R395): the commands in the order written, then the slew, and last a mode switch (R399), which waits for a stroke
boundary while VALID is 1 (R397). Triggers that the clock was moved past are put to R408. At one tick there is one adjustment point, and none
while the tick PLL is not locked. -/
def Dev.adjust (d : Dev) (boundary : Bool) : Dev :=
  if !d.tim.locked || d.tim.adjC == some d.tim.c then d
  else
    let free := d.freeMode
    let d := d.onTim (fun x => ({ x with pre := x.now48 free }.settleSlew free).anchor free)
    let cmds := d.tim.cmds
    let had := d.tim.a != 0 || d.tim.s != 0 || cmds.any (fun c => match c with
      | .adj _ => true
      | _ => false)
    let d := d.onTim (fun x => { x with cmds := [], adjC := some x.c })
    let before := d.now48
    let d := (d.each cmds Dev.clkApply)
    let had := had && (d.tim.a != 0 || d.tim.s != 0 || !cmds.any (fun c => match c with
      | .set _ => true
      | _ => false))
    let d := d.slew had
    let d := match d.tim.modePend with
      | some m => if boundary || !d.clkValid then d.modeSwitch m else d
      | none => d
    if before < d.now48 && d.clkValid then d.each (d.idxs S.TRIGGERS) Dev.trigPassed else d

/-! ### TIME_CMD (R428) -/

/-- TIME_ARG[k]. -/
def Dev.targ (d : Dev) (k : Nat) : Nat := d.get (R.TIME_ARG_ARG k)

/-- Δ of STEP and ADJ in 2^-48 ns: ARG0 signed ns, ARG1 [15:0] sub-ns. -/
def Dev.targDelta (d : Dev) : Int := signedOf 32 (d.targ 0) * 2 ^ 48 + ((bits (d.targ 1) 0 16 * 2 ^ 32 : Nat) : Int)

/-- A clock command is queued for the next adjustment point. -/
def Dev.clkQueue (d : Dev) (c : ClkCmd) : Dev := d.onTim (fun x => { x with cmds := x.cmds ++ [c] })

/-- SET (R396). An ns field of 10^9 or more is a bad argument (R392). -/
def Dev.cmdSet (d : Dev) : Except Nat Dev :=
  if 10 ^ 9 ≤ d.targ 0 then .error 2
  else .ok (d.clkQueue (.set ((((d.targ 1 + bits (d.targ 2) 0 16 * 2 ^ 32) * 10 ^ 9 + d.targ 0) * 2 ^ 16 + bits (d.targ 2) 16 16) * 2 ^ 32)))

/-- FREQ (R394, R396). -/
def Dev.cmdFreq (d : Dev) : Except Nat Dev :=
  let f := signedOf 38 (d.targ 0 + bits (d.targ 1) 0 6 * 2 ^ 32)
  if f < -(2 ^ 37) ∨ 2 ^ 37 < f then .error 2 else .ok (d.clkQueue (.freq f))

/-- MODE (R397). -/
def Dev.cmdMode (d : Dev) : Dev :=
  let m := bit (d.targ 0) 0
  if d.clkValid then (d.onTim (fun x => { x with modePend := some m })).set R.TIME_CTL_MODE_PEND 1 else d.modeSwitch m

/-- The unit in TIME_IDX is VALID. -/
def Dev.unitOk (d : Dev) (f : Nat → Except Nat Dev) : Except Nat Dev :=
  let i := d.get R.TIME_IDX_IDX
  if (d.obj S.TRIGGERS i).isNone then .error 1 else f i

/-- ARM (R407). An action due in the stroke that runs goes to its target block at once, so that its pass meets it (R196, R410). While VALID is 0 the unit is armed and fires nothing (R391; log entry 30). -/
def Dev.cmdArm (d : Dev) (i : Nat) : Except Nat Dev :=
  let o := d.objD S.TRIGGERS i
  let p := d.targ 3
  if p != 0 && (p < 100 || (gTarget o == 1 && p ≤ gPwNs o + 4)) then .error 2
  else if 10 ^ 9 ≤ d.targ 0 ∨ 10 ^ 9 < d.targ 4 then .error 2
  else
    let r : TrigRt := { armed := true, ns := BitVec.ofNat 32 (d.targ 0), period := BitVec.ofNat 32 p, lateWin := BitVec.ofNat 30 (d.targ 4),
                        sec := BitVec.ofNat 48 (d.targ 1 + bits (d.targ 2) 0 16 * 2 ^ 32) }
    let d := (d.unhand i).setTrig i r
    .ok ((if d.clkValid && decide (r.time * 2 ^ 48 ≤ d.now48) then d.trigLate i else d).handUnit i)

/-- DISARM (R409, R427). -/
def Dev.cmdDisarm (d : Dev) (i : Nat) : Dev := (d.unhand i).setTrig i { d.trig i with armed := false }

/-- The 256 bits of a trigger descriptor (R406). -/
def Dev.trigDesc (d : Dev) (i : Nat) : Nat :=
  let r := d.trig i
  d.objD S.TRIGGERS i % 2 ^ 64 + r.sec.toNat * 2 ^ 64 + r.ns.toNat * 2 ^ 112 + r.period.toNat * 2 ^ 144 + r.lateWin.toNat * 2 ^ 176 +
    b2n r.armed * 2 ^ 206 + b2n r.late * 2 ^ 207 + b2n r.missed * 2 ^ 208 + r.lateness.toNat * 2 ^ 209 + r.missCnt.toNat * 2 ^ 240

/-! ### The DCO (R417 to R419) -/

/-- D stays in its range. -/
def dcoClamp (x : Int) : Int := clampInt (-(2 ^ 37)) (2 ^ 37) x

/-- A reference input is qualified: 0 PPS_IN, 1 REF10M_IN, 2 WCLK_IN; 3 names none (R416, R430; log entry 31). -/
def Dev.refOk (d : Dev) (i : Nat) : Bool := decide (i < 3) && bit (d.get R.TIME_REF_STAT_QUAL) i

/-- REF_SEL, REF_ALT and BW. -/
def Dev.dcoSel (d : Dev) : Nat × Nat × Nat :=
  let x := d.get R.TIME_DCO_CTL_SEL
  (bits x 0 2, bits x 2 2, bits x 4 2)

/-- The holdover value: the mean of D over the last HO_AVG seconds, or over what exists; TIME_DCO_FREQ where nothing does (R417). -/
def Tim.holdValue (t : Tim) : Int :=
  let r := t.dHist.foldl (fun (acc : Int × Nat × Nat) y =>
    let n := min y.2 acc.2.2
    (acc.1 + y.1 * n, acc.2.1 + n, acc.2.2 - n)) (0, 0, t.hoAvg * 8000)
  if r.2.1 = 0 then t.dcoF else roundEven r.1 r.2.1

/-- The DCO enters HOLDOVER (R417 to R419); `auto` says that it returns when REF_SEL requalifies. -/
def Dev.dcoHold (d : Dev) (auto : Bool) : Dev :=
  let v := d.tim.holdValue
  let d := d.onTim (fun x => { x with dcoD := v, holdAuto := auto, dHold := none, phiGood := none })
  (((d.set R.TIME_DCO_CTL_MODE 2).set R.TIME_DCO_STAT_LOCKED 0).set R.TIME_DCO_STAT_ON_ALT 0).ev E.DCO_HOLDOVER

/-- The loop runs on REF_ALT with phase build-out (R418). -/
def Dev.dcoAlt (d : Dev) : Dev :=
  let alt := d.dcoSel.2.1
  let d := d.onTim (fun x => { x with phiBuild := kvD x.phi alt 0, holdAuto := false, dHold := none, phiGood := none })
  (((d.set R.TIME_DCO_CTL_MODE 1).set R.TIME_DCO_STAT_LOCKED 0).set R.TIME_DCO_STAT_ON_ALT 1).ev E.DCO_SWITCH

/-- The loop runs on REF_SEL; `from` is the D from which it pulls in after a holdover (R418). -/
def Dev.dcoRef (d : Dev) (pull : Option Int) : Dev :=
  let d := d.onTim (fun x => { x with phiBuild := 0, holdAuto := false, dHold := pull, phiGood := none })
  ((d.set R.TIME_DCO_CTL_MODE 1).set R.TIME_DCO_STAT_LOCKED 0).set R.TIME_DCO_STAT_ON_ALT 0

/-- REF mode with REF_SEL not qualified: REF_ALT, or HOLDOVER (R418). -/
def Dev.dcoDisq (d : Dev) : Dev := if d.refOk d.dcoSel.2.1 && d.dcoSel.2.1 != d.dcoSel.1 then d.dcoAlt else d.dcoHold true

/-- D of TRACK mode: TIME_DCO_FREQ and the steering term of the stroke (R50, R417). -/
def Dev.dcoTrack (d : Dev) : Int := dcoClamp (d.tim.dcoF + d.org.steer)

/-- DCO_MODE (R417, R418). PPS_IN admits BW 0 only, as REF_SEL and as REF_ALT (log entry 31). -/
def Dev.cmdDco (d : Dev) : Except Nat Dev :=
  let a := d.targ 0
  let m := bits a 0 2
  let ho := bits a 8 10
  if m = 3 ∨ ho < 1 ∨ 1000 < ho ∨ (m = 1 ∧ (bits a 2 2 = 0 ∨ bits a 4 2 = 0) ∧ bits a 6 2 ≠ 0) then .error 2
  else
    let d := (d.set R.TIME_DCO_CTL_SEL (bits a 2 6)).onTim (fun x => { x with hoAvg := ho, holdAuto := false, dHold := none, phiGood := none })
    .ok (if m = 0 then
        (((d.onTim (fun x => { x with dcoD := d.dcoTrack })).set R.TIME_DCO_CTL_MODE 0).set R.TIME_DCO_STAT_LOCKED 0).set R.TIME_DCO_STAT_ON_ALT 0
      else if m = 2 then
        let v := d.tim.holdValue
        (((d.onTim (fun x => { x with dcoD := v })).set R.TIME_DCO_CTL_MODE 2).set R.TIME_DCO_STAT_LOCKED 0).set R.TIME_DCO_STAT_ON_ALT 0
      else if d.refOk d.dcoSel.1 then d.dcoRef none else d.dcoDisq)

/-- A calibration window that covers target `t` is open (R552). -/
def Dev.calCovers (d : Dev) (t : Nat) : Bool := match d.cal.win with
  | none => false
  | some w => w.targets.contains t

/-- Strokes that a calibration target takes (R550). -/
def calLen (t : Nat) : Nat := [1, 2, 2, 2, 2, 4].getD t 0

/-- The target that runs in stroke `n` of a window. -/
def calAt : List Nat → Nat → Option Nat
  | [], _ => none
  | t :: r, n => if n < calLen t then some t else calAt r (n - calLen t)

/-- The calibration target that runs (R550, R553). -/
def Dev.calTarget (d : Dev) : Option Nat := match d.cal.win with
  | none => none
  | some w => calAt w.targets w.done

/-- D of the stroke that begins (R50, R417, R418, R554): TRACK follows TIME_DCO_FREQ and the steering, REF its loop; `held` says that the TDC's words of
the stroke that ends were STALE: the loop is not updated from them, nor while the window runs. -/
def Dev.dcoBoundary (d : Dev) (held : Bool) : Dev :=
  match d.get R.TIME_DCO_CTL_MODE with
  | 0 => d.onTim (fun x => { x with dcoD := d.dcoTrack })
  | 1 =>
    if held || d.calCovers 5 then d
    else
      let sel := if d.flag R.TIME_DCO_STAT_ON_ALT then d.dcoSel.2.1 else d.dcoSel.1
      let v := Config.dcoLoop d.tim.dcoD d.dcoSel.2.2 (kvD d.tim.phi sel 0 - d.tim.phiBuild)
      let v := match d.tim.dHold with
        | none => v
        | some h => clampInt (h - 2814749767) (h + 2814749767) v
      d.onTim (fun x => { x with dcoD := dcoClamp v })
  | _ => d

/-- φ has stayed below 10 ns for 10 s in REF mode (R417); the 10 s are counted on the XO. -/
def execDcoLocked (w : When) (s : State) : Out :=
  s.runKa w (fun d => Dev.when (d.get R.TIME_DCO_CTL_MODE == 1 && !d.flag R.TIME_DCO_STAT_LOCKED && d.tim.phiGood.any (fun t => decide (t + 10 ^ 10 ≤ d.xoNs))) (fun d =>
    ((d.onTim (fun x => { x with dHold := none })).set R.TIME_DCO_STAT_LOCKED 1).ev E.DCO_LOCKED) d)

/-- A write of TIME_DCO_FREQ_HI commits the pair (R430); in TRACK mode D follows at once (R50). -/
def Dev.dcoCommit (d : Dev) (req : Requester) (val : Nat) : Dev :=
  if !d.oper req then d.denied
  else
    let d := d.set R.TIME_DCO_FREQ_HI_D val
    let d := d.onTim (fun x => { x with dcoF := dcoClamp (signedOf 38 (d.get R.TIME_DCO_FREQ_LO_D + d.get R.TIME_DCO_FREQ_HI_D * 2 ^ 32)) })
    if d.get R.TIME_DCO_CTL_MODE = 0 then d.onTim (fun x => { x with dcoD := d.dcoTrack }) else d

/-- A write of TIME_DCO_FREQ_HI (R430). -/
def execDcoFreqCommit (w : When) (req : Requester) (val : Word) (s : State) : Out := s.runReq w req (·.dcoCommit req val.toNat)

/-! ### The servo assist (R422 to R425) -/

/-- STEP_THR and CONFIRM as they act (R430). -/
def Dev.stepThr (d : Dev) : Nat := clampNat 10 100000 (d.get R.TIME_SA_CTL_STEP_THR)

/-- CONFIRM in seconds. -/
def Dev.confirm (d : Dev) : Nat := clampNat 1 600 (d.get R.TIME_SA_CTL_CONFIRM)

/-- o_c of a measurement on path `p`, in 1/16 ns (R422). The filters hold 1/65,536 ns, so that the estimate of R424 has something to round: DESIGN CHOICE (unsafe, log
entry 72). -/
def Dev.saCorrect (d : Dev) (p : Nat) (o : Int) : Int :=
  o - signedOf 32 (d.get (R.TIME_PORT_ASYM_ASYM p)) -
    (if d.flag R.TIME_SA_CTL_ASYM_AUTO then signedOf 32 (d.get (R.TIME_SA_EST_EST p)) else 0)

/-- A measurement is taken in (R422). -/
def Dev.saTake (d : Dev) (p : Nat) (oc dd : Int) : Dev :=
  d.onTim (fun x => { x with saFilt := kvSet p (match kvGet p x.saFilt with
    | none => (oc, dd)
    | some (fo, fd) => (fo + (oc - fo).tdiv 16, fd + (dd - fd).tdiv 16)) x.saFilt })

/-- VERIFY is entered: the clock runs at F from now on, and the slew keeps what S has not yet added (R425, R427). -/
def Dev.saEnter (d : Dev) (p : Nat) (oc : Int) : Dev :=
  let free := d.freeMode
  let now := d.now48
  let d := d.onTim (fun x => { ((x.anchor free).settleSlew free) with s := 0, saVer := some ⟨p, oc, now⟩ })
  (((d.set R.TIME_SA_STAT_VERIFY 1).set R.TIME_SA_STAT_PATH p).count (R.TIME_CNT_COUNT 5)).ev E.PATH_STEP p

/-- TRACK is entered again. -/
def Dev.saLeave (d : Dev) : Dev := (d.onTim (fun x => { x with saVer := none })).set R.TIME_SA_STAT_VERIFY 0

/-- The distance of two values is at most `thr`. -/
def near (x y : Int) (thr : Nat) : Bool := decide ((x - y).natAbs ≤ thr)

/-- A measurement, in 1/65,536 ns, meets the table of R423. -/
def Dev.saMeasure (d : Dev) (p : Nat) (oc dd : Int) : Dev :=
  let thr := d.stepThr * 65536
  match d.tim.saVer with
  | none => (match kvGet p d.tim.saFilt with
    | none => d.saTake p oc dd
    | some (fo, fd) => if !near oc fo thr && decide (thr < 4 * (dd - fd).natAbs) then d.saEnter p oc else d.saTake p oc dd)
  | some v =>
    let fv := (kvD d.tim.saFilt v.v (0, 0)).1
    if p = v.v then
      if near oc fv thr then ((d.saTake p oc dd).saLeave).ev E.PATH_TRANSIENT p
      else if near oc v.os thr then
        if d.now48 < v.tv + d.confirm * 10 ^ 9 * 2 ^ 48 then d
        else
          let d := d.clkQueue (.adj (-(v.os - fv) * 2 ^ 32))
          let d := d.onTim (fun x => { x with saFilt := kvSet p (oc, dd) x.saFilt })
          (d.saLeave.count (R.TIME_CNT_COUNT 7)).ev E.PATH_ACCEPT p
      else
        let now := d.now48
        d.onTim (fun x => { x with saVer := some { v with os := oc, tv := now } })
    else match kvGet p d.tim.saFilt with
      | none => d
      | some (fo, _) =>
        if near oc fo thr then
          let est := signedOf 32 (d.get (R.TIME_SA_EST_EST v.v)) + roundEven ((v.os - fv) - (oc - fo)) 4096
          let d := d.set (R.TIME_SA_EST_EST v.v) (fieldOf 32 est)
          (((d.saTake p oc dd).saLeave).count (R.TIME_CNT_COUNT 6)).ev E.ASYM_REJECT v.v
        else d

/-- SA_MEAS (R422, R428). -/
def Dev.cmdSaMeas (d : Dev) : Dev :=
  let p := bits (d.targ 2) 0 2
  d.saMeasure p (d.saCorrect p (signedOf 32 (d.targ 0)) * 4096) (d.targ 1 * 4096)

/-- A clock change that VERIFY holds off (R425). -/
def Dev.unlessVerify (d : Dev) (r : Except Nat Dev) : Except Nat Dev := if d.tim.saVer.isSome then .error 4 else r

/-- TIME_CMD OP 1 to 11 (R428). -/
def Dev.timeCmd (d : Dev) (req : Requester) (op : Nat) : Dev :=
  d.command C.time req (if op = 8 then .none else .oper) (fun d =>
    match op with
    | 1 => d.cmdSet
    | 2 => d.unlessVerify (.ok (d.clkQueue (.step d.targDelta)))
    | 3 => d.unlessVerify d.cmdFreq
    | 4 => d.unlessVerify (.ok (d.clkQueue (.adj d.targDelta)))
    | 5 => .ok d.cmdMode
    | 6 => d.unitOk d.cmdArm
    | 7 => d.unitOk (fun i => .ok (d.cmdDisarm i))
    | 8 => d.unitOk (fun i => .ok (d.setWords R.TIME_DATA_D 8 (d.trigDesc i)))
    | 9 => d.cmdDco
    | 10 => .ok d.cmdSaMeas
    | 11 => .ok d.saClear
    | _ => .error 2)

/-- TIME_CMD SET (R396). -/
def execTimeSet (w : When) (req : Requester) (s : State) : Out := s.runReq w req (·.timeCmd req 1)

/-- TIME_CMD STEP (R396). -/
def execTimeStep (w : When) (req : Requester) (s : State) : Out := s.runReq w req (·.timeCmd req 2)

/-- TIME_CMD FREQ (R394, R396). -/
def execTimeFreq (w : When) (req : Requester) (s : State) : Out := s.runReq w req (·.timeCmd req 3)

/-- TIME_CMD ADJ (R396). -/
def execTimeAdj (w : When) (req : Requester) (s : State) : Out := s.runReq w req (·.timeCmd req 4)

/-- TIME_CMD MODE (R397). -/
def execTimeMode (w : When) (req : Requester) (s : State) : Out := s.runReq w req (·.timeCmd req 5)

/-- TIME_CMD ARM (R407). -/
def execArm (w : When) (req : Requester) (s : State) : Out := s.runReq w req (·.timeCmd req 6)

/-- TIME_CMD DISARM (R427). -/
def execDisarm (w : When) (req : Requester) (s : State) : Out := s.runReq w req (·.timeCmd req 7)

/-- TIME_CMD READ trigger (R428). -/
def execTrigRead (w : When) (req : Requester) (s : State) : Out := s.runReq w req (·.timeCmd req 8)

/-- TIME_CMD DCO_MODE (R418). -/
def execDcoMode (w : When) (req : Requester) (s : State) : Out := s.runReq w req (·.timeCmd req 9)

/-- TIME_CMD SA_MEAS (R423). -/
def execSaMeas (w : When) (req : Requester) (s : State) : Out := s.runReq w req (·.timeCmd req 10)

/-- TIME_CMD SA_RESET (R425). -/
def execSaReset (w : When) (req : Requester) (s : State) : Out := s.runReq w req (·.timeCmd req 11)

/-- The command that waits next falls in the same cycle, `w`, as the one that runs; `p` gives the time of the commands asked for (R427). -/
def State.beside (s : State) (w : When) (p : Instr → Option When) : Bool := match s.pending with
  | [] => false
  | c :: _ => (p c).any (fun v => v.ticks == 0 && v.cc == w.cc)

/-- The requester and OP of a command written to TIME_CMD. -/
def timeOp : Instr → Option (Requester × Nat)
  | .timeSet _ req => some (req, 1)
  | .timeStep _ req => some (req, 2)
  | .timeFreq _ req => some (req, 3)
  | .timeAdj _ req => some (req, 4)
  | .timeMode _ req => some (req, 5)
  | .arm _ req => some (req, 6)
  | .disarm _ req => some (req, 7)
  | .trigRead _ req => some (req, 8)
  | .dcoMode _ req => some (req, 9)
  | .saMeas _ req => some (req, 10)
  | .saReset _ req => some (req, 11)
  | _ => none

/-- What a command that waits does to TIME_IDX and to the triggers' arming. -/
def Dev.timeAhead (d : Dev) (c : Instr) : Dev :=
  match timeOp c, c with
  | some (req, op), _ => Dev.when (d.reach req) (·.timeCmd req op) d
  | none, .registerWrite _ req addr val => if addr = R.TIME_IDX_IDX.addr ∧ d.reach req ∧ d.oper req then d.set R.TIME_IDX_IDX val.toNat else d
  | none, _ => d

/-- A DISARM that falls in the same cycle `w` as the command that runs, among those that wait, disarms unit `i` (R427); one that is refused does not. -/
def Dev.disarmed (d : Dev) (w : When) (i : Nat) : List Instr → Bool
  | [] => false
  | c :: r =>
    if c.when.ticks ≠ 0 ∨ c.when.cc ≠ w.cc then false
    else
      let d' := d.timeAhead c
      (((timeOp c).any (fun x => x.2 == 7)) && (d.trig i).armed && !(d'.trig i).armed) || d'.disarmed w i r

/-- A trigger's TIME is reached (R407). A DISARM in the same cycle wins (R427). -/
def execTriggerFire (w : When) (unit : Nat) (s : State) : Out :=
  s.runMain w (fun d => Dev.when (!d.disarmed w unit s.pending) (·.trigFire unit) d)

/-- The pulse of a PIN unit ends (R409), when it has stood for its PW_NS. -/
def execPinPulseEnd (w : When) (unit : Nat) (s : State) : Out :=
  s.runMain w (fun d => d.onTim (fun x => { x with pulses := x.pulses.filter (fun y => y.1 != unit || decide (d.xoNs < y.2.since + y.2.width)) }))

/-! ### Reads that latch (R398, R430) -/

/-- A read of TIME_NOW0 (R398). -/
def Dev.nowRead (d : Dev) : Word × Dev :=
  let t := stampOf d.now48
  (t.ns, d.onTim (fun x => { x with nowLatch1 := some (BitVec.ofNat 32 t.sec.toNat),
                                    nowLatch2 := some (BitVec.ofNat 32 (t.sec.toNat / 2 ^ 32 % 2 ^ 16 + t.sub.toNat * 2 ^ 16)) }))

/-- A read of TIME_RAW_LO (R430). -/
def Dev.rawRead (d : Dev) : Word × Dev :=
  (BitVec.ofNat 32 d.tim.c.toNat, d.onTim (fun x => { x with rawLatch := some (BitVec.ofNat 32 (x.c.toNat / 2 ^ 32)) }))

/-- A read of TIME_PPS_TS0 (R430). -/
def Dev.ppsRead (d : Dev) : Word × Dev :=
  (BitVec.ofNat 32 (d.get R.TIME_PPS_TS0_NS),
    d.onTim (fun x => { x with ppsLatch1 := some (BitVec.ofNat 32 (d.get R.TIME_PPS_TS1_SEC)),
                               ppsLatch2 := some (BitVec.ofNat 32 (d.get R.TIME_PPS_TS2_SEC + d.get R.TIME_PPS_TS2_STALE * 2 ^ 16)) }))

/-- The word that a read gave goes to the reply. -/
def Dev.replyWord (x : Word × Dev) : Dev := { x.2 with reply := { x.2.reply with words := [x.1] } }

/-- A read of TIME_NOW0 (R398). -/
def execTimeNowRead (w : When) (req : Requester) (s : State) : Out := s.runReq w req (fun d => Dev.replyWord d.nowRead)

/-- A read of TIME_RAW_LO (R430). -/
def execTimeRawRead (w : When) (req : Requester) (s : State) : Out := s.runReq w req (fun d => Dev.replyWord d.rawRead)

/-- A read of TIME_PPS_TS0 (R430). -/
def execPpsTsRead (w : When) (req : Requester) (s : State) : Out := s.runReq w req (fun d => Dev.replyWord d.ppsRead)

/-! ### Return queues and captures (R403 to R405, R412) -/

/-- A return queue entry (R404). -/
def tsEntry (t : Stamp) (id port : Nat) (one : Bool) : BitVec 128 :=
  BitVec.ofNat 128 (t.sec.toNat + t.ns.toNat * 2 ^ 48 + t.sub.toNat * 2 ^ 80 + id % 2 ^ 16 * 2 ^ 96 + port % 4 * 2 ^ 112 + b2n one * 2 ^ 114 + 2 ^ 115)

/-- The return queue of port `p`. -/
def Dev.tsq (d : Dev) (p : Nat) : List (BitVec 128) := kvD d.tim.tsq p []

/-- A reading in 2^-48 ns to 250 ps, truncated (R400, R412): DESIGN CHOICE (unsafe, log entry 123). -/
def quarter (t48 : Nat) : Stamp := stampOf (t48 / 2 ^ 46 * 2 ^ 46)

/-- House time `sub` units of 250 ps after the tick (R400, R412). -/
def Dev.readAt (d : Dev) (sub : Nat) : Nat := d.now48 + sub * 2 ^ 46

/-- House time as it read `age` units of 250 ps ago (R400): on the far side of the last adjustment point, as the clock read before it. -/
def Dev.readAgo (d : Dev) (age : Nat) : Nat :=
  let back := fun (t n : Nat) => ((t : Int) - (n * (2 ^ 48 + d.tim.rate)) / 4).toNat
  let since := match d.tim.adjC with
    | none => age
    | some c => 4 * (d.tim.c - c).toNat
  if age ≤ since then back d.now48 age else back d.tim.pre (age - since)

/-- The entries of a queue that a pop in cycle `now` meets: not one that arrives in that cycle, `at'` (R99, R405). -/
def tsSeen (q : List (BitVec 128)) (at' : Option Nat) (now : Nat) : List (BitVec 128) := if at' = some now then q.dropLast else q

/-- A transmit timestamp joins the return queue of its port (R405); `popped` says that a pop frees a slot in this cycle. -/
def Dev.tsqPush (d : Dev) (p : Nat) (e : BitVec 128) (popped : Bool) : Dev :=
  let q := d.tsq p
  if 64 ≤ q.length ∧ popped = false then
    ((d.orFld R.TIME_STAT_TSQ_OVF (2 ^ p)).count (R.TIME_TSQ_HEAD_DROP p)).ev E.TSQ_OVF p
  else
    let now := d.stamp
    let d := d.onTim (fun x => { x with tsq := kvSet p (q ++ [e]) x.tsq, tsqAt := kvSet p now x.tsqAt })
    if q.isEmpty then d.ev E.TSQ_READY p else d

/-- A read of TIME_TSQ_D[p][0] pops the oldest entry (R405). -/
def Dev.tsqRead (d : Dev) (p : Nat) : Word × Dev :=
  match tsSeen (d.tsq p) (kvGet p d.tim.tsqAt) d.stamp with
  | [] => (0, d.onTim (fun x => { x with tsqLatch := kvSet p 0 x.tsqLatch }))
  | e :: _ => (BitVec.ofNat 32 e.toNat, d.onTim (fun x => { x with tsq := kvSet p (d.tsq p).tail x.tsq, tsqLatch := kvSet p e x.tsqLatch }))

/-- A pop of a return queue (R405). -/
def execTsqPop (w : When) (req : Requester) (port : Nat) (s : State) : Out :=
  s.runReq w req (fun d => if port < 4 then Dev.replyWord (d.tsqRead port) else d)

/-- An edge on CAP_IN (R412). Which edges a unit takes and its FILTER_NS come from the image (log entry 7); while bank 2 is not powered
the pin is absent (R621); `popped` says that a pop of the queue frees a slot in this cycle
(R427). -/
def Dev.captureEdge (d : Dev) (k : Nat) (rising : Bool) (pulseNs sub : Nat) (popped : Bool) : Dev :=
  match (if bit d.rst.banks.toNat 2 then d.img.active else none) with
  | none => d
  | some b =>
    let cfg := Config.capture b.hash k
    let at' := 4 * d.xoNs + sub
    if 16 ≤ k || !(if rising then cfg.1 else cfg.2.1) || (cfg.2.2 != 0 && decide (pulseNs < cfg.2.2)) then d
    else if (kvGet k d.tim.capLast).any (fun l => decide (at' < l + 80)) then d.count (R.TIME_CNT_COUNT 3)
    else
      let d := d.onTim (fun x => { x with capLast := kvSet k at' x.capLast })
      let q := kvD d.tim.caps k []
      if 16 ≤ q.length ∧ popped = false then ((d.set R.TIME_STAT_CAP_OVF 1).count (R.TIME_CNT_COUNT 4)).ev E.CAP_OVF k
      else
        let now := d.stamp
        let d := d.onTim (fun x => { x with caps := kvSet k (q ++ [tsEntry (quarter (d.readAt sub)) (k + 16 * b2n rising) 0 false]) x.caps, capAt := kvSet k now x.capAt })
        if q.isEmpty then d.ev E.CAP_READY k else d

/-- An edge on a capture input (R412). -/
def execCaptureEdge (w : When) (unit : Nat) (rising : Bool) (pulseNs sub : Nat) (s : State) : Out :=
  let popped := s.beside w (fun i => match i with
    | .capPop v _ => if s.dev.get R.TIME_CAP_SEL_UNIT = unit then some v else none
    | _ => none)
  s.runMain w (·.captureEdge unit rising pulseNs sub popped)

/-- A read of TIME_CAP_D[0] pops the queue of the unit in TIME_CAP_SEL (R412). -/
def Dev.capRead (d : Dev) : Word × Dev :=
  let k := d.get R.TIME_CAP_SEL_UNIT
  let q := kvD d.tim.caps k []
  match tsSeen q (kvGet k d.tim.capAt) d.stamp with
  | [] => (0, d.onTim (fun x => { x with capLatch := 0 }))
  | e :: _ => (BitVec.ofNat 32 e.toNat, d.onTim (fun x => { x with caps := kvSet k q.tail x.caps, capLatch := e }))

/-- A pop of a capture queue (R412). -/
def execCapPop (w : When) (req : Requester) (s : State) : Out := s.runReq w req (fun d => Dev.replyWord d.capRead)

/-! ### Reference inputs (R413 to R416) -/

/-- The WCLK_IN rate in Hz (R430). -/
def wclkRate (x : Nat) : Nat := [8000, 16000, 32000, 44100, 48000, 88200, 96000, 176400, 192000].getD x 48000

/-- φ in 1/16 ns of an edge at `e` 1/16 ns since the epoch (R413): the nearest nominal instant is a multiple of `num/den` 1/16 ns, moved by `ofs`. -/
def phaseOf (e : Int) (num den : Nat) (ofs : Int) : Int :=
  let x := (e - ofs) * den
  let k := roundEven x num
  roundEven (x - k * num) den

/-- φ of an edge of TDC stream `i` (R413). -/
def Dev.refPhase (d : Dev) (i : Nat) (e : Int) : Int :=
  if i = 0 then phaseOf e (16 * 10 ^ 9) 1 (signedOf 10 (d.get R.TIME_REF_CFG_PPS_OFS) * 16000)
  else if i = 2 then phaseOf e (16 * 10 ^ 9) (wclkRate (d.get R.TIME_REF_CFG_WRATE)) 0
  else phaseOf e 1600 1 0

/-- A 1 s interval, in 1/16 ns, is within QUAL_PPM (R416). -/
def Dev.ppsGood (d : Dev) (iv : Int) : Bool :=
  decide ((iv - 16 * 10 ^ 9).natAbs * 10 ^ 6 ≤ clampNat 1 1000 (d.get R.TIME_REF_CFG_QUAL_PPM) * (16 * 10 ^ 9))

/-- The words of TDC stream `i` up to microsecond `k` of the stroke are complete (R414): nothing while the input is not qualified, the held value with STALE in a
calibration window that covers the TDC, the mean of the edges of a microsecond for REF10M_IN and the DCO feedback, and the latest phase for the others. What
a microsecond without an edge has as its mean is a free value (log entry 123). -/
def Dev.tdcTo (d : Dev) (i k : Nat) : Dev :=
  let t := kvD d.tim.tdc i {}
  let m := k - t.nowWords.length
  if m = 0 || !d.flag R.STK_STAT_RUNNING then d
  else
    let sat : Int → Option (Int × Bool × Bool) := fun x => some (clampInt (-8388608) 8388607 x, decide (x < -8388608 ∨ 8388607 < x), false)
    let word : Nat → Option (Int × Bool × Bool) := fun j =>
      if !d.tim.locked || !(i == 3 || d.refOk i) then none
      else if d.calCovers 5 then some (t.last, false, true)
      else if i = 0 ∨ i = 2 then sat (kvD d.tim.phi i 0)
      else if j = 0 ∧ t.n ≠ 0 then sat (roundEven t.sum t.n)
      else sat (Config.tdcEmpty d.org.num i (t.nowWords.length + j))
    let ws := (List.range m).map word
    let last := match ws.getLast? with
      | some (some y) => y.1
      | _ => t.last
    d.onTim (fun x => { x with tdc := kvSet i { t with nowWords := t.nowWords ++ ws, sum := 0, n := 0, last := last } x.tdc })

/-- The microsecond of the stroke that runs (R414). -/
def Dev.tdcUs (d : Dev) : Nat := d.org.cc / 1250

/-- An edge of TDC stream `i` with phase `phi` counts in its microsecond (R414). -/
def Dev.tdcEdge (d : Dev) (i : Nat) (phi : Int) : Dev :=
  let d := d.tdcTo i d.tdcUs
  let t := kvD d.tim.tdc i {}
  d.onTim (fun x => { x with tdc := kvSet i { t with sum := t.sum + phi, n := t.n + 1 } x.tdc })

/-- A stroke ends: the streams have their 125 words (R414). -/
def Dev.tdcBoundary (d : Dev) : Dev :=
  let d := d.each [0, 1, 2, 3] (fun d i => d.tdcTo i 125)
  d.onTim (fun x => { x with tdc := x.tdc.map (fun (t : Nat × TdcRt) => (t.1, { t.2 with nowWords := [], words := t.2.nowWords })) })

/-- A reference is disqualified (R416), with what follows for the loop (R418). -/
def Dev.refLost (d : Dev) (i : Nat) : Dev :=
  if !d.refOk i then d
  else
    let d := d.tdcTo i d.tdcUs
    let d := d.onTim (fun x => { x with refGood := kvSet i 0 x.refGood })
    let d := ((d.set R.TIME_REF_STAT_QUAL (setBits (d.get R.TIME_REF_STAT_QUAL) i 1 0)).ev E.REF_LOST i).chainsWatch
    let d := if i = 0 then d.onTim (fun x => { x with ppsGood := 0 }) else d
    if d.get R.TIME_DCO_CTL_MODE != 1 then d
    else if d.flag R.TIME_DCO_STAT_ON_ALT then
      if d.dcoSel.2.1 != i then d
      else
        let d := d.dcoHold true
        if d.refOk d.dcoSel.1 then d.dcoRef (some d.tim.dcoD) else d
    else if d.dcoSel.1 != i then d
    else d.dcoDisq

/-- QUAL_S as it acts (R430). -/
def Dev.qualS (d : Dev) : Nat := max 1 (d.get R.TIME_REF_CFG_QUAL_S)

/-- A reference has met its tolerance for QUAL_S: PPS_IN in consecutive intervals of 1 s, the others in windows of 1 ms (R416). -/
def Dev.refReady (d : Dev) (i : Nat) : Bool :=
  if i = 0 then decide (d.qualS ≤ d.tim.ppsGood) else decide (d.qualS * 1000 ≤ kvD d.tim.refGood i 0)

/-- A reference qualifies (R416): not while VALID is 0 (R391), and not before it has met its tolerance for QUAL_S. -/
def Dev.refQual (d : Dev) (i : Nat) : Dev :=
  if 3 ≤ i || d.refOk i || !d.clkValid || !d.refReady i then d
  else
    let d := d.tdcTo i d.tdcUs
    let d := (d.set R.TIME_REF_STAT_QUAL (setBit (d.get R.TIME_REF_STAT_QUAL) i)).ev E.REF_QUAL i
    if d.tim.holdAuto && d.get R.TIME_DCO_CTL_MODE == 2 && d.dcoSel.1 == i then d.dcoRef (some d.tim.dcoD) else d

/-- The nominal rate of REF10M_IN or WCLK_IN in Hz (R416). -/
def Dev.refRate (d : Dev) (i : Nat) : Nat := if i = 1 then 10000000 else wclkRate (d.get R.TIME_REF_CFG_WRATE)

/-- The edge count of a window of 1 ms gives the rate within QUAL_PPM (R416), one edge more or less being the count's own step: DESIGN CHOICE (unsafe, log entry
71). -/
def Dev.windowGood (d : Dev) (i n : Nat) : Bool :=
  decide (((1000 * n : Nat) - (d.refRate i : Nat) : Int).natAbs * 10 ^ 6 ≤ clampNat 1 1000 (d.get R.TIME_REF_CFG_QUAL_PPM) * d.refRate i + 10 ^ 9)

/-- An edge of REF10M_IN or WCLK_IN, the one before it at `last` (R416): its window counts it; a window that is over and out of tolerance, or a gap of
1 µs (REF10M_IN) or of two periods (WCLK_IN), disqualifies. -/
def Dev.refWindow (d : Dev) (i e : Nat) (last : Option Nat) : Dev :=
  let k := e / 16000000
  let gap := last.any (fun l => if i = 1 then decide (16000 < e - l) else decide (32000000000 < (e - l) * d.refRate i))
  let d := if gap then (d.onTim (fun x => { x with refGood := kvSet i 0 x.refGood })).refLost i else d
  match kvGet i d.tim.refWin with
  | none => d.onTim (fun x => { x with refWin := kvSet i (k, 1, false) x.refWin })
  | some (k0, n, whole) =>
    if k = k0 then d.onTim (fun x => { x with refWin := kvSet i (k, n + 1, whole && !gap) x.refWin })
    else
      let good := whole && !gap && d.windowGood i n
      let d := if good || !whole then d else d.refLost i
      d.onTim (fun x => { x with refWin := kvSet i (k, 1, true) x.refWin, refGood := kvSet i (if good then kvD x.refGood i 0 + 1 else 0) x.refGood })

/-- The loop of REF mode follows whether |φ| of its reference stays below 10 ns (R417), the phase built out taken off (R418; log entry 31). -/
def Dev.phiWatch (d : Dev) (i : Nat) (phi : Int) : Dev :=
  let sel := if d.flag R.TIME_DCO_STAT_ON_ALT then d.dcoSel.2.1 else d.dcoSel.1
  if i == 3 || d.get R.TIME_DCO_CTL_MODE != 1 || sel != i then d
  else if (phi - d.tim.phiBuild).natAbs < 160 then
    let now := d.xoNs
    d.onTim (fun x => { x with phiGood := some (x.phiGood.getD now) })
  else d.onTim (fun x => { x with phiGood := none })

/-- A rising edge of TDC stream `i`, `sub` units of 62.5 ps after the tick (R413, R415, R416). A phase measured in a calibration window that covers the TDC is
STALE: the streams hold, and the loop is not updated (R414, R554). While bank 2 is not powered its pins are absent (R621). -/
def Dev.refEdge (d : Dev) (i sub width : Nat) : Dev :=
  if 4 ≤ i || (i != 3 && !bit d.rst.banks.toNat 2) then d
  else
    let e : Nat := d.now48 / 2 ^ 44 + sub
    let phi := d.refPhase i e
    let last := kvGet i d.tim.lastEdge
    let now := d.xoNs
    let d := d.tdcEdge i phi
    let d := if d.calCovers 5 then d else (d.phiWatch i phi).onTim (fun x => { x with phi := kvSet i phi x.phi })
    let d := d.onTim (fun x => { x with lastEdge := kvSet i e x.lastEdge, edgeXo := kvSet i now x.edgeXo })
    if i = 3 then d
    else if i != 0 then d.refWindow i e last
    else
      let good := last.any (fun l => d.ppsGood ((e : Int) - l))
      let bad := last.any (fun l => !d.ppsGood ((e : Int) - l))
      let d := d.onTim (fun x => { x with ppsGood := if good && 100 ≤ width then x.ppsGood + 1 else 0 })
      let d := if bad then d.refLost 0 else d
      if d.refOk 0 then
        let t := stampOf (e * 2 ^ 44)
        let d := ((d.set R.TIME_PPS_TS0_NS t.ns.toNat).set R.TIME_PPS_TS1_SEC t.sec.toNat).set R.TIME_PPS_TS2_SEC (t.sec.toNat / 2 ^ 32)
        (d.set R.TIME_PPS_TS2_STALE (b2n (d.calCovers 5))).ev E.PPS_IN_EDGE
      else d

/-- A reference edge (R413). -/
def execRefEdge (w : When) (input sub widthNs : Nat) (s : State) : Out := s.runMain w (·.refEdge input sub widthNs)

/-- A reference qualifies (R416). -/
def execRefQual (w : When) (input : Nat) (s : State) : Out := s.runMain w (·.refQual input)

/-- A reference has had no edge for 1.5 s, 1 µs or two periods (R416). -/
def Dev.refMissing (d : Dev) (i : Nat) : Bool := (kvGet i d.tim.edgeXo).all (fun l =>
  if i = 0 then decide (1500000000 ≤ d.xoNs - l) else if i = 1 then decide (1000 ≤ d.xoNs - l) else decide (2 * 10 ^ 9 ≤ (d.xoNs - l) * d.refRate i))

/-- A reference is lost for want of an edge (R416); one whose window or interval is out of tolerance is lost at the edge that shows it. -/
def execRefLost (w : When) (input : Nat) (s : State) : Out := s.runMain w (fun d => Dev.when (d.refMissing input) (·.refLost input) d)

/-! ### Lock of the tick PLL (R391) -/

/-- The tick PLL loses lock: VALID returns to 0, the clock stands still, and no reference is qualified (R391). -/
def Dev.xoFail (d : Dev) : Dev :=
  if !d.tim.locked then d
  else
    let d := d.each [0, 1, 2, 3] (fun d i => d.tdcTo i d.tdcUs)
    let d := d.onTim (fun x => { x with locked := false, ppsGood := 0, refGood := [], refWin := [] })
    let d := ((d.set R.TIME_STAT_VALID 0).set R.TIME_STAT_XO_FAIL 1).ev E.XO_FAIL
    (d.each [0, 1, 2] Dev.refLost).chainsWatch

/-- The tick PLL loses lock (R391). -/
def execXoFail (w : When) (s : State) : Out := s.runKa w Dev.xoFail

/-- The tick PLL is locked and stable: with the origin stopped, adjustment points are counted from this tick (R391, R395). -/
def execTickPllLock (w : When) (s : State) : Out :=
  s.runKa w (fun d => Dev.when (!d.tim.locked && !d.rst.unitBad.contains .tick) (fun d => d.onTim (fun x => { x with locked := true, lockC := x.c })) d)

end Sys2Proof.Machine
end

