-- ==== Sys2Proof/Machine/Calib.lean ====
section
/-! DEFINITION. Calibration windows, records and ageing, and the on-die monitors (R549 to R569). -/

namespace Sys2Proof.Machine

/-- The codes of a target (R550). -/
def calCodes (t : Nat) : List Nat :=
  [[0], [16, 17], [1, 2, 3, 4], [5, 6], [7, 8, 9, 10, 11], [12, 13, 14, 15]].getD t []

/-- The strokes of a window. -/
def CalWin.len (w : CalWin) : Nat := (w.targets.map calLen).sum

/-- `f` on the calibration state. -/
def Dev.onCal (d : Dev) (f : Cal → Cal) : Dev := { d with cal := f d.cal }

/-- The outputs of target `t` begin, or cease, to be held and marked STALE (R550, R553). -/
def Dev.calStale (d : Dev) (t : Nat) (on : Bool) : Dev :=
  let d := d.set R.CAL_STAT_STALE (setBits (d.get R.CAL_STAT_STALE) t 1 (b2n on))
  if t ≤ 1 then
    let d := (d.each (List.range 8) (fun d k => d.set (R.CAL_TEMP_STALE k) (b2n on))).set R.CAL_TMAX_STALE (b2n on)
    d.each (List.range 10) (fun d k => d.set (R.CAL_VOLT_STALE k) (b2n on))
  else d.each (calCodes t) (fun d c => d.set (R.CAL_CODE_STALE c) (b2n on))

/-- No target is STALE. -/
def Dev.calUnstale (d : Dev) : Dev :=
  d.each [0, 1, 2, 3, 4, 5] (fun d t => if bit (d.get R.CAL_STAT_STALE) t then d.calStale t false else d)

/-- The target of the stroke that begins is STALE, and no other. -/
def Dev.calMark (d : Dev) : Dev := match d.calTarget with
  | none => d
  | some t => d.calUnstale.calStale t true

/-- ETH_STAT.TRAINING (R432, R475): auto-negotiation or training goes on at a port that has AN_EN, from its first bring-up until it is up, and again after it has gone
down: DEDUCED (safe, log entry 35). -/
def Dev.ethTrains (d : Dev) (p : Nat) : Bool :=
  d.rst.mainUp && (d.obj S.ETH p).any (fun o => bit o 4) && !d.flag (R.ETH_STAT_LINK p) && !d.isolated (.eth p)

/-- Training runs on a port, the PCIe link or the DRAM (R556; log entry 35). -/
def Dev.training (d : Dev) : Bool :=
  [0, 1, 2, 3].any d.ethTrains || (d.flag R.PCIE_CTL_LTSSM_EN && !d.flag R.PCIE_STAT_LINK_UP) ||
    (!d.ddrRefuses && !d.flag R.DDR_STAT_INIT_DONE)

/-- The hottest reading 1 s before now, of those the monitors made: the last that is at least 1 s old. -/
def Dev.hotAgo (d : Dev) : Option Int := (d.cal.hots.find? (fun x => decide (x.1 + 1000000 ≤ d.rst.xoUs))).map Prod.snd

/-- TRATE fails: the hottest sensor has moved by 1 °C or more in 1 s (R556; log entry 81). -/
def Dev.hotMoves (d : Dev) (hot : Int) : Bool := match d.hotAgo with
  | none => false
  | some x => decide (16 ≤ (hot - x).natAbs)

/-- The preconditions of R556 that fail, by their PRECOND bits; `ends` says that the XRES voltage is checked too. -/
def Dev.calFails (d : Dev) (env : BoundaryIn) (ends : Bool) : Nat :=
  b2n (ends && decide (5490 < env.xres)) + b2n (ends && decide (env.xres < 4490)) * 2 + b2n d.training * 4 +
    b2n (d.hotMoves env.hot) * 8

/-- A check of R556: a failed one aborts the window (R557). -/
def Dev.calCheck (d : Dev) (env : BoundaryIn) (ends : Bool) : Dev :=
  let d := if ends then d.set R.CAL_XRES_MV env.xres else d
  let m := d.calFails env ends
  if m = 0 then d
  else ((d.orFld R.CAL_STAT_PRECOND m).onCal (fun x => { x with abortPend := true })).ev E.CAL_PRECOND 0 m

/-- K of a target (R559). -/
def Dev.calK (d : Dev) (t : Nat) : Int := match d.zone 2 with
  | none => 0
  | some z => signedOf 16 (fieldOf 16 (Config.makerK (BitVec.ofNat 512 z) t))

/-- A record becomes AGED against the hottest reading `hot` and VDD_CORE `vdd` (R560). -/
def CalRec.ages (r : CalRec) (hot : Int) (vdd : Nat) : Bool :=
  r.valid && (decide (240 < (hot - r.tRec).natAbs) || decide (3 * r.vRec < 100 * ((vdd : Int) - (r.vRec : Int)).natAbs))

/-- The target code of a code (R561). -/
def calTargetCode (rec k dt : Int) : Int := clampInt 0 4095 (rec + roundEven (k * dt) 4096)

/-- One step of a code toward another (R561). -/
def calStep (x goal : Nat) : Nat := if x < goal then x + 1 else if goal < x then x - 1 else x

/-- The ageing check of one target (R560, R561). -/
def Dev.ageTarget (d : Dev) (t : Nat) : Dev :=
  let r : CalRec := kvD d.cal.recs t {}
  let hot := signedOf 16 (d.get R.CAL_TMAX_T)
  let was := bit (d.get R.CAL_STAT_AGED) t
  let d := if !was && r.ages hot (d.get (R.CAL_VOLT_MV 0)) then
      let d := (d.set R.CAL_STAT_AGED (setBit (d.get R.CAL_STAT_AGED) t)).ev E.CAL_AGED t
      if d.flag R.CAL_CTL_AUTO_AGED then d.set R.CAL_STAT_REQ (setBit (d.get R.CAL_STAT_REQ) t) else d
    else d
  let aged := bit (d.get R.CAL_STAT_AGED) t
  d.each (calCodes t) (fun d c =>
    let rc := d.get (R.CAL_CODE_REC c)
    let goal := if aged then (calTargetCode rc (d.calK t) (hot - r.tRec)).toNat else rc
    d.set (R.CAL_CODE_APPLIED c) (calStep (d.get (R.CAL_CODE_APPLIED c)) goal))

/-- The ageing check of every target; one that waits is made with it. -/
def Dev.ageAll (d : Dev) : Dev := (d.each [0, 1, 2, 3, 4, 5] Dev.ageTarget).onCal (fun x => { x with ageLate := false })

/-- The window closes without a commit. -/
def Dev.calClose (d : Dev) : Dev :=
  (d.calUnstale.set R.CAL_STAT_RUNNING 0).onCal (fun x => { x with win := none, abortPend := false })

/-- An ageing check that fell inside the window is made at the first stroke after it (R560). -/
def Dev.ageAfter (d : Dev) : Dev := if d.cal.ageLate then d.ageAll else d

/-- A stroke boundary in a window (R551, R556, R557): an aborted window closes; else the next stroke begins with its check. A window whose last
target has ended waits for its commit. -/
def Dev.calBoundary (d : Dev) (env : BoundaryIn) : Dev :=
  match d.cal.win with
  | none => d
  | some w =>
    if d.cal.abortPend then d.calClose.ageAfter
    else if w.len ≤ w.done then d
    else
      let d := d.onCal (fun x => { x with win := some { w with done := w.done + 1 } })
      if w.done + 1 < w.len then d.calMark.calCheck env false else d

/-- An adjustment point while the origin is stopped (R395), with the window of a RUN command (R551); while it runs, each stroke boundary is one. -/
def execAdjustmentPoint (w : When) (env : BoundaryIn) (s : State) : Out :=
  s.runKa w (fun d => Dev.when (!d.flag R.STK_STAT_RUNNING && d.tim.adjTick) (fun d =>
    Dev.when d.rst.mainUp (·.runStrokeEnds.calBoundary env) (d.dcoRecord.adjust false)) d)

/-- The targets of a quiet window (R552): IREF, then those requested, as far as `strokes` allows. -/
def calFit : List Nat → Nat → List Nat
  | [], _ => []
  | t :: r, n => if calLen t ≤ n then t :: calFit r (n - calLen t) else calFit r n

/-- The targets of a mask, IREF apart, in table order. -/
def calWanted (m : Nat) : List Nat := [1, 2, 3, 4, 5].filter (bit m)

/-- A window opens (R551 to R553) and makes its first check (R556). -/
def Dev.calOpen (d : Dev) (targets : List Nat) (env : BoundaryIn) : Dev :=
  let d := d.onCal (fun x => { x with win := some { targets := targets, heldD := d.tim.dcoD }, fired := false, runPend := none, abortPend := false })
  (((d.set R.CAL_STAT_RUNNING 1).ev E.CAL_START).calMark).calCheck env true

/-- The quiet window may open: its unit is VALID with TARGET 0, STROKES is not zero, and a REQ bit is set (R551, R552). -/
def Dev.quietOk (d : Dev) : Bool :=
  d.cal.fired && d.img.active.isSome && d.flag R.CAL_QW_EN && d.get R.CAL_QW_STROKES != 0 && d.get R.CAL_STAT_REQ != 0 &&
    (match d.obj S.TRIGGERS (d.get R.CAL_QW_TRIG) with
      | none => false
      | some o => gTarget o == 0)

/-- A window opens at a boundary (R551, R552): a quiet window, or the window of a RUN command. -/
def Dev.calStart (d : Dev) (env : BoundaryIn) : Dev :=
  if d.cal.win.isSome then d
  else if d.quietOk then
    let want := calWanted (d.get R.CAL_STAT_REQ)
    let fit := calFit want (d.get R.CAL_QW_STROKES - 1)
    let d := d.calOpen (0 :: fit) env
    if fit.length < want.length then d.ev E.CAL_DEFER else d
  else match d.cal.runPend with
    | some m => d.calOpen (0 :: calWanted m.toNat) env
    | none => d.onCal (fun x => { x with fired := false })

/-- A calibration window opens (R551). -/
def execCalStart (w : When) (env : BoundaryIn) (s : State) : Out := s.runMain w (·.calStart env)

/-- The window is in its last stroke. -/
def Dev.calLast (d : Dev) : Bool := match d.cal.win with
  | none => false
  | some w => w.done + 1 == w.len && !d.cal.abortPend

/-- The last check of a window, at cycle 150,000 of its last stroke (R556). -/
def execCalLastCheck (w : When) (env : BoundaryIn) (s : State) : Out :=
  s.runMain w (fun d => Dev.when d.calLast (·.calCheck env true) d)

/-- A code measured in the window takes its value. -/
def Dev.calSetCode (d : Dev) (codes : Kv Nat) (c : Nat) : Dev := match kvGet c codes with
  | none => d
  | some v => (d.set (R.CAL_CODE_REC c) v).set (R.CAL_CODE_APPLIED c) v

/-- LOAD at a commit: the mean fraction of the cells' cycles in RUN over the 1,024 strokes that have ended, in units of 1/255, to the nearest (R559; log entry 81). -/
def Dev.calLoad (d : Dev) : Nat := (((d.cal.runCc.drop 1).take 1024).sum * 510 + 1024 * 64 * 156250) / (2 * 1024 * 64 * 156250)

/-- The record of a commit (R559). -/
def Dev.calRecord (d : Dev) (hot : Int) (vdd : Nat) : CalRec :=
  { tRec := hot, vRec := vdd, load := d.calLoad, stroke := d.org.num, valid := true, us := d.rst.xoUs }

/-- A completed window commits (R558, R559). -/
def Dev.calCommit (d : Dev) (codes : Kv Nat) (hot : Int) (vdd : Nat) : Dev :=
  match d.cal.win with
  | none => d
  | some w =>
    if d.cal.abortPend ∨ w.done < w.len then d
    else
      let d := d.each w.targets (fun d t =>
        let d := d.each (calCodes t) (fun d c => d.calSetCode codes c)
        let d := (d.set R.CAL_STAT_REQ (setBits (d.get R.CAL_STAT_REQ) t 1 0)).set R.CAL_STAT_AGED (setBits (d.get R.CAL_STAT_AGED) t 1 0)
        d.onCal (fun x => { x with recs := kvSet t (d.calRecord hot vdd) x.recs }))
      ((d.calClose.set R.CAL_STAT_DEFAULTS 0).ev E.CAL_DONE).ageAfter

/-- A window commits at its boundary (R558). -/
def execCalCommit (w : When) (codes : List (Nat × Nat)) (hot : Int) (vdd : Nat) (s : State) : Out :=
  s.runMain w (·.calCommit codes hot vdd)

/-! ### Commands -/

/-- The targets of the open window (R566). -/
def Dev.calNow (d : Dev) : List Nat := (d.cal.win.map CalWin.targets).getD []

/-- RUN (R551, R566). -/
def Dev.calRun (d : Dev) : Except Nat Dev :=
  let m := d.get R.CAL_ARG_MASK
  if m = 0 then .error 1
  else
    let m := ((List.range 6).filter (fun t => bit m t && !d.calNow.contains t)).foldl (fun x t => x + 2 ^ t) 0
    if d.img.active.isSome then .ok (d.set R.CAL_STAT_REQ (d.get R.CAL_STAT_REQ ||| m))
    else if m = 0 then .ok d
    else .ok (d.onCal (fun x => { x with runPend := some (BitVec.ofNat 6 ((x.runPend.map BitVec.toNat).getD 0 ||| m)) }))

/-- READ (R559, R568). -/
def Dev.calRead (d : Dev) : Except Nat Dev :=
  let t := d.get R.CAL_IDX_TGT
  if 5 < t then .error 2
  else
    let r : CalRec := kvD d.cal.recs t {}
    let w1 := r.load % 256 + b2n r.valid * 2 ^ 8 + bits (d.get R.CAL_STAT_AGED) t 1 * 2 ^ 9 + fieldOf 16 (d.calK t) * 2 ^ 16
    .ok (d.setWords R.CAL_DATA_D 4 (fieldOf 16 r.tRec + r.vRec % 2 ^ 16 * 2 ^ 16 + w1 * 2 ^ 32 + r.stroke % 2 ^ 64 * 2 ^ 64))

/-- CAL_CMD OP 1 and 2 (R567). -/
def Dev.calCmd (d : Dev) (req : Requester) (op : Nat) : Dev :=
  d.command C.cal req (if op = 2 then .none else .oper) (fun d =>
    match op with
    | 1 => d.calRun
    | 2 => d.calRead
    | _ => .error 2)

/-- CAL_CMD RUN (R551). -/
def execCalRun (w : When) (req : Requester) (s : State) : Out := s.runReq w req (·.calCmd req 1)

/-- CAL_CMD READ (R559). -/
def execCalRead (w : When) (req : Requester) (s : State) : Out := s.runReq w req (·.calCmd req 2)

/-! ### Ageing (R560 to R562) -/

/-- The ageing check of a stroke whose number is a multiple of 1,024; in a window it waits for the window's end (R560). -/
def Dev.ageCheck (d : Dev) : Dev :=
  if d.org.num % 1024 ≠ 0 then d
  else if d.cal.win.isSome then d.onCal (fun x => { x with ageLate := true })
  else d.ageAll

/-- An ageing check (R560). -/
def execAgeingCheck (w : When) (s : State) : Out := s.runMain w (fun d => Dev.when (d.flag R.STK_STAT_RUNNING) Dev.ageCheck d)

/-- PERIOD_S has passed since the last commit of target `t` (R562). -/
def Dev.periodOver (d : Dev) (t : Nat) : Bool :=
  let p := d.get R.CAL_CTL_PERIOD_S
  let r : CalRec := kvD d.cal.recs t {}
  p != 0 && r.valid && decide (r.us + p * 1000000 ≤ d.rst.xoUs)

/-- The periodic request of a target (R562). -/
def Dev.calPeriod (d : Dev) (t : Nat) : Dev :=
  if t ≤ 5 ∧ d.periodOver t then d.set R.CAL_STAT_REQ (setBit (d.get R.CAL_STAT_REQ) t) else d

/-- A periodic request (R562). -/
def execCalPeriodRequest (w : When) (target : Nat) (s : State) : Out := s.runMain w (·.calPeriod target)

/-! ### Monitors (R563 to R565) -/

/-- The published readings are held (R550, R553). -/
def Dev.monHeld (d : Dev) : Bool := bits (d.get R.CAL_STAT_STALE) 0 2 != 0

/-- The hottest of the readings and its sensor, the lowest sensor among equals. -/
def hottest (l : List Int) : Int × Nat :=
  (l.zipIdx.drop 1).foldl (fun b x => if b.1 < x.1 then x else b) (l.headD 0, 0)

/-- A reading of voltage monitor `v` (R564). -/
def Dev.voltRead (d : Dev) (v mv : Nat) : Dev :=
  let d := d.set (R.CAL_VOLT_MV v) mv
  let m : VoltMon := kvD d.cal.volts v {}
  let isOut := decide (mv < d.get (R.CAL_VTHR_LOW v) ∨ d.get (R.CAL_VTHR_HIGH v) < mv)
  let m := if isOut then { m with out := min 3 (m.out + 1), inn := 0 } else { m with out := 0, inn := min 3 (m.inn + 1) }
  let warns := !m.warn && m.out == 3
  let clears := m.warn && m.inn == 3
  let m := if warns then { m with warn := true } else if clears then { m with warn := false } else m
  let d := d.onCal (fun x => { x with volts := kvSet v m x.volts })
  if warns then d.ev E.VOLT_WARN v mv else if clears then d.ev E.VOLT_CLEAR v else d

/-- The hottest reading drives the thermal events (R565). -/
def Dev.thermal (d : Dev) (hot : Int) : Dev :=
  let hi : Int := d.get R.CAL_TTHR_HI * 16
  let lo : Int := signedOf 8 (d.get R.CAL_TTHR_LO) * 16
  let above := decide (hi < hot)
  let below := decide (hot < lo)
  let crit := decide (2080 < hot)
  let warns := above && !d.cal.warnHi || below && !d.cal.warnLo
  let back := decide (hot ≤ hi - 32 ∧ lo + 32 ≤ hot)
  let crosses := crit && !d.cal.critHi
  let clears := d.cal.tempOut && back
  let d := d.onCal (fun x => { x with
    warnHi := above, warnLo := below, critHi := crit, tempOut := (x.tempOut && !back) || warns, tempCrit := crosses || (x.tempCrit && !decide (hot < 2048)) })
  let d := if warns then d.ev E.TEMP_WARN else if clears then d.ev E.TEMP_CLEAR else d
  if crosses then d.ev E.TEMP_CRIT 0 (fieldOf 24 hot) else d

/-- The readings no further back than TRATE reaches: as far as the first that is at least 1 s old. -/
def keepHots (now : Nat) : List (Nat × Int) → List (Nat × Int)
  | [] => []
  | x :: r => if x.1 + 1000000 ≤ now then [x] else x :: keepHots now r

/-- The monitors' readings, every 8 strokes (R563 to R565). Readings held in a window are not published; the thermal events follow the sensors
(R566). -/
def Dev.monitor (d : Dev) (temps : List Int) (volts : List Nat) : Dev :=
  let h := hottest temps
  let d := if d.monHeld then d
    else
      let d := d.each (temps.zipIdx.take 8) (fun d x => d.set (R.CAL_TEMP_T x.2) (fieldOf 16 x.1))
      let d := (d.set R.CAL_TMAX_T (fieldOf 16 h.1)).set R.CAL_TMAX_SENSOR h.2
      d.each (volts.zipIdx.take 10) (fun d x => d.voltRead x.2 x.1)
  if temps.isEmpty then d
  else (d.onCal (fun x => { x with hots := keepHots d.rst.xoUs ((d.rst.xoUs, h.1) :: x.hots) })).thermal h.1

/-- The monitors publish (R564). -/
def execMonitorSample (w : When) (temps : List Int) (volts : List Nat) (s : State) : Out := s.runMain w (·.monitor temps volts)

/-- The codes' values at the release of the keep-alive domain (R555): the maker defaults of a MAKER_CFG zone that is not blank, else nominal. -/
def Dev.calDefaults (d : Dev) : Dev := match d.zone 2 with
  | none => d
  | some z => d.each (List.range 18) (fun d c =>
      let v := (Config.makerCode (BitVec.ofNat 512 z) c).toNat
      (d.set (R.CAL_CODE_REC c) v).set (R.CAL_CODE_APPLIED c) v)

end Sys2Proof.Machine
end

