-- ==== Sys2Proof/Machine/CmpCode.lean ====
section
/-! DEFINITION. The trunk block (R362 to R368): the encoder's choices, the block's bytes, and the checks of the decoder (R377, R645). -/

namespace Sys2Proof.Machine

/-! ### Bit strings -/

/-- The low `n` bits of `x`, most significant first. -/
def msbBits : Nat → Nat → List Bool
  | 0, _ => []
  | n + 1, x => bit x n :: msbBits n x

/-- Bytes of a bit string, most significant bit first, padded with zero bits (R363). -/
def bitBytes : Nat → List Bool → List Byte
  | 0, _ => []
  | n + 1, l => if l.isEmpty then [] else
      BitVec.ofNat 8 ((List.range 8).foldl (fun x k => 2 * x + b2n (l.getD k false)) 0) :: bitBytes n (l.drop 8)

/-- The bits of bytes, most significant first. -/
def byteBits (l : List Byte) : List Bool := l.flatMap (fun b => msbBits 8 b.toNat)

/-- `n` bits from the front of a bit string, as a number; none where there are fewer. -/
def takeBits (n : Nat) (l : List Bool) : Option (Nat × List Bool) :=
  if l.length < n then none else some ((l.take n).foldl (fun x b => 2 * x + b2n b) 0, l.drop n)

/-! ### Residues (R364 to R366) -/

/-- u of a residue. -/
def zigzag (e : Int) : Nat := if e < 0 then (-2 * e - 1).toNat else (2 * e).toNat

/-- The residue of u. -/
def unzig (u : Nat) : Int := if u % 2 = 0 then (u / 2 : Nat) else -((u / 2 : Nat) : Int) - 1

/-- The code word of u under parameter `k` (R366). -/
def riceBits (k u : Nat) : List Bool :=
  let q := u / 2 ^ k
  if q < 24 then List.replicate q true ++ false :: msbBits k u else List.replicate 24 true ++ msbBits 27 u

/-- Its length. -/
def riceLen (k u : Nat) : Nat := if u / 2 ^ k < 24 then u / 2 ^ k + 1 + k else 51

/-- The parameter of a partition: the fewest bits, ties to the lower; 0 without residues (R367). -/
def riceK (us : List Nat) : Nat :=
  ((List.range 27).foldl (fun (best : Option (Nat × Nat)) k =>
    let n := (us.map (riceLen k)).sum
    match best with
    | none => some (k, n)
    | some b => if n < b.2 then some (k, n) else some b) none).elim 0 Prod.fst

/-- The partition of residue `i` of `n` frames (R366). -/
def partition (n i : Nat) : Nat := if i < n / 4 then 0 else if i < 2 * n / 4 then 1 else if i < 3 * n / 4 then 2 else 3

/-- Warm-up values of a MODE. -/
def warmUp (mode : Nat) : Nat := if mode = 4 then 1 else if mode ≤ 3 then mode else 0

/-- The differences of a list, the first left out. -/
def diffs : List Int → List Int
  | a :: b :: r => (b - a) :: diffs (b :: r)
  | _ => []

/-- The series that a MODE codes: the samples, or for MODE 4 the difference from the channel before. -/
def modeSeries (mode : Nat) (x prev : List Int) : List Int := if mode = 4 then (x.zip prev).map (fun p => p.1 - p.2) else x

/-- The residues of a MODE from its warm-up on (R365). -/
def residues (mode : Nat) (x prev : List Int) : List Int :=
  match mode with
  | 0 => x
  | 1 => diffs x
  | 2 => diffs (diffs x)
  | 3 => diffs (diffs (diffs x))
  | _ => diffs (modeSeries 4 x prev)

/-- The parameters and the data of MODE 0 to 4. -/
def codeMode (mode : Nat) (x prev : List Int) : List Nat × List Bool :=
  let n := x.length
  let w := warmUp mode
  let us := ((residues mode x prev).map zigzag).zipIdx.map (fun p => (partition n (p.2 + w), p.1))
  let ks := [0, 1, 2, 3].map (fun j => riceK ((us.filter (fun p => p.1 == j)).map Prod.snd))
  let width := if mode = 4 then 25 else 24
  (ks, ((modeSeries mode x prev).take w).flatMap (fun v => msbBits width (fieldOf width v)) ++ us.flatMap (fun p => riceBits (ks.getD p.1 0) p.2))

/-- A channel of a PRED block: its header and data (R363, R364, R367). `prev` is the channel before, where there is one. -/
def codeChannel (x : List Int) (prev : Option (List Int)) : List Byte :=
  let hdr := fun (mode : Nat) (ks : List Nat) => leBytes 3 (mode + ks.getD 0 0 * 8 + ks.getD 1 0 * 256 + ks.getD 2 0 * 8192 + ks.getD 3 0 * 262144)
  if x.all (· == 0) then hdr 5 []
  else
    let modes := [0, 1, 2, 3, 4].filter (fun m => if m = 4 then prev.isSome else decide (m = 0 ∨ m ≤ x.length))
    let cands := modes.map (fun m => (m, codeMode m x (prev.getD []))) ++ [(7, ([], x.flatMap (fun v => msbBits 24 (fieldOf 24 v))))]
    let best := cands.foldl (fun (b : Option (Nat × List Nat × List Bool)) c => match b with
      | none => some c
      | some y => if c.2.2.length < y.2.2.length then some c else some y) none
    match best with
    | none => []
    | some (m, ks, l) => hdr m ks ++ bitBytes (l.length / 8 + 1) l

/-! ### Blocks (R362, R363, R368) -/

/-- What a block's header says besides its TYPE and LEN. -/
structure BlkHdr where
  flags : Nat
  c : Nat
  rate : Nat
  n : Nat
  seq : Nat
  stroke : Nat
  stream : Nat
  deriving DecidableEq, Repr

/-- A block from its TYPE and body: header, body and CRC-32C. -/
def blkBytes (h : BlkHdr) (ty : Nat) (body : List Byte) : List Byte :=
  let b := [0x54, 0x42, BitVec.ofNat 8 ty, BitVec.ofNat 8 h.flags, BitVec.ofNat 8 h.c, BitVec.ofNat 8 h.rate] ++ leBytes 2 h.n ++ leBytes 4 h.seq ++
    leBytes 4 h.stroke ++ leBytes 2 h.stream ++ leBytes 2 (24 + body.length) ++ body
  b ++ leBytes 4 (crc32c 0xFFFFFFFF b)

/-- Channel `c` of frames. -/
def chanOf (frames : List (List Int)) (c : Nat) : List Int := frames.map (fun f => f.getD c 0)

/-- The RAW block of frames. -/
def rawBlock (h : BlkHdr) (frames : List (List Int)) : List Byte :=
  blkBytes h 1 (frames.flatMap (fun f => (List.range h.c).flatMap (fun c => leBytes 3 (fieldOf 24 (f.getD c 0)))))

/-- The PRED block of frames. -/
def predBlock (h : BlkHdr) (frames : List (List Int)) : List Byte :=
  blkBytes h 0 ((List.range h.c).flatMap (fun c => codeChannel (chanOf frames c) (if c = 0 then none else some (chanOf frames (c - 1)))))

/-- The block that the encoder forms (R368). -/
def encBlock (h : BlkHdr) (frames : List (List Int)) : List Byte :=
  if frames.all (fun f => f.all (· == 0)) then blkBytes h 2 []
  else
    let p := predBlock h frames
    let r := rawBlock h frames
    if p.length < r.length then p else r

/-- TYPE of a block. -/
def blkType (b : List Byte) : Nat := (b.getD 2 0).toNat

/-! ### Decoding (R365, R366, R377, R645) -/

/-- One Rice code word. -/
def unRice (k : Nat) (l : List Bool) : Option (Nat × List Bool) :=
  let q := (l.take 24).takeWhile id |>.length
  if q = 24 then takeBits 27 (l.drop 24)
  else match l.drop q with
    | [] => none
    | _ :: r => (takeBits k r).map (fun p => (q * 2 ^ k + p.1, p.2))

/-- The next value of a series from the values before it, newest first, and its residue. -/
def predict (mode : Nat) (h : List Int) (e : Int) : Int :=
  let x := fun k => h.getD k 0
  match mode with
  | 0 => e
  | 2 => e + 2 * x 0 - x 1
  | 3 => e + 3 * x 0 - 3 * x 1 + x 2
  | _ => e + x 0

/-- A sample of 24 bits. -/
def inLane (x : Int) : Bool := decide (-8388608 ≤ x ∧ x ≤ 8388607)

/-- The samples of a channel of MODE 0 to 4 or 7, newest first, read in order; an error gives its reason. -/
def unSeries (mode n : Nat) (ks : List Nat) (prev : List Int) : Nat → List Bool → Except Nat (List Int × List Int × List Bool)
  | 0, l => .ok ([], [], l)
  | i + 1, l => do
    let (xs, ds, l) ← unSeries mode n ks prev i l
    let warm := mode == 7 || decide (i < warmUp mode)
    let width := if mode = 4 then 25 else 24
    match (if warm then takeBits width l else unRice (ks.getD (partition n i) 0) l) with
    | none => throw 3
    | some (v, l) =>
      let d := if warm then signedOf width v else predict mode ds (unzig v)
      let x := if mode = 4 then d + prev.getD i 0 else d
      if inLane x then pure (x :: xs, d :: ds, l) else throw 5

/-- A channel of a PRED block from the bits of the body that are left. -/
def unChannel (n : Nat) (prev : Option (List Int)) (l : List Bool) : Except Nat (List Int × List Bool) :=
  if l.length < 24 then throw 3
  else
    let h := leNat (bitBytes 4 (l.take 24))
    let l := l.drop 24
    let mode := bits h 0 3
    let ks := [bits h 3 5, bits h 8 5, bits h 13 5, bits h 18 5]
    if mode = 6 ∨ (mode = 4 ∧ prev.isNone) ∨ (1 ≤ mode ∧ mode ≤ 3 ∧ n < mode) ∨ ks.any (fun k => decide (26 < k)) ∨ bit h 23 then throw 5
    else if mode = 5 then pure (List.replicate n 0, l)
    else do
      let (xs, _, r) ← unSeries mode n ks (prev.getD []) n l
      let pad := (8 - (l.length - r.length) % 8) % 8
      if (r.take pad).any id then throw 5
      pure (xs.reverse, r.drop pad)

/-- The channels of a PRED block. -/
def unChannels (n : Nat) : Nat → List (List Int) → List Bool → Except Nat (List (List Int) × List Bool)
  | 0, acc, l => .ok (acc, l)
  | c + 1, acc, l => do
    let (x, l) ← unChannel n acc.getLast? l
    unChannels n c (acc ++ [x]) l

/-- A block is checked in the order of R645 and decoded. A stream, or a job, expects C, RATE and STREAM, and a stream N too. -/
def decBlock (c rate stream : Nat) (n : Option Nat) (b : List Byte) : Except Nat (BlkHdr × List (List Int)) :=
  let f := fun o k => leNat ((b.drop o).take k)
  let h : BlkHdr := { flags := f 3 1, c := f 4 1, rate := f 5 1, n := f 6 2, seq := f 8 4, stroke := f 12 4, stream := f 16 2 }
  let ty := f 2 1
  let body := (b.drop 20).take (b.length - 24)
  if b.length < 20 ∨ f 18 2 ≠ b.length then throw 3
  else if crc32c 0xFFFFFFFF (b.take (b.length - 4)) ≠ leNat (b.drop (b.length - 4)) then throw 4
  else if f 0 2 ≠ 0x4254 ∨ 2 < ty ∨ h.c < 1 ∨ 64 < h.c ∨ 5 < h.rate ∨ h.n < 1 ∨ 4096 < h.n ∨ 16384 < h.c * h.n ∨ bit h.stream 15 ∨ 32 ≤ h.flags then throw 1
  else if h.c ≠ c ∨ h.rate ≠ rate ∨ h.stream ≠ stream ∨ (n.isSome ∧ n ≠ some h.n) then throw 2
  else if b.length < 24 then throw 3
  else if ty = 2 then (if body.isEmpty then pure (h, List.replicate h.n (List.replicate h.c 0)) else throw 3)
  else if ty = 1 then
    if body.length ≠ 3 * h.c * h.n then throw 3
    else pure (h, (List.range h.n).map (fun i => (List.range h.c).map (fun k => signedOf 24 (leNat ((body.drop (3 * (i * h.c + k))).take 3)))))
  else do
    let (xs, l) ← unChannels h.n h.c [] (byteBits body)
    if l.isEmpty then pure (h, (List.range h.n).map (fun i => xs.map (fun x => x.getD i 0))) else throw 3

end Sys2Proof.Machine
end

