-- ==== Sys2Proof/Machine/Cmp.lean ====
section
/-! DEFINITION. The compression engine (R360, R369 to R388, R646): encode and decode streams, fixed-buffer jobs, and the CMP commands. -/

namespace Sys2Proof.Machine

/-! ### Image bits of a stream (R370) -/

/-- DIR is decode. -/
def kDec (o : Nat) : Bool := bit o 1
/-- POLICY -/
def kPolicy (o : Nat) : Bool := bit o 2
/-- EN_INIT -/
def kEnInit (o : Nat) : Bool := bit o 3
/-- CH -/
def kCh (o : Nat) : Nat := bits o 4 7
/-- RATE -/
def kRate (o : Nat) : Nat := bits o 11 3
/-- B -/
def kB (o : Nat) : Nat := bits o 14 8
/-- IN_Q -/
def kInQ (o : Nat) : Nat := bits o 22 16
/-- OUT_Q -/
def kOutQ (o : Nat) : Nat := bits o 38 16
/-- CAP -/
def kCap (o : Nat) : Nat := bits o 54 16
/-- DLAT -/
def kDlat (o : Nat) : Nat := bits o 70 9
/-- RING -/
def kRing (o : Nat) : Nat := bits o 79 10
/-- BUF_BASE -/
def kBuf (o : Nat) : Nat := bits o 89 24
/-- STREAM_ID -/
def kId (o : Nat) : Nat := bits o 113 15

/-- Samples per stroke of a RATE, coded as ORATE (R207). -/
def rateSpp (r : Nat) : Nat := [1, 2, 3, 4, 6, 12].getD r 1

/-- A stream. -/
def Dev.cmpS (d : Dev) (n : Nat) : CmpRt := kvD d.cmp.streams n {}

/-- A stream is replaced. -/
def Dev.setCmpS (d : Dev) (n : Nat) (r : CmpRt) : Dev := { d with cmp := { d.cmp with streams := kvSet n r d.cmp.streams } }

/-- CMP_CNT counts `n` more. -/
def Dev.cmpCnt (d : Dev) (k n : Nat) : Dev := d.count (R.CMP_CNT_COUNT k) n

/-- CMP_LAST names a stream, with a reason. -/
def Dev.cmpLast (d : Dev) (n reason : Nat) : Dev := (d.set R.CMP_LAST_STREAM n).set R.CMP_LAST_REASON reason

/-- A counter of a stream counts `n` more. -/
def CmpRt.add (r : CmpRt) (k n : Nat) : CmpRt := { r with cnt := r.cnt.modify k (· + BitVec.ofNat 32 n) }

/-- A stream as it starts at the boundary of a changeover (R386). -/
def cmpFresh (o : Nat) : CmpRt := { en := kEnInit o }

/-! ### A stream's buffer in the reservoir (R370, R371) -/

/-- The bytes of a stream's largest block. -/
def cmpBlkBytes (o : Nat) : Nat := 24 + 3 * kCh o * kB o * rateSpp (kRate o)

/-- The buffer of a stream (R371). -/
def cmpSpan (o : Nat) : Nat × Nat :=
  (kBuf o, if kDec o then ceilDiv (kRing o * kCh o * rateSpp (kRate o)) 3 + ceilDiv (cmpBlkBytes o) 9 else 2 * ceilDiv (cmpBlkBytes o) 9)

/-- The buffer lies in a CMP partition of the image (R371, R487). An image that gives none has no address for it, and the stream keeps its content itself. -/
def Dev.cmpHeld (d : Dev) (o : Nat) : Bool :=
  (d.bank.sec S.PARTITIONS).any (fun x => bits x.2 1 4 == 4 && !bit x.2 0 &&
    decide (bits x.2 6 36 ≤ (cmpSpan o).1 ∧ (cmpSpan o).1 + (cmpSpan o).2 ≤ bits x.2 6 36 + bits x.2 42 36))

/-- Where in a stream's buffer, in words, the block lies that waits or is partly received; the block in assembly follows that of an encode stream. The spec gives the
buffer's extent alone: DESIGN CHOICE (unsafe, log entry 119). -/
def cmpBlkAt (o : Nat) : Nat := if kDec o then kBuf o + ceilDiv (kRing o * kCh o * rateSpp (kRate o)) 3 else kBuf o

/-- Bytes are put into the buffer from byte `j` after word `a`. -/
def Dev.bufPut (d : Dev) (o a j : Nat) (l : List Byte) : Dev :=
  if !d.cmpHeld o then d
  else d.each l.zipIdx (fun d x =>
    let w := a + (j + x.2) / 9
    d.resWrite w (mkW (setBits (wData (kvD d.qf.res w 0)) (8 * ((j + x.2) % 9)) 8 x.1.toNat) false false false false))

/-- The bytes `l` as the buffer holds them from byte `j` after word `a`, and the bytes of them in words that read POISON. -/
def Dev.bufGet (d : Dev) (o a j : Nat) (l : List Byte) : List Byte × List Nat × Dev :=
  if !d.cmpHeld o || l.isEmpty then (l, [], d)
  else
    let (ws, d) := d.resReadN (a + j / 9) ((j + l.length - 1) / 9 - j / 9 + 1)
    (((wordBytes (ws.map wData)).drop (j % 9)).take l.length,
      (List.range l.length).filter (fun k => wPoison (ws.getD ((j % 9 + k) / 9) 0)), d)

/-- The samples of frames as bytes (R363). -/
def frameBytes (frames : List (List Int)) : List Byte := frames.flatMap (fun f => f.flatMap (fun v => leBytes 3 (fieldOf 24 v)))

/-- Frames of `c` channels from their bytes; the samples in `bad` are zero. -/
def framesOf (c n : Nat) (b : List Byte) (bad : List Nat) : List (List Int) :=
  (List.range n).map (fun i => (List.range c).map (fun k =>
    let j := 3 * (i * c + k)
    if bad.any (fun x => decide (j ≤ x ∧ x < j + 3)) then 0 else signedOf 24 (leNat ((b.drop j).take 3))))

/-- The first sample of stroke `s` in the ring of a decode stream. -/
def ringAt (o s : Nat) : Nat := s % max 1 (kRing o) * (kCh o * rateSpp (kRate o))

/-- The frames of stroke `s` are put into the ring's words, three samples each. -/
def Dev.ringPut (d : Dev) (o s : Nat) (frames : List (List Int)) : Dev :=
  if !d.cmpHeld o then d
  else d.each (frames.flatMap id).zipIdx (fun d x =>
    let i := ringAt o s + x.2
    let w := kBuf o + i / 3
    d.resWrite w (mkW (setBits (wData (kvD d.qf.res w 0)) (24 * (i % 3)) 24 (fieldOf 24 x.1)) false false false false))

/-- Sample `c` of frame `k` of stroke `s`, as the ring's words hold it. -/
def Dev.ringGet (d : Dev) (o s : Nat) (frames : List (List Int)) : (Nat → Nat → Int × Bool) × Dev :=
  let n := kCh o * rateSpp (kRate o)
  if !d.cmpHeld o || n == 0 || frames.isEmpty then (fun k c => ((frames.getD k []).getD c 0, false), d)
  else
    let i0 := ringAt o s
    let (ws, d) := d.resReadN (kBuf o + i0 / 3) ((i0 + n - 1) / 3 - i0 / 3 + 1)
    (fun k c =>
      let w := ws.getD ((i0 % 3 + (k * kCh o + c)) / 3) 0
      (sLane (wData w) ((i0 + (k * kCh o + c)) % 3), wPoison w), d)

/-! ### Encode streams (R369, R372 to R376) -/

/-- FLAGS of R362. -/
def fIdle : Nat := 1
/-- CONCEAL -/
def fConceal : Nat := 2
/-- OVF -/
def fOvf : Nat := 4
/-- STALE -/
def fStale : Nat := 8
/-- POISON -/
def fPoison : Nat := 16

/-- A sample as the encoder reads it, and the FLAGS it gives (R369). -/
def cmpRead (s : Smp) : Int × Nat :=
  if s.poison then (0, fPoison)
  else if bit s.rs 0 then (0, 0)
  else (s.v, (if bit s.rs 2 then fConceal else 0) + (if bit s.rs 1 then fOvf else 0) + (if bit s.rs 5 then fStale else 0))

/-- The stroke's items popped from a stream's input (R190, R372): its frames, its FLAGS, and whether it is idle. -/
def Dev.cmpIn (d : Dev) (n o : Nat) : Dev × List (List Int) × Nat × Bool :=
  let m := kCh o
  let (cnt, per) := popShape (rateSpp (kRate o)) m
  (List.range cnt).foldl (fun (x : Dev × List (List Int) × Nat × Bool) _ =>
    let (it, d) := x.1.qPop (kInQ o) false
    let fits := hPlen (itemHdr it) == ceilDiv (per * m) 3
    let d := if fits then d else (d.cmpCnt 7 1).evOnce E.CMP_IN_ERR 0 n
    if !fits || bit (itemHdr it) rIdle then (d, x.2.1 ++ List.replicate per (List.replicate m 0), x.2.2.1, x.2.2.2)
    else
      let rd := fun f c => cmpRead (itemSmp it 1 (f * m + c))
      let fl := (List.range per).foldl (fun a f => (List.range m).foldl (fun a c => a ||| (rd f c).2) a) x.2.2.1
      (d, x.2.1 ++ (List.range per).map (fun f => (List.range m).map (fun c => (rd f c).1)), fl, false)) (d, [], 0, true)

/-- A block is formed and checked (R368, R376): `faults` checks find it different. The answer holds the block, unless it is discarded, and whether a PRED block was
replaced. -/
def formBlock (h : BlkHdr) (frames : List (List Int)) (faults : Nat) : Option (List Byte) × Bool :=
  let b := encBlock h frames
  if faults = 0 then (some b, false)
  else if blkType b = 0 then (if faults = 1 then some (rawBlock h frames) else none, true)
  else (none, false)

/-- Failed checks are counted (R376); `stream` names the stream, none for a job. -/
def Dev.verifyMark (d : Dev) (stream : Option Nat) (replaced lost : Bool) : Dev :=
  let n := stream.getD 0
  let last := fun (d : Dev) => if stream.isSome then d.cmpLast n 0 else d
  let d := if replaced then ((last ((d.cmpCnt 1 1).set R.CMP_STAT_VERIFY 1)).ev E.CMP_VERIFY_FAIL n 0) else d
  if lost then (last (((d.cmpCnt 2 1).set R.CMP_STAT_VERIFY 1).set R.CMP_STAT_FATAL 1)).ev E.CMP_VERIFY_FAIL n 1 else d

/-- Bytes of a full fragment (R373). -/
def Dev.fragBytes (d : Dev) (q : Nat) : Nat := max 1 ((qSlotWords (d.objD S.QUEUES q) - 2) * 9)

/-- The fragment items of a block (R373), `bad` its bytes that were read from words with POISON (R236). -/
def fragItems (size : Nat) (b : List Byte) (bad : List Nat := []) : List (List MWord) :=
  let nf := ceilDiv b.length size
  let seq := leNat ((b.drop 8).take 2)
  (List.range nf).map (fun j =>
    let x := (b.drop (j * size)).take size
    let w1 := j * size % 65536 + seq * 2 ^ 16 + b2n (j == 0) * 2 ^ 32 + b2n (j + 1 == nf) * 2 ^ 33 + x.length % 4096 * 2 ^ 48
    mkItem 0 0 (mkW w1 false false false false :: (packBytes x).zipIdx.map (fun w =>
      mkW w.1 false false false (bad.any (fun y => decide (j * size + 9 * w.2 ≤ y ∧ y < j * size + 9 * w.2 + 9))))))

/-- The stream holds credit for all fragments of a block (R374). -/
def Dev.blkCredit (d : Dev) (q : Nat) (its : List (List MWord)) : Bool :=
  d.qValid q && (qPosted (d.objD S.QUEUES q) || decide (its.length ≤ (d.q q).credit.toNat)) && !d.qWaits q (its.headD [])

/-- A block is pushed and counted (R646), or waits under STALL (R374). -/
def Dev.blkOut (d : Dev) (n o : Nat) (b : List Byte) : Dev :=
  let r := d.cmpS n
  if d.blkCredit (kOutQ o) (fragItems (d.fragBytes (kOutQ o)) b) then
    let (b, bad, d) := if r.wait.isSome then d.bufGet o (cmpBlkAt o) 0 b else (b, [], d)
    let its := fragItems (d.fragBytes (kOutQ o)) b bad
    let r := (((r.add 0 1).add (1 + blkType b) 1).add 4 b.length)
    let d := (d.setCmpS n { r with wait := none }).cmpCnt 0 1
    d.each its (fun d it => d.qPush (kOutQ o) it)
  else if r.wait.isSome then d
  else ((d.bufPut o (cmpBlkAt o) 0 b).setCmpS n { r with wait := some b }).ev E.CMP_STALL n

/-- A block in assembly is complete (R372 to R376): its SEQ is consumed whatever becomes of it. -/
def Dev.blkDone (d : Dev) (n o : Nat) (a : CmpAsm) (faults : Nat) : Dev :=
  let r := d.cmpS n
  let h : BlkHdr := { flags := a.flags + (if a.idle then fIdle else 0), c := kCh o, rate := kRate o, n := a.frames.length, seq := r.seq.toNat,
                      stroke := a.start % 2 ^ 32, stream := kId o }
  let d := d.setCmpS n { r with seq := r.seq + 1, asm := none }
  let (b, replaced) := formBlock h a.frames faults
  let d := if replaced then d.setCmpS n ((d.cmpS n).add 5 1) else d
  let d := d.verifyMark (some n) replaced b.isNone
  match b with
  | none => d
  | some b =>
    if kPolicy o ∧ kCap o < b.length then
      (((d.setCmpS n ((d.cmpS n).add 7 1)).cmpCnt 4 1).cmpLast n 0).evOnce E.CMP_OVER_CAP 0 n
    else if (d.cmpS n).wait.isSome then (d.setCmpS n ((d.cmpS n).add 6 1)).cmpCnt 3 1
    else d.blkOut n o b

/-- The stroke of an encode stream (R372, R374). -/
def Dev.encPass (d : Dev) (n o faults : Nat) : Dev :=
  let t1 := d.org.num - 1
  let (d, frames, fl, idle) := d.cmpIn n o
  let d := match (d.cmpS n).wait with
    | none => d
    | some b => d.blkOut n o b
  let r := d.cmpS n
  if !r.en then d
  else
    let asm := if t1 % max 1 (kB o) = 0 then some { start := t1 } else r.asm
    match asm with
    | none => d
    | some (a : CmpAsm) =>
      let at' := cmpBlkAt o + ceilDiv (cmpBlkBytes o) 9
      let d := d.bufPut o at' (20 + 3 * kCh o * a.frames.length) (frameBytes frames)
      let a := { a with frames := a.frames ++ frames, flags := a.flags ||| fl, idle := a.idle && idle }
      if kB o * rateSpp (kRate o) ≤ a.frames.length then
        let (b, bad, d) := d.bufGet o at' 20 (frameBytes a.frames)
        d.blkDone n o { a with frames := framesOf (kCh o) a.frames.length b bad, flags := a.flags ||| (if bad.isEmpty then 0 else fPoison) } faults
      else d.setCmpS n { r with asm := some a }

/-! ### Decode streams (R377 to R379) -/

/-- DEC_ERR, with its reason (R377). -/
def Dev.decErr (d : Dev) (n reason : Nat) : Dev :=
  (((d.setCmpS n ((d.cmpS n).add 1 1)).cmpCnt 5 1).cmpLast n reason).evOnce E.CMP_DEC_ERR 0 n reason

/-- FRAG_ERR: the partial block is discarded (R377). -/
def Dev.fragErr (d : Dev) (n : Nat) : Dev := (d.setCmpS n { (d.cmpS n).add 7 1 with part := none }).evOnce E.CMP_DEC_ERR 0 n

/-- A block's frames are put into the ring (R378). -/
def CmpRt.place (r : CmpRt) (s b spp seq flags : Nat) (frames : List (List Int)) : CmpRt :=
  let ring := (List.range b).foldl (fun (m : Kv (Nat × List (List Int))) k => kvSet (s + k) (flags, (frames.drop (k * spp)).take spp) m) r.ring
  let dif := (seq + 2 ^ 32 - r.seq.toNat) % 2 ^ 32
  let low := r.hasBlk && decide (2 ^ 31 ≤ dif)
  let r := (if r.hasBlk && !low then r.add 3 dif else r).add 0 1
  { r with ring := ring, placed := s :: r.placed, hasBlk := true, seq := if low then r.seq else BitVec.ofNat 32 (seq + 1) }

/-- A completed block is checked and placed in the pass of stroke `t` (R377, R378). -/
def Dev.blkIn (d : Dev) (n o : Nat) (b : List Byte) : Dev :=
  let t := d.org.num
  let spp := rateSpp (kRate o)
  match decBlock (kCh o) (kRate o) (kId o) (some (kB o * spp)) b with
  | .error e => d.decErr n e
  | .ok (h, frames) =>
    let r := d.cmpS n
    let s : Int := (t : Int) + signedOf 32 ((h.stroke + 2 ^ 32 - t % 2 ^ 32) % 2 ^ 32)
    let out0 : Int := (t : Int) - kDlat o
    if s < 0 ∨ s < out0 then d.setCmpS n (r.add 2 1)
    else if out0 + kRing o ≤ s + kB o - 1 then d.setCmpS n (r.add 6 1)
    else if r.placed.contains s.toNat then d.setCmpS n (r.add 4 1)
    else
      let d := d.each (List.range (kB o)) (fun d k => d.ringPut o (s.toNat + k) ((frames.drop (k * spp)).take spp))
      d.setCmpS n (r.place s.toNat (kB o) spp h.seq h.flags frames)

/-- A fragment item (R377). -/
def Dev.fragIn (d : Dev) (n o : Nat) (it : List MWord) : Dev :=
  if bit (itemHdr it) rIdle then d
  else
    let w1 := wData (it.getD 1 0)
    let seq := bits w1 16 16
    let data := (wordBytes ((it.drop 2).map wData)).take (bits w1 48 12)
    let d := if bit w1 32 ∧ (d.cmpS n).part.isSome then d.fragErr n else d
    let part := if bit w1 32 then some (seq, []) else (d.cmpS n).part
    match part with
    | none => d.fragErr n
    | some (s, b) =>
      if s ≠ seq ∨ bits w1 0 16 ≠ b.length then d.fragErr n
      else
        let d := d.bufPut o (cmpBlkAt o) b.length data
        if bit w1 33 then
          let (b, _, d) := (d.setCmpS n { d.cmpS n with part := none }).bufGet o (cmpBlkAt o) 0 (b ++ data)
          d.blkIn n o b
        else d.setCmpS n { d.cmpS n with part := some (s, b ++ data) }

/-- The output of a decode stream in the pass of stroke `t` (R379). -/
def Dev.decOut (d : Dev) (n o : Nat) : Dev :=
  let m := kCh o
  let spp := rateSpp (kRate o)
  let u : Int := (d.org.num : Int) - kDlat o
  let r := d.cmpS n
  let hit := if u < 0 then none else kvGet u.toNat r.ring
  let r := { r with ring := r.ring.filter (fun (x : Nat × (Nat × List (List Int))) => decide (u < (x.1 : Int)))
                    placed := r.placed.filter (fun s => decide (u < (s : Int) + kB o)) }
  let d := d.setCmpS n (if hit.isNone && r.hasBlk then r.add 5 1 else r)
  let fl := match hit with
    | some h => h.1
    | none => if r.hasBlk then fConceal else fIdle
  let rs := (if bit fl 1 || bit fl 4 then rsConceal else 0) + (if bit fl 2 then rsOvf else 0) + (if bit fl 3 then 32 else 0)
  let frames := (hit.map Prod.snd).getD []
  let (at', d) := d.ringGet o u.toNat frames
  let its := smpItems spp m (fun k c => { v := (at' k c).1, rs := rs, poison := (at' k c).2 })
  d.each its (fun d it => d.qPush (kOutQ o) (if bit fl 0 then itemMapHdr (fun h => setBit h rIdle) it else it))

/-- The stroke of a decode stream: the `held` items that IN_Q held as the pass began, and its output (R377, R379). -/
def Dev.decPass (d : Dev) (n o held : Nat) : Dev :=
  if !(d.cmpS n).en then d
  else
    let d := (List.range held).foldl (fun d _ =>
      let (it, d) := d.qPop (kInQ o) false
      d.fragIn n o it) d
    d.decOut n o

/-! ### The pass, its overrun and the boundary (R372, R380, R381) -/

/-- A stream that is abandoned for the stroke: an encode stream's item is popped and lost (R184, R372, R380). -/
def Dev.cmpSkipped (d : Dev) (n o : Nat) : Dev := if kDec o then d else (d.cmpIn n o).1

/-- The CMP pass of the stroke. `faulty` is as in `Instr.cmpPass`. A decode stream takes up to 64 items, none of them pushed in this pass (R377). -/
def Dev.cmpPass (d : Dev) (faulty : List Nat) : Dev :=
  if d.isolated .cmp || d.cmp.passed == some d.org.num then d
  else
    let d := { d with cmp := { d.cmp with passed := some d.org.num } }
    let held := (d.bank.sec S.CMP).map (fun x => (x.1, min 64 (d.q (kInQ x.2)).depth))
    d.each (d.bank.sec S.CMP) (fun d x =>
      if d.cmp.skip.contains x.1 then d.cmpSkipped x.1 x.2
      else if kDec x.2 then d.decPass x.1 x.2 (kvD held x.1 0)
      else d.encPass x.1 x.2 (faulty.filter (· == x.1)).length)

/-- A stream has not finished by cycle 156,249 (R380). -/
def Dev.cmpOverrun (d : Dev) (n : Nat) : Dev :=
  match d.obj S.CMP n with
  | none => d
  | some o =>
    if d.isolated .cmp || d.cmp.passed == some d.org.num || d.cmp.skip.contains n then d
    else
      let d := { d with cmp := { d.cmp with skip := n :: d.cmp.skip } }
      let d := if d.qValid (kOutQ o) then d.setQ (kOutQ o) { d.q (kOutQ o) with fbArmed := true } else d
      let r := d.cmpS n
      let begins := r.en && (d.org.num - 1) % max 1 (kB o) == 0
      let d := if !kDec o && (r.asm.isSome || begins) then d.setCmpS n { r with asm := none, seq := r.seq + 1 } else d
      (((d.cmpCnt 6 1).set R.CMP_STAT_PASS_OVR 1).cmpLast n 0).ev E.CMP_OVERRUN n

/-- ENABLE and DISABLE apply at the stroke boundary (R381). -/
def CmpRt.boundary (r : CmpRt) : CmpRt := match r.enPend with
  | none => r
  | some true => { r with en := true, enPend := none, hasBlk := false }
  | some false => { r with en := false, enPend := none, asm := none }

/-- CMP at a stroke boundary. -/
def Dev.cmpBoundary (d : Dev) : Dev :=
  let d := if d.isolated .cmp || d.cmp.passed == some (d.org.num - 1) then d
    else d.each d.cmp.skip (fun d n => d.cmpSkipped n (d.objD S.CMP n))
  { d with cmp := { d.cmp with skip := [], streams := d.cmp.streams.map (fun (x : Nat × CmpRt) => (x.1, x.2.boundary)) } }

/-! ### Fixed-buffer jobs (R382 to R385) -/

/-- DDR word `w` lies in a job window of the image: a CMP_JOB partition (R385, R487). -/
def Dev.inJobWindow (d : Dev) (ddr : Bool) (w : Nat) : Bool :=
  ddr && (d.bank.sec S.PARTITIONS).any (fun x => bits x.2 1 4 == 7 && bit x.2 0 && decide (bits x.2 6 36 ≤ w ∧ w < bits x.2 6 36 + bits x.2 42 36))

/-- Words `w` to `w + n - 1` lie in job windows. -/
def Dev.jobSpan (d : Dev) (ddr : Bool) (w n : Nat) : Bool := (List.range n).all (fun k => d.inJobWindow ddr (w + k))

/-- Where a job stands: what it has consumed, produced, and the blocks. -/
structure JobAt where
  used : Nat := 0
  made : Nat := 0
  blocks : Nat := 0
  deriving DecidableEq, Repr

/-- `n` bytes of a job buffer from byte `j` (R382). -/
def Dev.jobBytes (d : Dev) (addr off j n : Nat) : List Byte × Dev :=
  if n = 0 then ([], d)
  else
    let b := off + j
    let (ws, d) := d.ddrReadN (addr + b / 9) ((b + n - 1) / 9 - b / 9 + 1)
    (((wordBytes (ws.map wData)).drop (b % 9)).take n, d)

/-- Bytes are put into a job buffer from byte `j`. -/
def Dev.jobPutBytes (d : Dev) (addr off j : Nat) (l : List Byte) : Dev :=
  d.each l.zipIdx (fun d x =>
    let b := off + j + x.2
    let w := addr + b / 9
    d.ddrWrite w (mkW (setBits (wData (d.ddrCell w)) (8 * (b % 9)) 8 x.1.toNat) false false false false))

/-- Samples are put into a job buffer from sample `j`. -/
def Dev.jobPutPcm (d : Dev) (addr off j : Nat) (l : List Int) : Dev :=
  d.each l.zipIdx (fun d x =>
    let i := off + j + x.2
    let w := addr + i / 3
    d.ddrWrite w (mkW (setBits (wData (d.ddrCell w)) (24 * (i % 3)) 24 (fieldOf 24 x.1)) false false false false))

/-- The words that `n` units from unit `j` touch, `per` units a word: the first and how many. -/
def spanOf (addr off j n per : Nat) : Nat × Nat := if n = 0 then (addr, 0) else (addr + (off + j) / per, (off + j + n - 1) / per - (off + j) / per + 1)

/-- One block of an encode job (R383): its status where the job ends. -/
def Dev.jobEnc (d : Dev) (j : Nat) (at' : JobAt) (faults : Nat) : Dev × Except Nat JobAt :=
  let ch := bits j 4 7
  let spp := rateSpp (bits j 11 3)
  let n := min (bits j 14 13) (bits j 112 32 - at'.used)
  let src := spanOf (bits j 32 36) (bits j 27 4) (at'.used * ch) (n * ch) 3
  if bits j 112 32 ≤ at'.used then (d, .error 0)
  else if !d.jobSpan (bit j 2) src.1 src.2 then (d, .error 6)
  else
    let (ws, d) := d.ddrReadN src.1 src.2
    let i0 := bits j 27 4 + at'.used * ch
    let rd := fun i =>
      let w := ws.getD ((i0 + i) / 3 - i0 / 3) 0
      cmpRead { v := sLane (wData w) ((i0 + i) % 3), poison := wPoison w }
    let h : BlkHdr := { flags := if ws.any wPoison then fPoison else 0, c := ch, rate := bits j 11 3, n := n, seq := bits j 176 32 + at'.blocks,
                        stroke := bits j 256 32 + at'.used / spp, stream := bits j 208 16 }
    let frames := (List.range n).map (fun f => (List.range ch).map (fun c => (rd (f * ch + c)).1))
    let (b, replaced) := formBlock h frames faults
    let d := d.verifyMark none replaced b.isNone
    match b with
    | none => (d, .error 5)
    | some b =>
      let dst := spanOf (bits j 72 36) (bits j 68 4) at'.made b.length 9
      if bit j 1 ∧ bits j 224 16 < b.length then (d.cmpCnt 4 1, .error 4)
      else if bits j 144 32 < at'.made + b.length then (d, .error 1)
      else if !d.jobSpan (bit j 3) dst.1 dst.2 then (d, .error 6)
      else ((d.jobPutBytes (bits j 72 36) (bits j 68 4) at'.made b).cmpCnt 0 1, .ok ⟨at'.used + n, at'.made + b.length, at'.blocks + 1⟩)

/-- One block of a decode job (R384). -/
def Dev.jobDec (d : Dev) (j : Nat) (at' : JobAt) : Dev × Except Nat JobAt :=
  let ch := bits j 4 7
  let left := bits j 112 32 - at'.used
  let span := fun n => spanOf (bits j 32 36) (bits j 27 4) at'.used n 9
  if left = 0 then (d, .error 0)
  else if left < 20 then (d, .error 2)
  else if !d.jobSpan (bit j 2) (span 20).1 (span 20).2 then (d, .error 6)
  else
    let (hd, d) := d.jobBytes (bits j 32 36) (bits j 27 4) at'.used 20
    let len := leNat (hd.drop 18)
    if left < len then (d, .error 2)
    else if !d.jobSpan (bit j 2) (span len).1 (span len).2 then (d, .error 6)
    else
      let (b, d) := d.jobBytes (bits j 32 36) (bits j 27 4) at'.used len
      match decBlock ch (bits j 11 3) (bits j 208 16) none b with
      | .error _ => (d, .error 3)
      | .ok (h, frames) =>
        let dst := spanOf (bits j 72 36) (bits j 68 4) (at'.made * ch) (h.n * ch) 3
        if bits j 144 32 < at'.made + h.n then (d, .error 1)
        else if !d.jobSpan (bit j 3) dst.1 dst.2 then (d, .error 6)
        else (d.jobPutPcm (bits j 72 36) (bits j 68 4) (at'.made * ch) (frames.flatMap id), .ok ⟨at'.used + len, at'.made + h.n, at'.blocks + 1⟩)

/-- A job runs to its end, or to the block at which it is stopped: `blocks` of them at most, then status 7. -/
def Dev.jobRun (d : Dev) (j : Nat) (faulty : List Nat) (blocks : Nat) : Nat → JobAt → Dev × JobAt × Nat
  | 0, a => (d, a, 0)
  | fuel + 1, a =>
    if blocks ≤ a.blocks then (d, a, 7)
    else match (if bit j 0 then d.jobDec j a else d.jobEnc j a (faulty.filter (· == a.blocks)).length) with
      | (d, .error st) => (d, a, st)
      | (d, .ok a) => d.jobRun j faulty blocks fuel a

/-- The job ends with a status (R385). -/
def Dev.jobEnd (d : Dev) (a : JobAt) (st : Nat) : Dev :=
  let d := { d with cmp := { d.cmp with job := none } }
  let d := ((d.set R.CMP_JOB_STAT_BUSY 0).set R.CMP_JOB_STAT_STATUS st).set R.CMP_JOB_STAT_BLOCKS a.blocks
  ((d.set R.CMP_JOB_CONSUMED_N a.used).set R.CMP_JOB_PRODUCED_N a.made).ev E.CMP_JOB_DONE

/-- The job's work is done and it ends (R383 to R385). -/
def Dev.jobDone (d : Dev) (faulty : List Nat) : Dev :=
  match d.cmp.job with
  | none => d
  | some j =>
    let (d, a, st) := d.jobRun j.toNat faulty (2 ^ 32) (bits j.toNat 112 32 + 1) {}
    d.jobEnd a st

/-- A job is stopped: how many whole blocks it had written is a free value below the number it would have ended with (log entry 41). -/
def Dev.jobStop (d : Dev) : Dev :=
  match d.cmp.job with
  | none => d
  | some j =>
    let fuel := bits j.toNat 112 32 + 1
    let all := (d.jobRun j.toNat [] (2 ^ 32) fuel {}).2.1.blocks
    let (x, d) := d.takeFree 32
    let (d, a, _) := d.jobRun j.toNat [] (x % max 1 all) fuel {}
    d.jobEnd a 7

/-- The fields of a job descriptor are within R382 and R370. -/
def jobOk (j : Nat) : Bool :=
  inR 1 (bits j 4 7) 64 && decide (bits j 11 3 ≤ 5) && !bit j 223 &&
    (if bit j 0 then decide (bits j 27 4 ≤ 8 ∧ bits j 68 4 ≤ 2)
     else inR 1 (bits j 14 13) 4096 && decide (bits j 4 7 * bits j 14 13 ≤ 16384) && decide (bits j 27 4 ≤ 2 ∧ bits j 68 4 ≤ 8)) &&
    (if !bit j 0 && bit j 1 then decide (24 ≤ bits j 224 16) else bits j 224 16 == 0)

/-- CMP_JOB_CMD OP 1 and 2 (R387). -/
def Dev.jobCmd (d : Dev) (req : Requester) (op : Nat) : Dev :=
  d.command C.job req .oper (fun d =>
    let j := d.getWords R.CMP_JOB_DESC_D 9
    if op < 1 ∨ 2 < op ∨ d.isolated .cmp then .error 2
    else if op = 1 then
      if d.cmp.job.isSome then .error 1
      else if !jobOk j then .error 2
      else if bits j 112 32 = 0 then .ok (d.jobEnd {} 0)
      else
        let d := { d with cmp := { d.cmp with job := some (BitVec.ofNat 288 j) } }
        .ok ((((d.set R.CMP_JOB_STAT_BUSY 1).set R.CMP_JOB_STAT_BLOCKS 0).set R.CMP_JOB_CONSUMED_N 0).set R.CMP_JOB_PRODUCED_N 0)
    else if d.cmp.job.isNone then .error 1
    else .ok d.jobStop)

/-! ### Commands (R387, R388) -/

/-- The 256 bits of a stream descriptor (R370). -/
def Dev.cmpDesc (d : Dev) (n : Nat) : Nat :=
  let r := d.cmpS n
  d.objD S.CMP n % 2 ^ 128 + b2n r.en * 2 ^ 128 + r.seq.toNat * 2 ^ 129 + b2n r.wait.isSome * 2 ^ 161 + b2n r.hasBlk * 2 ^ 162

/-- CMP_CMD OP 1 to 4 (R387). -/
def Dev.cmpCmd (d : Dev) (req : Requester) (op : Nat) : Dev :=
  d.command C.cmp req (if op = 1 ∨ op = 4 then .none else .oper) (fun d =>
    let n := d.get R.CMP_IDX_IDX
    let r := d.cmpS n
    if op < 1 ∨ 4 < op then .error 2
    else if (d.obj S.CMP n).isNone then .error 1
    else if op = 1 then .ok (d.setWords R.CMP_DATA_D 8 (d.cmpDesc n))
    else if op = 4 then .ok (d.each r.cnt.zipIdx (fun d x => d.set (R.CMP_DATA_D x.2) x.1.toNat))
    else if d.isolated .cmp then .error 2
    else .ok (d.setCmpS n { r with enPend := some (op == 2) }))

/-- The CMP pass (R372). -/
def execCmpPass (w : When) (faulty : List Nat) (s : State) : Out := s.runMain w (·.cmpPass faulty)

/-- A stream is abandoned for the stroke (R380). -/
def execCmpOverrun (w : When) (stream : Nat) (s : State) : Out := s.runMain w (·.cmpOverrun stream)

/-- CMP_CMD READ (R387). -/
def execCmpRead (w : When) (req : Requester) (s : State) : Out := s.runReq w req (·.cmpCmd req 1)

/-- CMP_CMD ENABLE (R381). -/
def execCmpEnable (w : When) (req : Requester) (s : State) : Out := s.runReq w req (·.cmpCmd req 2)

/-- CMP_CMD DISABLE (R381). -/
def execCmpDisable (w : When) (req : Requester) (s : State) : Out := s.runReq w req (·.cmpCmd req 3)

/-- CMP_CMD stream counters into CMP_DATA (R388). -/
def execCmpStreamCounters (w : When) (req : Requester) (s : State) : Out := s.runReq w req (·.cmpCmd req 4)

/-- CMP_JOB_CMD START (R382, R387). -/
def execJobStart (w : When) (req : Requester) (s : State) : Out := s.runReq w req (·.jobCmd req 1)

/-- CMP_JOB_CMD ABORT (R385). -/
def execJobAbort (w : When) (req : Requester) (s : State) : Out := s.runReq w req (·.jobCmd req 2)

/-- The job ends (R385). -/
def execCmpJobDone (w : When) (faulty : List Nat) (s : State) : Out := s.runMain w (·.jobDone faulty)

end Sys2Proof.Machine
end

