-- ==== Sys2Proof/Machine/Lines.lean ====
section
/-! DEFINITION. TDM ports, MADI framers and bitstream inputs (R439 to R457). -/

namespace Sys2Proof.Machine

/-! ### Descriptors (R439, R440, R449) -/

/-- A slave port. -/
def tSlave (o : Nat) : Bool := bit o 1
/-- SLOTS -/
def tSlots (o : Nat) : Nat := bits o 7 7
/-- SLOT_BITS -/
def tSlotBits (o : Nat) : Nat := 8 * (bits o 14 2 + 1)
/-- F: frames a stroke. -/
def tF (o : Nat) : Nat := [1, 2, 6, 12].getD (bits o 16 2) 1
/-- OFS_NS -/
def tOfs (o : Nat) : Nat := bits o 18 17

/-- Slot 0 starts one BCLK after the FS edge: I2S, and DSP with FS_LATE (R439). -/
def tLead (o : Nat) : Bool := bits o 2 2 == 1 || (bits o 2 2 == 0 && bit o 4)

/-- A transmit group. -/
def grTx (o : Nat) : Bool := bit o 1
/-- FIRST -/
def grFirst (o : Nat) : Nat := bits o 7 6
/-- COUNT -/
def grCount (o : Nat) : Nat := bits o 13 7
/-- LAW -/
def grLaw (o : Nat) : Nat := bits o 20 2
/-- QUEUE -/
def grQueue (o : Nat) : Nat := bits o 22 16
/-- PORT of a TDM group, and the framer of a MADI group. -/
def grPort (madi : Bool) (o : Nat) : Nat := if madi then bits o 2 2 else bits o 2 5

/-- A line: a TDM port, or with `madi` a MADI framer. -/
def Dev.line (d : Dev) (madi : Bool) (p : Nat) : LineRt := kvD (if madi then d.ports.madi else d.ports.tdm) p {}

/-- A line is replaced. -/
def Dev.setLine (d : Dev) (madi : Bool) (p : Nat) (l : LineRt) : Dev :=
  if madi then { d with ports := { d.ports with madi := kvSet p l d.ports.madi } }
  else { d with ports := { d.ports with tdm := kvSet p l d.ports.tdm } }

/-- The block of a line. -/
def lineBlk (madi : Bool) (p : Nat) : Blk := if madi then .madi p else .tdm p

/-- Frames a stroke, slots a frame and bits a slot of a line; a MADI channel is 24 bits (R439, R448, R449). -/
def LineRt.f (l : LineRt) (madi : Bool) : Nat := if madi then 6 else tF l.desc
/-- Slots or channels. -/
def LineRt.n (l : LineRt) (madi : Bool) : Nat := if madi then (if bit l.desc 1 then 56 else 64) else tSlots l.desc
/-- Bits a slot. -/
def LineRt.b (l : LineRt) (madi : Bool) : Nat := if madi then 24 else tSlotBits l.desc
/-- OFS_NS. -/
def LineRt.ofs (l : LineRt) (madi : Bool) : Nat := if madi then bits l.desc 4 15 else tOfs l.desc
/-- The line receives on an external clock: a slave port, or the receive side of a framer. -/
def LineRt.ext (l : LineRt) (madi : Bool) : Bool := if madi then true else tSlave l.desc
/-- The line receives: RX_EN of a framer; every TDM port. -/
def LineRt.rxOn (l : LineRt) (madi : Bool) : Bool := !madi || bit l.desc 2
/-- The line transmits: TX_EN of a framer; every TDM port. -/
def LineRt.txOn (l : LineRt) (madi : Bool) : Bool := !madi || bit l.desc 3

/-- The line that a group serves. Its queue's port tells a TDM group from a MADI group: ports 0 to 31 of node 79 are TDM, the others MADI
(R639; log entry 32). -/
def Dev.groupLine (d : Dev) (o : Nat) : Bool × Nat :=
  let q := d.objD S.QUEUES (grQueue o)
  let madi := decide (32 ≤ (if grTx o then qConsPort q else qProdPort q))
  (madi, grPort madi o)

/-! ### Slots and lanes (R443) -/

/-- A slot's bits as a lane field. -/
def slotLane (law b v : Nat) : Nat :=
  if law != 0 then v % 256 else if b = 32 then v / 256 % 2 ^ 24 else v % 2 ^ b * 2 ^ (24 - b)

/-- A lane as a slot's bits. -/
def laneSlot (law b : Nat) (x : Int) : Nat :=
  if law != 0 then fieldOf 8 x else if b = 32 then fieldOf 24 x * 256
  else fieldOf b (clampInt (-(2 ^ (b - 1))) (2 ^ (b - 1) - 1) (roundEven x (2 ^ (24 - b))))

/-- The idle value of a slot (R443). -/
def idleSlot (law : Nat) : Nat := if law = 1 then 0xD5 else if law = 2 then 0xFF else 0

/-! ### Receive (R444, R446, R447, R451) -/

/-- The sample of a received slot: [31:0] its bits, [32] MARK with CONCEAL, [33] POISON. -/
def slotSmp (law b v : Nat) : Smp :=
  { v := signedOf 24 (slotLane law b (v % 2 ^ 32)), rs := if bit v 32 then rsConceal else 0, poison := bit v 33 }

/-- Frame `i` of a receive group's items: the samples of its slots; a frame that a slip left empty gives idle values with CONCEAL. -/
def groupSmp (law b first : Nat) (fr : List Nat) (j : Nat) : Smp :=
  if fr.isEmpty then { v := signedOf 24 (idleSlot law), rs := rsConceal } else slotSmp law b (fr.getD (first + j) (idleSlot law))

/-- A slip (R446): its counter (0 receive, 1 transmit), the flag, and SYNC_SLIP at the first in a stroke. -/
def Dev.slip (d : Dev) (madi : Bool) (p tx : Nat) : Dev :=
  let d := if madi then (d.set (R.MADI_STAT_SLIP p) 1).count (R.MADI_CNT_COUNT p tx) else (d.set (R.TDM_STAT_SLIP p) 1).count (R.TDM_CNT_COUNT p tx)
  d.evOnce E.SYNC_SLIP 0 (if madi then 32 + p else p)

/-- The stroke whose item a group pushes now: the last bit of its last slot in frame F - 1 may end past the boundary (R444; log entry 34). The
frames of an external clock lie at their phase from the nominal ones (R446). -/
def Dev.pushStroke (d : Dev) (l : LineRt) (madi : Bool) (p o : Nat) : Nat :=
  let f := l.f madi
  let n := max 1 (l.n madi)
  let b := l.b madi
  -- in units of 1/(16 F n b) ns from the boundary: OFS + ((F - 1) n + FIRST + COUNT) slots and the lead + the phase
  let nominal := l.ofs madi * f * n * b + ((f - 1) * n + grFirst o + grCount o) * b * 125000 + (if !madi && tLead l.desc then 125000 else 0)
  let phase := if l.ext madi then signedOf 32 (d.get (if madi then R.MADI_PHASE_P p else R.TDM_PHASE_P p)) else 0
  let e : Int := 16 * (nominal : Int) + phase * (f * n * b : Nat)
  ((d.org.num : Int) - e / (2000000 * f * n * b : Nat)).toNat

/-- Slips of stroke `t` count: the line is not in block reset, or went into it in that stroke or later (R456, R474). -/
def Dev.slipOn (d : Dev) (madi : Bool) (p t : Nat) : Bool := !d.isolated (lineBlk madi p) || decide (t ≤ (d.line madi p).heldAt)

/-- Nominal frames without a received one are left to be filled, each a slip (R446). -/
def Dev.fillFrames (d : Dev) (madi : Bool) (p : Nat) (ns : List Nat) : Dev :=
  d.each ns (fun d n =>
    let l := d.line madi p
    if (kvGet n l.rx).isSome || decide (n < l.first) then d else (d.setLine madi p { l with rx := kvSet n [] l.rx }).slip madi p 0)

/-- A receive group pushes the items of its stroke (R444). On a line that is lost they hold idle values with REASON.IDLE (R447); a line in block
reset pushes nothing, and counts the slips of the stroke in which that began (R456, R474). A stroke that lies before the framing in force gives no item. -/
def Dev.rxPush (d : Dev) (g : Nat) (frames : List (List Nat)) : Dev :=
  match d.obj S.GROUPS g with
  | none => d
  | some o =>
    let (madi, p) := d.groupLine o
    let l := d.line madi p
    let f := l.f madi
    let t := d.pushStroke l madi p o
    let ns := (List.range f).map (fun k => t * f + k)
    if grTx o || !l.valid || !l.rxOn madi || decide (l.base ≤ t * f ∧ (t + 1) * f ≤ l.first) then d
    else if d.isolated (lineBlk madi p) then (if l.ext madi && !l.lost && d.slipOn madi p t then d.fillFrames madi p ns else d)
    else
      let m := grCount o
      let b := l.b madi
      let law := grLaw o
      let push := fun (d : Dev) (reason : Nat) (h : Nat → Nat → Smp) =>
        d.each (smpItems f m h) (fun d it => d.qPush (grQueue o) (itemMapHdr (fun x => x ||| reason) it))
      if l.lost then push d (2 ^ rIdle) (fun _ _ => { v := signedOf 24 (idleSlot law) })
      else if l.ext madi then
        let d := d.fillFrames madi p ns
        let l := d.line madi p
        let rows := ns.map (fun n => kvD l.rx n [])
        push d 0 (fun k j => groupSmp law b (grFirst o) (rows.getD k []) j)
      else push d 0 (fun k j => slotSmp law b ((frames.getD k []).getD j (idleSlot law) % 2 ^ 32))

/-- A receive group's push (R444): for a master port `frames` are the values of the group's slots, frame by frame. -/
def execTdmRxPush (w : When) (group : Nat) (frames : List (List Nat)) (s : State) : Out := s.runMain w (·.rxPush group frames)

/-! ### Transmit (R445, R446, R450) -/

/-- Sample `j` of frame `k` of a transmit group's items (R445): the slot's bits, and whether its word carries REASON.CONCEAL. A word marked
REASON.PRIME sends the idle value, and so does what an item lacks. -/
def txSlot (l : LineRt) (madi : Bool) (o : Nat) (its : List (List MWord)) (k j : Nat) : Nat × Bool :=
  let f := l.f madi
  let m := max 1 (grCount o)
  let per := (popShape f m).2
  let it := its.getD (k / max 1 per) []
  let i := k % max 1 per * m + j
  if it.length ≤ 1 + i / 3 then (idleSlot (grLaw o), false)
  else
    let s := itemSmp it 1 i
    if bit s.rs 0 then (idleSlot (grLaw o), false) else (laneSlot (grLaw o) (l.b madi) s.v, bit s.rs 2)

/-- The transmit group that holds a slot. -/
def LineRt.txGroup (l : LineRt) (slot : Nat) : Option (Nat × Nat) :=
  l.groups.find? (fun g => grTx g.2 && decide (grFirst g.2 ≤ slot ∧ slot < grFirst g.2 + grCount g.2))

/-- P of a MADI channel: even parity over the sample, V, U and C, as AES3 has it: PRESUMED (unsafe, log entry 124). -/
def madiParity (x : Nat) (v c : Bool) : Bool := (List.range 24).foldl (fun p i => xor p (bit x i)) (xor v c)

/-- The values of nominal frame `n` on a line: each slot's bits; for a MADI channel also V in [24], channel-active in [25], C in [26] and P in [27], U being 0 (R450). A
slot outside every transmit group is zero here; TRI_UNUSED says whether it is driven. `idle` says that idle values are sent. -/
def LineRt.frame (l : LineRt) (madi : Bool) (its : Kv (List (List MWord))) (idle : Bool) (n : Nat) : List Nat :=
  let f := max 1 (l.f madi)
  let cBit := bit l.cs.toNat (n / f % 32 * 6 + n % f)
  (List.range (l.n madi)).map (fun s => match l.txGroup s with
    | none => if madi then b2n cBit * 2 ^ 26 + b2n (madiParity 0 false cBit) * 2 ^ 27 else 0
    | some (g, o) =>
      let x := if idle then (idleSlot (grLaw o), false) else txSlot l madi o (kvD its g []) (n % f) (s - grFirst o)
      if madi then x.1 + b2n x.2 * 2 ^ 24 + 2 ^ 25 + b2n cBit * 2 ^ 26 + b2n (madiParity x.1 x.2 cBit) * 2 ^ 27 else x.1)

/-- The values that a line sends in nominal frame `n` of this stroke or the one before; the frame begun before a changeover completes (R474). -/
def Dev.lineFrame (d : Dev) (madi : Bool) (p n : Nat) : List Nat :=
  let l := d.line madi p
  let t := n / max 1 (l.f madi)
  if l.tail.any (fun x => x.n == n) && decide (n < l.base) then (l.tail.map LineTail.vals).getD []
  else if t = d.org.num then l.frame madi l.tx l.txIdle n
  else if t + 1 = d.org.num then l.frame madi l.txOld l.txIdle n
  else l.frame madi [] true n

/-- A transmit group pops the items of the stroke (R445). A POISON pop counts at a TDM port too (R476). -/
def Dev.txPop (d : Dev) (madi : Bool) (p g o : Nat) : Dev :=
  let l := d.line madi p
  let (k, _) := popShape (l.f madi) (grCount o)
  let before := ((d.q (grQueue o)).c 9) / 65536
  let (d, its) := (List.range k).foldl (fun (x : Dev × List (List MWord)) _ =>
    let (it, d) := x.1.qPop (grQueue o) true
    (d, x.2 ++ [it])) (d, [])
  let pois := (((d.q (grQueue o)).c 9) / 65536 + 65536 - before) % 65536
  let d := if madi || pois = 0 then d else d.count (R.TDM_CNT_COUNT p 3) pois
  let l := d.line madi p
  d.setLine madi p { l with tx := kvSet g its l.tx }

/-- A line at the boundary that begins a stroke: the nominal frames that no external frame took are slips of transmit (R446), frames of old strokes
go, and the transmit groups pop (R445). In block reset and while the main domain is down it sends idle values (R36, R455, R456). -/
def Dev.lineBoundary (d : Dev) (madi : Bool) (p : Nat) : Dev :=
  let l := d.line madi p
  if !l.valid then d
  else
    let f := l.f madi
    let t := d.org.num
    let missed := if madi || !tSlave l.desc || l.lost || t < 2 then [] else
      ((List.range f).map (fun k => (t - 2) * f + k)).filter (fun n => decide (l.first ≤ n) && !l.txDone.contains n && d.slipOn madi p (t - 2))
    let d := d.each missed (fun d _ => d.slip madi p 1)
    let l := d.line madi p
    let idle := d.isolated (lineBlk madi p) || !d.rst.mainUp
    let l := { l with
      rx := l.rx.filter (fun x => decide ((t - 1) * f ≤ x.1))
      txDone := l.txDone.filter (fun n => decide ((t - 1) * f ≤ n))
      txOld := l.tx, tx := [], txIdle := idle }
    let d := d.setLine madi p l
    if idle || !l.txOn madi then d
    else d.each (l.groups.filter (fun g => grTx g.2)) (fun d g => if d.qValid (grQueue g.2) then d.txPop madi p g.1 g.2 else d)

/-- All lines at a boundary. -/
def Dev.linesBoundary (d : Dev) : Dev :=
  let d := d.each (kvKeys d.ports.tdm) (fun d p => d.lineBoundary false p)
  d.each (kvKeys d.ports.madi) (fun d p => d.lineBoundary true p)

/-! ### External frames (R446, R447, R451) -/

/-- The nominal frame of a frame whose FS instant lies `fs` 1/16 ns after the boundary that began stroke `t`, and its phase in 1/16 ns (R446). Halfway between two starts the
later is taken, and the phase is rounded half to even: DESIGN CHOICE (unsafe, log entry 124). -/
def LineRt.frameAt (l : LineRt) (madi : Bool) (t : Nat) (fs : Int) : Nat × Int :=
  let f := max 1 (l.f madi)
  let y := (fs - 16 * (l.ofs madi : Nat)) * (f : Int)
  let k := (2 * y + 2000000) / 4000000
  (((t * f : Nat) + k).toNat, roundEven (y - k * 2000000) f)

/-- The phase of a received frame, and LOCK (R446). -/
def Dev.linePhase (d : Dev) (madi : Bool) (p : Nat) (phase : Int) : Dev :=
  let lock := b2n (decide (phase.natAbs * (d.line madi p).f madi ≤ 250000))
  if madi then (d.set (R.MADI_PHASE_P p) (fieldOf 32 phase)).set (R.MADI_STAT_LOCK p) lock
  else (d.set (R.TDM_PHASE_P p) (fieldOf 32 phase)).set (R.TDM_STAT_LOCK p) lock

/-- BCLK and FS are present, or not. -/
def Dev.lineClk (d : Dev) (madi : Bool) (p v : Nat) : Dev :=
  if madi then d.set (R.MADI_STAT_CLK_OK p) v else d.set (R.TDM_STAT_CLK_OK p) v

/-- A frame is received on a lost line: the second whole one brings the line back (R447). -/
def Dev.lineBack (d : Dev) (madi : Bool) (p nominal : Nat) : Dev :=
  let l := d.line madi p
  if l.back + 1 < 2 then d.setLine madi p { l with back := l.back + 1 }
  else (d.setLine madi p { l with lost := false, back := 0, first := nominal + 1 }).lineClk madi p 1

/-- A received frame goes to its nominal frame; one that is already held costs a slip (R446). Those between a frame begun before a changeover and the new framing are not
received (R474). -/
def Dev.frameIn (d : Dev) (madi : Bool) (p nominal : Nat) (slots : List Nat) : Dev :=
  let l := d.line madi p
  if !l.rxOn madi || decide (l.base ≤ nominal ∧ nominal < l.first) then d
  else if (kvGet nominal l.rx).isSome then d.slip madi p 0
  else d.setLine madi p { l with rx := kvSet nominal slots l.rx }

/-- The external frame sends the samples of its nominal frame, or idle values where that has been sent, a slip (R446). The reply holds the slots
sent. -/
def Dev.frameOut (d : Dev) (p nominal : Nat) : Dev :=
  let l := d.line false p
  if nominal < l.first then d
  else if l.txDone.contains nominal then
    let d := if d.slipOn false p d.org.num then d.slip false p 1 else d
    { d with reply := { d.reply with words := (l.frame false [] true nominal).map (BitVec.ofNat 32) } }
  else
    let sent := d.lineFrame false p nominal
    let d := d.setLine false p { l with txDone := nominal :: l.txDone }
    { d with reply := { d.reply with words := sent.map (BitVec.ofNat 32) } }

/-- A frame is received by a slave port (R446), or by a framer with its channels already decoded. -/
def Dev.slaveFrame (d : Dev) (madi : Bool) (p : Nat) (fs : Int) (slots : List Nat) : Dev :=
  let l := d.line madi p
  let (nominal, phase) := l.frameAt madi d.org.num fs
  if !l.valid || !l.ext madi then d
  else if l.lost then d.lineBack madi p nominal
  else
    let d := (d.linePhase madi p phase).lineClk madi p 1
    let d := if d.slipOn madi p d.org.num then d.frameIn madi p nominal slots else d
    if madi then d else d.frameOut p nominal

/-- The VDDIO bank of a line's pins is powered (R621, R627). -/
def Dev.linePins (d : Dev) (madi : Bool) (p : Nat) : Bool := bit d.rst.banks.toNat (if madi then 2 else p / 16)

/-- A slave port's frame (R446). It runs in the keep-alive domain (R457). -/
def execSlaveFrameRx (w : When) (madi : Bool) (port : Nat) (fs : Int) (slots : List Nat) (s : State) : Out :=
  s.runKa w (fun d => Dev.when (d.linePins madi port) (·.slaveFrame madi port fs (slots.map (· % 2 ^ 32))) d)

/-- A line is lost (R447). -/
def Dev.lineLost (d : Dev) (madi : Bool) (p : Nat) : Dev :=
  let l := d.line madi p
  if !l.valid || !l.ext madi || l.lost then d
  else
    let d := d.setLine madi p { l with lost := true, back := 0, csIn := [] }
    let d := if madi then ((d.set (R.MADI_STAT_LINE_LOST p) 1).set (R.MADI_STAT_LOCK p) 0).count (R.MADI_CNT_COUNT p 3)
      else ((d.set (R.TDM_STAT_LINE_LOST p) 1).set (R.TDM_STAT_LOCK p) 0).count (R.TDM_CNT_COUNT p 2)
    (d.lineClk madi p 0).ev E.LINE_LOST (if madi then 32 + p else p)

/-- A line is lost (R447). -/
def execLineLost (w : When) (madi : Bool) (port : Nat) (s : State) : Out := s.runKa w (·.lineLost madi port)

/-- A MADI channel as a received slot: V marks it with CONCEAL, a parity error makes it POISON, an inactive channel is zero without a mark (R451). -/
def madiSlot (c : MadiChan) : Nat :=
  (if !c.active then 0 else c.x.toNat + b2n c.v * 2 ^ 32) + b2n (!c.parityOk) * 2 ^ 33

/-- The channel status of channel 0 and the channel-active bits of a frame (R451, R476). At a block start the 192 bits gathered since the last one
are latched. -/
def Dev.madiStatus (d : Dev) (m : Nat) (blockStart : Bool) (chans : List MadiChan) : Dev :=
  let act := chans.zipIdx.foldl (fun a x => a + b2n x.1.active * 2 ^ x.2) 0
  let d := (d.set (R.MADI_ACT_A m 0) (act % 2 ^ 32)).set (R.MADI_ACT_A m 1) (act / 2 ^ 32)
  let l := d.line true m
  let d := if blockStart && l.csIn.length == 192 then
      d.setWords (R.MADI_CS_B m) 6 (l.csIn.zipIdx.foldl (fun a x => a + b2n x.1 * 2 ^ x.2) 0)
    else d
  let c0 := ((chans.head?).map MadiChan.c).getD false
  d.setLine true m { l with csIn := if blockStart then [c0] else if l.csIn.isEmpty || 192 ≤ l.csIn.length then [] else l.csIn ++ [c0] }

/-- A MADI frame is received (R451). -/
def Dev.madiFrame (d : Dev) (m : Nat) (fs : Int) (blockStart : Bool) (chans : List MadiChan) : Dev :=
  let l := d.line true m
  if !l.valid || !l.rxOn true then d
  else if l.lost then d.slaveFrame true m fs []
  else
    let chans := chans.take (l.n true)
    let bad := (chans.filter (fun c => !c.parityOk)).length
    let d := if bad = 0 then d
      else ((d.set (R.MADI_STAT_PARITY m) 1).count (R.MADI_CNT_COUNT m 2) bad).evOnce E.MADI_PARITY 0 m
    (d.madiStatus m blockStart chans).slaveFrame true m fs (chans.map madiSlot)

/-- A MADI frame (R451). -/
def execMadiFrameRx (w : When) (m : Nat) (fs : Int) (blockStart : Bool) (chans : List MadiChan) (s : State) : Out :=
  s.runKa w (fun d => Dev.when (d.linePins true m) (·.madiFrame m fs blockStart chans) d)

/-! ### A line's framing at a changeover (R457, R474) -/

/-- The frame that a line has begun when stroke `t` begins, and how far past the boundary it ends, in 1 / (16 F) ns: it starts OFS_NS and the phase of an external clock
after its nominal place (R442, R446). -/
def LineRt.begun (l : LineRt) (madi : Bool) (t : Nat) (phase : Int) : Nat × Nat :=
  let f := max 1 (l.f madi)
  let x : Int := (16 * (l.ofs madi : Nat) + phase) * (f : Int)
  (((t * f : Nat) - 1 - x / 2000000).toNat, (x % 2000000).toNat)

/-- A line's new framing at the boundary of stroke `t` (R474): it begins with the first frame whose start is at or after the end of the frame begun before, which
completes. -/
def LineRt.newFraming (n l : LineRt) (madi : Bool) (t : Nat) (phase : Int) : LineRt :=
  let f := n.f madi
  let b := l.begun madi t phase
  let need := b.2 * f
  let skip := if l.valid then ceilDiv (need - 16 * n.ofs madi * f * max 1 (l.f madi)) (2000000 * max 1 (l.f madi)) else 0
  { n with first := t * f + skip, base := t * f, rx := if l.f madi = f then l.rx else []
           tail := if l.valid && l.txOn madi && b.2 != 0 then
               some ⟨b.1, l.desc, l.groups, l.frame madi l.tx (l.txIdle || decide (t * l.f madi ≤ b.1)) b.1⟩ else none }

/-- A line takes its descriptor and groups from the active image. An unchanged descriptor lets it go on; a changed one begins a new framing (R474). The clocks of a port
that is removed stop. -/
def Dev.lineLoad (d : Dev) (madi : Bool) (p : Nat) : Dev :=
  let ty := if madi then S.MADI else S.TDM
  let gs := (d.bank.sec S.GROUPS).filter (fun x => d.groupLine x.2 == (madi, p))
  let l := d.line madi p
  let phase := if l.ext madi then signedOf 32 (d.get (if madi then R.MADI_PHASE_P p else R.TDM_PHASE_P p)) else 0
  match d.obj ty p with
  | none => if l.valid then
        let d := ((d.setLine madi p {}).linePhase madi p 0).lineClk madi p 0
        d.set (if madi then R.MADI_STAT_LOCK p else R.TDM_STAT_LOCK p) 0
      else d
  | some o =>
    let cs := if madi then BitVec.ofNat 192 (bits o 32 192) else 0
    if l.valid && l.desc == o then d.setLine madi p { l with groups := gs, cs := cs }
    else
      let n : LineRt := { valid := true, desc := o, groups := gs, cs := cs, heldAt := l.heldAt }
      let d := d.setLine madi p (n.newFraming l madi d.org.num phase)
      -- a master port is at phase zero, within the LOCK of R446 (log entry 34)
      if n.ext madi then d else (d.linePhase madi p 0).lineClk madi p 1

/-- A line goes into block reset (R35, R456, R539): from its isolation cycle on it sends idle values, and its run-time state is cleared. The frames received in this stroke
stay for its slips (R474). -/
def Dev.lineHold (d : Dev) (madi : Bool) (p : Nat) : Dev :=
  let l := d.line madi p
  d.setLine madi p { l with txIdle := true, tx := [], txOld := [], csIn := [], tail := none, heldAt := d.org.num }

/-- A line leaves block reset: it starts as at the changeover that brought it in, with the frames of the next stroke (R499, R539). -/
def Dev.lineStart (d : Dev) (madi : Bool) (p : Nat) : Dev :=
  let l := d.line madi p
  if l.valid then d.setLine madi p { l with first := (d.org.num + 1) * l.f madi, base := 0, rx := [], txDone := [] } else d

/-! ### Bitstream inputs (R452, R453) -/

/-- BSD_STAT follows what the clocks and the inputs do (R476). -/
def Dev.bsdStat (d : Dev) : Dev :=
  let ok := (List.range 4).foldl (fun a c => a + b2n (d.bsdClkOk c) * 2 ^ c) 0
  let inp := (List.range 16).foldl (fun a i => match d.obj S.BSD (16 + i) with
    | none => a
    | some o => a + b2n (!d.isolated .bsd && d.bsdClkOk (bits o 1 2)) * 2 ^ i) 0
  ((d.set R.BSD_STAT_CLK_OK ok).set R.BSD_STAT_IN_OK inp).chainsWatch

/-- A clock's fault in this stroke, counted once (R453, R476). -/
def Dev.bsdFault (d : Dev) (c : Nat) : Dev :=
  match d.obj S.BSD c with
  | none => d
  | some o =>
    if 4 ≤ c || !bit o 1 || d.ports.bsdBad.contains c || d.isolated .bsd then d
    else
      let d := { d with ports := { d.ports with bsdBad := insNat c d.ports.bsdBad, bsdGood := kvSet c 0 d.ports.bsdGood } }
      ((d.count (R.BSD_CNT_COUNT c)).evOnce E.BSD_FAULT 0 c).bsdStat

/-- A bitstream clock fails (R453). -/
def execBsdFault (w : When) (clk : Nat) (s : State) : Out := s.runMain w (·.bsdFault clk)

/-- The BSD clocks at a boundary: `exact` tells which gave the exact count in the stroke that ends (R453); while bank 2 is not powered none does (R621). -/
def Dev.bsdBoundary (d : Dev) (exact : Nat) : Dev :=
  let d := d.each [0, 1, 2, 3] (fun d c =>
    if bit exact c && bit d.rst.banks.toNat 2 then
      (if d.ports.bsdBad.contains c then d else { d with ports := { d.ports with bsdGood := kvSet c (min 2 (kvD d.ports.bsdGood c 0 + 1)) d.ports.bsdGood } })
    else d.bsdFault c)
  ({ d with ports := { d.ports with bsdBad := [] } }).bsdStat

end Sys2Proof.Machine
end

