-- ==== Sys2Proof/Machine/Security.lean ====
section
/-! DEFINITION. Roles, security and the sump log (R570 to R601): challenges and tokens, option writes, held keys, attestation, the audit trail, and
the commands of the sump log. -/

namespace Sys2Proof.Machine

/-! ### Bytes and hashes -/

/-- One bit of the IEEE 802.3 CRC-32, reflected. -/
def crc32Step : Nat → Nat → Nat
  | 0, c => c
  | n + 1, c => crc32Step n (if c % 2 = 1 then (c / 2) ^^^ 0xEDB88320 else c / 2)

/-- The CRC-32 of R524. -/
def crc32 (l : List Byte) : Nat := (l.foldl (fun c b => crc32Step 8 (c ^^^ b.toNat)) 0xFFFFFFFF) ^^^ 0xFFFFFFFF

/-- The number of bytes `o` to `o + n - 1` of a register array, big-endian. -/
def regBE (x o n : Nat) : Nat := beNat (leBytes n (bits x (8 * o) (8 * n)))

/-- A number whose `n` big-endian bytes are the bytes of `x` in order, as a register array holds them. -/
def beReg (n x : Nat) : Nat := leNat (beBytes n x)

/-- The hash of a role key given as X and then Y (R574). -/
def keyHash (pub : BitVec 768) : BitVec 384 := sha384 (4 :: beBytes 96 pub.toNat)

/-- The active key hash of a role: 1 operator, 2 installer, 3 maker (R574). -/
def Dev.roleHash (d : Dev) (role : Nat) : Option (BitVec 384) :=
  match role with
  | 1 => d.operHash
  | 2 => d.instHash
  | 3 => d.makerHash
  | _ => none

/-! ### Banks (R570) -/

/-- The bank of a requester. -/
def Dev.secBank (d : Dev) : Requester → SecBank
  | .host => d.sec.host
  | .fw => d.sec.fw

/-- The bank of a requester is replaced. -/
def Dev.setSecBank (d : Dev) (req : Requester) (b : SecBank) : Dev :=
  match req with
  | .host => { d with sec := { d.sec with host := b } }
  | .fw => { d with sec := { d.sec with fw := b } }

/-- The number of a requester in tokens and records (R580, R588). -/
def reqNum : Requester → Nat
  | .host => 0
  | .fw => 1

/-! ### Measurement -/

/-- The packs of a bank in ascending PACK_ID. -/
def Bank.packsById (b : Bank) : List Pack := (b.packs.foldl (fun (m : Kv Pack) p => kvSet p.id p m) []).map Prod.snd

/-- The kernel-pack measurement and the hash of an image (R587). -/
def Bank.measure (b : Bank) : BitVec 384 × BitVec 384 := (sha384 (b.packsById.flatMap (fun p => hashBytes p.hash)), b.hash)

/-! ### The audit trail (R588 to R591) -/

/-- An unreserved entry of the audit queue is free (R590): 32 entries, the last 4 of them reserved, and one more for an accepted LOAD. -/
def Dev.audFree (d : Dev) : Bool := decide (d.sec.audQ.length + b2n d.sec.audRes < 28)

/-- The bytes of an audit record ahead of its signature (R588). -/
def Dev.audBody (d : Dev) (role reqNo kind result arg : Nat) (detail : BitVec 384) : List Byte :=
  let st := if d.flag R.STK_STAT_RUNNING then d.org.num else 2 ^ 64 - 1
  let ns := if d.clkValid then d.nowNs else 0
  leBytes 4 d.sec.seq.toNat ++ leBytes 8 st ++ leBytes 6 (ns / 10 ^ 9) ++ leBytes 4 (ns % 10 ^ 9) ++
    [BitVec.ofNat 8 role, BitVec.ofNat 8 reqNo] ++ leBytes 2 kind ++ leBytes 2 result ++ leBytes 4 arg ++ hashBytes detail ++ hashBytes d.sec.head

/-- A signature of the identity key over `body`, all zero where the key store fails (R585). -/
def Dev.signed (d : Dev) (body : List Byte) : List Byte × Dev :=
  if d.sec.idOk then (beBytes 96 (Config.ecdsaSign d.sec.idPub (sha384 body) d.free).toNat, { d with free := d.free + 1 })
  else (List.replicate 96 0, d)

/-- A record enters the audit queue, or is discarded and counted where even the reserved entries are full (R590, R591). The commands that need an unreserved entry have
been refused where none is free; the record of a PRESENT that found one may stand behind that of the session it replaced: DEDUCED (unsafe, log entry 145). -/
def Dev.audQueue (d : Dev) (kind : Nat) (r : List Byte) : Dev :=
  let q := d.sec.audQ
  if q.length + (if kind = 4 then 0 else b2n d.sec.audRes) < 32 then
    let d := { d with sec := { d.sec with audQ := q ++ [r] } }
    if q.isEmpty then d.ev E.AUDIT_READY else d
  else (d.count R.SEC_AUD_STAT_LOST).ev E.AUDIT_LOST

/-- A record is appended (R590). -/
def Dev.audit (d : Dev) (role reqNo kind result arg : Nat) (detail : BitVec 384) : Dev :=
  let d := { d with sec := { d.sec with seq := d.sec.seq + 1 } }
  let body := d.audBody role reqNo kind result arg detail
  let sg := d.signed body
  let r := body ++ sg.1
  let d := sg.2
  ({ d with sec := { d.sec with head := sha384 r } }).audQueue kind r

/-- A read of SEC_AUD_D[0] pops the oldest record and latches it (R591). -/
def Dev.audPop (d : Dev) : Word × Dev :=
  match d.sec.audQ with
  | [] => (0, { d with sec := { d.sec with audLatch := [] } })
  | r :: q => (BitVec.ofNat 32 (leNat (r.take 4)), { d with sec := { d.sec with audQ := q, audLatch := r } })

/-- SEC_AUD_D[0] is read (R591). -/
def execAuditPop (w : When) (req : Requester) (s : State) : Out :=
  s.runReq w req (fun d => let x := d.audPop; { x.2 with reply := { words := [x.1], bytes := x.2.sec.audLatch } })

/-! ### Challenges (R579) -/

/-- SEC_CMD CHALLENGE: 48 bytes from the random bit generator, which the spec leaves open (log entry 1). -/
def Dev.challengeNow (d : Dev) (req : Requester) : Dev :=
  let x := d.takeFree 384
  let c := BitVec.ofNat 384 x.1
  x.2.setSecBank req { x.2.secBank req with chal := some c, chalUs := d.rst.xoUs, chalReg := c }

/-- SEC_CMD CHALLENGE (R579). -/
def execChallenge (w : When) (req : Requester) (s : State) : Out :=
  s.runReq w req (fun d => d.command C.sec req .none (fun d => .ok (d.challengeNow req)))

/-- The requester's challenge is no longer outstanding. -/
def Dev.dropChal (d : Dev) (req : Requester) : Dev := d.setSecBank req { d.secBank req with chal := none }

/-- 60 s have passed since the requester's challenge was issued (R579). -/
def Dev.chalOver (d : Dev) (req : Requester) : Bool := decide ((d.secBank req).chalUs + 60000000 ≤ d.rst.xoUs)

/-- The challenge that is outstanding. -/
def Dev.chalNow (d : Dev) (req : Requester) : Option (BitVec 384) := if d.chalOver req then none else (d.secBank req).chal

/-- A challenge expires 60 s after it was issued (R579). -/
def execChallengeExpire (w : When) (req : Requester) (s : State) : Out := s.runMain w (fun d => Dev.when (d.chalOver req) (·.dropChal req) d)

/-! ### The token (R580 to R583) -/

/-- Fields of a token (R580). -/
def tkRole (t : Nat) : Nat := bits t 32 8
/-- ACTION -/
def tkAction (t : Nat) : Nat := bits t 40 8
/-- REQUESTER -/
def tkReq (t : Nat) : Nat := bits t 48 8
/-- SERIAL -/
def tkSerial (t : Nat) : Nat := bits t 64 128
/-- CHALLENGE, byte i in bits [8i + 7 : 8i] -/
def tkChal (t : Nat) : Nat := bits t 192 384
/-- ARG_HASH -/
def tkArgHash (t : Nat) : BitVec 384 := BitVec.ofNat 384 (regBE t 72 48)
/-- DURATION_S -/
def tkDuration (t : Nat) : Nat := bits t 960 32
/-- PUB -/
def tkPub (t : Nat) : BitVec 768 := BitVec.ofNat 768 (regBE t 128 96)
/-- SIG -/
def tkSig (t : Nat) : BitVec 768 := BitVec.ofNat 768 (regBE t 224 96)

/-- The zone that SEC_ARG names. -/
def argZone (a : Nat) : Nat := bits a 0 8

/-- The content that SEC_ARG carries, 64 bytes. -/
def argData (a : Nat) : Nat := bits a 32 512

/-- The roles whose token may program a zone (R583). -/
def zoneRoles (z : Nat) : List Nat :=
  if z ≤ 2 then [3] else if z = 7 then [2, 3] else if z ≤ 6 then [2] else [2, 3]

/-- The roles that an action takes, none where the action is unknown (R582). -/
def actionRoles (action zone : Nat) : List Nat :=
  match action with
  | 1 => [1]
  | 2 => zoneRoles zone
  | 3 => [3]
  | 4 => [2]
  | _ => []

/-- Check 1, FORMAT (R581). -/
def tkFormatOk (t a : Nat) : Bool :=
  bits t 0 32 == 0x544B4E31 && (actionRoles (tkAction t) (argZone a)).contains (tkRole t) && bits t 56 8 == 0 && bits t 992 32 == 0

/-- Check 5, KEY (R581), with the exception of R583 for zone INST_KEYS. -/
def Dev.tkKeyOk (d : Dev) (t a : Nat) : Bool :=
  let h := keyHash (tkPub t)
  match d.roleHash (tkRole t) with
  | some k => k == h
  | none => tkAction t == 2 && tkRole t == 2 && argZone a == 3 && zHash (argData a) == h

/-- Check 7, ARG (R581 to R583). -/
def tkArgOk (t a : Nat) : Bool :=
  if tkAction t = 2 then
    tkArgHash t == sha384 (leBytes 68 a) && tkDuration t == 0 && decide (argZone a ≤ 7) && bits a 8 24 == 0 &&
      bits a 512 32 == crc32 (leBytes 60 (argData a))
  else
    tkArgHash t == 0 && (if tkAction t = 1 then decide (1 ≤ tkDuration t ∧ tkDuration t ≤ 86400) else tkDuration t == 0)

/-- The code of the first check that fails, checks 1 to 9 in their order, and whether the challenge was used (R579, R581). -/
def Dev.tkCheck (d : Dev) (otp : Otp) (req : Requester) (t a : Nat) : Nat × Bool :=
  if !tkFormatOk t a then (1, false)
  else if d.serial = 0 ∨ tkSerial t ≠ d.serial then (2, false)
  else if tkReq t ≠ reqNum req ∨ (tkAction t = 1 ∧ tkReq t ≠ 0) then (3, false)
  else if d.chalNow req ≠ some (BitVec.ofNat 384 (tkChal t)) then (4, false)
  else if !d.tkKeyOk t a then (5, true)
  else if !ecdsaVerify (tkPub t) (tkSig t) (sha384 (leBytes 224 t)) then (6, true)
  else if !tkArgOk t a then (7, true)
  else if tkAction t = 2 ∧ otp.zones.getD (argZone a) 0 ≠ 0 then (8, true)
  else if !d.audFree then (9, true)
  else (0, true)

/-- ARG of a KIND 2 record (R589). -/
def tkAuditArg (t a : Nat) : Nat := tkAction t + (if tkAction t = 2 then argZone a * 2 ^ 8 else 0)

/-- A PRESENT ends with a code: TOK_RESULT, the counters and events of R581, and its record. A refused one sets ERR with ERR_CODE 4. -/
def Dev.tkEnd (d : Dev) (req : Requester) (code role arg : Nat) (argHash : BitVec 384) : Dev :=
  let d := d.setSecBank req { d.secBank req with tok := BitVec.ofNat 4 code }
  let d := d.audit role (reqNum req) 2 code arg argHash
  if code = 0 then ((d.count (R.SEC_CNT_COUNT 2)).ev E.TOKEN_OK).ev E.SEC_CMD_DONE
  else
    let d := if code = 9 then d.ev E.AUDIT_FULL else d
    ((d.count (R.SEC_CNT_COUNT 1)).ev E.TOKEN_FAIL code).refuse C.sec 4

/-- The operator session ends (R582, R589). -/
def Dev.sessEndNow (d : Dev) (role reqNo result : Nat) : Dev :=
  (({ d with sec := { d.sec with sessEnd := none } }).ev E.SESSION_END).audit role reqNo 8 result 0 0

/-- DURATION_S has passed: the session has expired (R582). -/
def Dev.sessTimeout (d : Dev) : Dev := if d.sec.sessEnd.isSome && !d.sessOpen then d.sessEndNow 0 2 2 else d

/-- Every SRTP context and its keys are zeroed (R586). -/
def Dev.zeroCtxs (d : Dev) : Dev := { d with pkt := { d.pkt with ctxs := d.pkt.ctxs.map (fun (x : Nat × SrtpCtx) => (x.1, x.2.zeroed)) } }

/-- SUMP_CLEAR (R582): every record cleared, the write pointer to 0, the log thawed. Records of the same cycle are written after the clear (R598). -/
def Dev.sumpClear (d : Dev) : Dev :=
  { d with sump := { d.sump with ring := [] } }.sumpRedo (d.sumpSnap.take 3 ++ List.replicate 6 0) d.thisCyc.recs d.thisCyc.fzs

/-- The effect of a passed token whose action completes with the command (R582, R586). -/
def Dev.tkAct (d : Dev) (req : Requester) (t : Nat) : Dev :=
  match tkAction t with
  | 1 =>
    let d := if d.sessOpen then d.sessEndNow 1 (reqNum req) 3 else d.sessTimeout
    { d with sec := { d.sec with sessEnd := some (d.rst.xoUs + tkDuration t * 10 ^ 6) } }
  | 3 => (d.zeroCtxs.set R.SEC_STAT_DEBUG 1).ev E.DEBUG_OPEN
  | 4 => d.sumpClear
  | _ => d

/-- SEC_CMD PRESENT (R581 to R583). The checks and the action fall in this step; BUSY stays 1 until the command completes and reports its result, a WRITE_OTP's
after its read-back (R599; log entry 126). -/
def Dev.present (d : Dev) (otp : Otp) (req : Requester) : Dev :=
  let t := (d.secBank req).token.toNat
  let a := (d.secBank req).arg.toNat
  let c := d.tkCheck otp req t a
  let d := if c.2 then d.dropChal req else d
  let role := if 1 ≤ tkRole t ∧ tkRole t ≤ 3 then tkRole t else 0
  if c.1 = 0 ∧ tkAction t = 2 then
    { d.set R.SEC_CMD_BUSY 1 with
      sec := { d.sec with otpWr := some { req := req, zone := argZone a, data := BitVec.ofNat 512 (argData a), argHash := tkArgHash t, role := role } } }
  else
    let d := (if c.1 = 0 then d.tkAct req t else d).set R.SEC_CMD_BUSY 1
    { d with sec := { d.sec with pres := some { req := req, code := c.1, role := role, arg := tkAuditArg t a, argHash := tkArgHash t } } }

/-- SEC_CMD PRESENT (R581). -/
def execPresent (w : When) (req : Requester) (s : State) : Out :=
  s.runReq w req (fun d => d.command C.sec req .none (fun d => .ok (d.present s.otp req)) false)

/-! ### Keys, sessions and attestation -/

/-- SEC_CMD KEY_LOAD (R576). -/
def Dev.keyLoad (d : Dev) (req : Requester) : Except Nat Dev :=
  let role := d.get R.SEC_IDX_ROLE
  let pub := BitVec.ofNat 768 (beReg 96 (d.secBank req).key.toNat)
  if role ≠ 2 ∧ role ≠ 3 then .error 2
  else if !d.audFree then .error 1
  else match d.roleHash role with
    | none => .error 2
    | some h =>
      if keyHash pub ≠ h then .error 2
      else
        let d := if role = 2 then { d with sec := { d.sec with heldInst := some pub } } else { d with sec := { d.sec with heldMaker := some pub } }
        .ok ((d.ev E.KEY_LOADED).audit 0 (reqNum req) 3 0 role h)

/-- KEY_LOAD is refused because the key matches no active hash (R576): a key refused in SEC_CNT[3]. -/
def Dev.keyMismatch (d : Dev) (req : Requester) : Bool :=
  let role := d.get R.SEC_IDX_ROLE
  decide (role = 2 ∨ role = 3) && d.audFree && d.roleHash role != some (keyHash (BitVec.ofNat 768 (beReg 96 (d.secBank req).key.toNat)))

/-- SEC_CMD KEY_LOAD as written, from FW only (R573, R576). -/
def Dev.keyLoadCmd (d : Dev) (req : Requester) : Dev :=
  let run := req == .fw && !d.busy C.sec
  let d' := d.command C.sec req .fwOnly (·.keyLoad req)
  let d' := if run && d.keyMismatch req then d'.count (R.SEC_CNT_COUNT 3) else d'
  if run && (d.get R.SEC_IDX_ROLE == 2 || d.get R.SEC_IDX_ROLE == 3) && !d.audFree then d'.ev E.AUDIT_FULL else d'

/-- SEC_CMD KEY_LOAD (R576). -/
def execKeyLoad (w : When) (req : Requester) (s : State) : Out := s.runReq w req (·.keyLoadCmd req)

/-- SEC_CMD SESSION_END (R582, R599). -/
def Dev.sessionEnd (d : Dev) (req : Requester) : Dev :=
  d.command C.sec req .none (fun d => if !d.sessOpen then .error 1 else .ok (d.sessEndNow 0 (reqNum req) 1))

/-- SEC_CMD SESSION_END (R582). -/
def execSessionEnd (w : When) (req : Requester) (s : State) : Out := s.runReq w req (·.sessionEnd req)

/-- DURATION_S has passed (R582). -/
def execSessionExpire (w : When) (s : State) : Out := s.runMain w Dev.sessTimeout

/-- The image that a report shows: the pack measurement and the hash of the active one; in the cycle of a changeover, of the one before (R587, R598). -/
def Dev.reportImage (d : Dev) : Option (BitVec 384 × BitVec 384) := match d.img.was with
  | none => d.img.active.map Bank.measure
  | some (n, b) => if d.org.cc = 0 ∧ (n = d.org.num ∨ n = d.org.num + 1) then b else d.img.active.map Bank.measure

/-- FLAGS of an attestation report (R587). -/
def Dev.reportFlags (d : Dev) : Nat :=
  let sh := d.get R.STK_IMG_STAT_SHADOW
  d.get R.SEC_STAT_DEBUG + d.get R.RST_STAT_RECOVERY * 2 + d.get R.RST_STAT_OPT_FAULT * 4 + b2n d.reportImage.isSome * 8 +
    b2n (sh == 2 || sh == 3) * 16 + b2n d.rotated * 32 + d.get R.RST_STAT_VBAT_LOST * 64 + d.get R.CAL_STAT_DEFAULTS * 128

/-- The bytes of the report ahead of its signature (R587). -/
def Dev.reportBody (d : Dev) (nonce : BitVec 384) : List Byte :=
  let st := if d.flag R.STK_STAT_RUNNING then d.org.num else 2 ^ 64 - 1
  let fw := d.sec.fwInfo
  leBytes 4 0x41545331 ++ leBytes 2 1 ++ [BitVec.ofNat 8 (d.get R.GLB_STEP_LETTER), BitVec.ofNat 8 (d.get R.GLB_STEP_DIGIT)] ++ leBytes 16 d.serial ++
    leBytes 48 nonce.toNat ++ leBytes 8 st ++ leBytes 4 d.reportFlags ++
    leBytes 4 ((fw.map (fun f => f.ver.toNat)).getD 0) ++ leBytes 2 ((fw.map (fun f => f.svn.toNat)).getD 0) ++
    leBytes 2 ((fw.map (fun f => f.slot)).getD 0xFFFF) ++ leBytes 4 d.sec.seq.toNat ++
    hashBytes ((fw.map (fun f => f.measure)).getD 0) ++
    hashBytes ((d.reportImage.map Prod.fst).getD 0) ++ hashBytes ((d.reportImage.map Prod.snd).getD 0) ++
    hashBytes d.sec.head ++ hashBytes (sha384 (d.rst.opt.flatMap (fun z => leBytes 64 z.toNat)))

/-- SEC_CMD ATTEST (R585, R587): the report describes the state now; it fills SEC_REPORT when the command completes. -/
def Dev.attestCmd (d : Dev) (req : Requester) : Dev :=
  d.command C.sec req .oper (fun d =>
    if !d.sec.idOk then .error 1
    else
      let body := d.reportBody (d.secBank req).nonce
      let sg := d.signed body
      let d := sg.2.set R.SEC_CMD_BUSY 1
      .ok { d with sec := { d.sec with attest := some (req, BitVec.ofNat 3456 (leNat (body ++ sg.1))) } }) false

/-- SEC_CMD ATTEST (R587). -/
def execAttest (w : When) (req : Requester) (s : State) : Out := s.runReq w req (·.attestCmd req)

/-- An ATTEST or a PRESENT completes (R581, R583, R587, R599); any other command has completed in its own step. -/
def Dev.secDone (d : Dev) (readBackOk : Bool) : Dev :=
  match d.sec.attest, d.sec.otpWr with
  | some (req, r), _ =>
    let d := { d.set R.SEC_CMD_BUSY 0 with sec := { d.sec with attest := none } }
    ((d.setSecBank req { d.secBank req with report := r }).ev E.ATTEST_DONE).ev E.SEC_CMD_DONE
  | none, some w =>
    let d := { d.set R.SEC_CMD_BUSY 0 with sec := { d.sec with otpWr := none } }
    let d := if readBackOk then d.ev E.OTP_WRITTEN w.zone else d.ev E.OTP_WRITE_ERR w.zone
    d.tkEnd w.req (if readBackOk then 0 else 10) w.role (2 + w.zone * 2 ^ 8) w.argHash
  | none, none => match d.sec.pres with
    | none => d
    | some p =>
      let d := { d.set R.SEC_CMD_BUSY 0 with sec := { d.sec with pres := none } }
      d.tkEnd p.req p.code p.role p.arg p.argHash

/-- The OTP after a WRITE_OTP: the zone holds the 64 bytes, or, where its programming failed or was cut short, a content the spec leaves open, with its
CRC failing (R583; log entry 1). -/
def Otp.program (o : Otp) (w : OtpWrite) (ok : Bool) (open' : Nat) : Otp :=
  if ok then { o with zones := o.zones.set w.zone w.data }
  else { o with zones := o.zones.set w.zone (BitVec.ofNat 512 open'), cut := insNat w.zone o.cut }

/-- A SEC_CMD command that keeps BUSY completes (R581, R583, R587, R599). -/
def execSecCmdDone (w : When) (readBackOk : Bool) (s : State) : Out :=
  let wr := if s.dev.rst.mainUp ∧ s.dev.sec.attest.isNone then s.dev.sec.otpWr else none
  let x := s.dev.takeFree 512
  match wr with
  | none => s.runMain w (·.secDone readBackOk)
  | some o => ({ s with dev := x.2, otp := s.otp.program o readBackOk x.1 }).runMain w (·.secDone readBackOk)

/-! ### The sump log (R593 to R600) -/

/-- THAW returns the log to a ring that starts at the write pointer (R597), before the records and freezes of its cycle, as SUMP_CLEAR does: DEDUCED (log entry 96). -/
def Dev.thawNow (d : Dev) : Dev := d.sumpRedo (d.sumpSnap.take 5 ++ List.replicate 4 0) d.thisCyc.recs d.thisCyc.fzs

/-- SUMP_CMD OP 1 to 3 (R595 to R597, R599). -/
def Dev.sumpCmd (d : Dev) (req : Requester) (op : Nat) : Dev :=
  d.command C.sump req .oper (fun d =>
    match op with
    | 1 => if d.flag R.SUMP_STAT_FROZEN then .ok d.thawNow else .error 1
    | 2 => let ns := d.sumpNs; .ok (d.freeze { cause := 5, stroke := d.sumpStroke, ns := ns.1, noclk := ns.2 })
    | 3 => .ok (d.set R.SUMP_STAT_FAULT 0)
    | _ => .error 2)

/-- SUMP_CMD THAW (R597). -/
def execThaw (w : When) (req : Requester) (s : State) : Out := s.runReq w req (·.sumpCmd req 1)

/-- SUMP_CMD FREEZE (R596). -/
def execFreeze (w : When) (req : Requester) (s : State) : Out := s.runReq w req (·.sumpCmd req 2)

/-- SUMP_CMD FAULT_CLR (R595). -/
def execFaultClr (w : When) (req : Requester) (s : State) : Out := s.runReq w req (·.sumpCmd req 3)

/-- The record at SUMP_RD_IDX. -/
def Dev.sumpCur (d : Dev) : Nat := (kvD d.sump.ring (d.get R.SUMP_RD_IDX_IDX) 0).toNat

/-- A record is read through SUMP_D[0 to 3]; the read of SUMP_D[3] moves SUMP_RD_IDX on (R600). -/
def execSumpRecordRead (w : When) (req : Requester) (s : State) : Out :=
  s.runReq w req (fun d =>
    { d.set R.SUMP_RD_IDX_IDX (d.get R.SUMP_RD_IDX_IDX + 1) with
      reply := { words := (List.range 4).map (fun k => BitVec.ofNat 32 (bits d.sumpCur (32 * k) 32)) } })

/-! ### What SEC registers read live (R600) -/

/-- Seconds left in the operator session. -/
def Dev.sessLeft (d : Dev) : Nat := match d.sec.sessEnd with
  | none => 0
  | some e => ceilDiv (e - d.rst.xoUs) (10 ^ 6)

/-- SEC_STAT.HELD. -/
def Dev.heldBits (d : Dev) : Nat := b2n d.sec.heldMaker.isSome + b2n d.sec.heldInst.isSome * 2

end Sys2Proof.Machine
end

