-- ==== Sys2Proof/Machine/CellArith.lean ====
section
/-! DEFINITION. The arithmetic of the signal cells (R227 to R247): accumulators, reductions, block operations, address generators and
transfers; the kernel's return. -/

namespace Sys2Proof.Machine

/-! ### The cell and its local memory -/

/-- An operation of cell `n`'s compute array: it has one of 64, and a cell in block reset runs nothing (log entry 27). -/
def Dev.onCell (d : Dev) (n : Nat) (f : Dev → Dev) : Dev := if n < 64 && !d.halted (.cell n) then f d else d

/-! ### Accumulators (R229 to R236) -/

/-- ACC_WRAP of the kernel in RUN; saturate mode is the default (R231, R232). -/
def Dev.accWrap (d : Dev) (n : Nat) : Bool := match d.inRun n with
  | none => false
  | some (_, i) => bit (d.kernelOf i) 80

/-- Accumulator `a` of lane `m` (R227). -/
def CellRt.accAt (c : CellRt) (m a : Nat) : AccRt := kvD c.acc (8 * m + a) {}

/-- Accumulator `a` of lane `m` is replaced. -/
def CellRt.setAcc (c : CellRt) (m a : Nat) (x : AccRt) : CellRt := { c with acc := kvPut {} (8 * m + a) x c.acc }

/-- What lane `m` of the compute array takes from a word: lane L(m mod 3), and whether the word is POISON (R227, R236). -/
def takeLane (w : MWord) (m : Nat) : Int × Bool := (sLane (wData w) (m % 3), wPoison w)

/-- What lane `m` of cell `n` takes from an operand input (R227): of word m div 3. -/
def Dev.opLane (d : Dev) (n m : Nat) : OpIn → (Int × Bool) × Dev
  | .words l => (takeLane ((l.map TWord.toW).getD (m / 3) 0) m, d)
  | .mem l =>
    let (w, d) := d.lmRead n (l.getD (m / 3) 0)
    (takeLane w m, d)

/-- The product of two operand lanes, and whether it is poisoned (R229, R236). -/
def Dev.opProd (d : Dev) (n m : Nat) (x y : OpIn) : (Int × Bool) × Dev :=
  let (a, d) := d.opLane n m x
  let (b, d) := d.opLane n m y
  ((a.1 * b.1, a.2 || b.2), d)

/-- What an accumulator load takes (R230). -/
def Dev.loadVal (d : Dev) (n m : Nat) : LoadSrc → (Int × Bool) × Dev
  | .lane x => d.opLane n m x
  | .prod x y => d.opProd n m x y

/-- An exact result brought into 72 bits: in saturate mode the nearer limit, in wrap mode modulo 2^72; and whether that changed it (R231, R232). -/
def accFit (wrap : Bool) (x : Int) : Int × Bool :=
  if wrap then (signedOf 72 (fieldOf 72 x), signedOf 72 (fieldOf 72 x) != x)
  else (clampInt (-(2 ^ 71)) (2 ^ 71 - 1) x, decide (x < -(2 ^ 71) ∨ 2 ^ 71 - 1 < x))

/-- ACC_OVF[m] is set (R231 to R233): the flag, the lane's bit in CELL_ACC_OVF, and the cause. -/
def Dev.accOvf (d : Dev) (n m : Nat) : Dev :=
  let c := d.cell n
  let y := c.cyc.now d.stamp
  let d := d.setCell n { c with
    ovf := c.ovf ||| BitVec.ofNat 12 (2 ^ m), ovfSeen := true, cyc := { y with ovf := y.ovf ||| BitVec.ofNat 12 (2 ^ m) } }
  (d.orFld (R.CELL_ACC_OVF_LANES n) (2 ^ m)).cause n (d.runTask n)
    (R.CELL_EVT_STAT_ACC_OVF n) (R.CELL_EVT_EN_ACC_OVF n)

/-- An exact result is written to an accumulator (R230 to R233). -/
def Dev.accPut (d : Dev) (n m a : Nat) (x : Int) (poison : Bool) : Dev :=
  let wrap := d.accWrap n
  let y := accFit wrap x
  let d := d.setCell n ((d.cell n).setAcc m a { v := BitVec.ofInt 72 y.1, sat := y.2 && !wrap, poison := poison })
  if y.2 then d.accOvf n m else d

/-- An operation on accumulator `a` of lane `m` of cell `n`. -/
def Dev.onAcc (d : Dev) (n m a : Nat) (f : Dev → Dev) : Dev := d.onCell n (fun d => if m < 12 && a < 8 then f d else d)

/-- A load of v × 2^k, which ends SAT and any poison before it (R230, R231, R236). -/
def Dev.accLoad (d : Dev) (n m a : Nat) (src : LoadSrc) (k : Nat) : Dev :=
  let (x, d) := d.loadVal n m src
  d.accPut n m a (x.1 * 2 ^ k) x.2

/-- A value is added, or subtracted. An accumulator in SAT stays as it is (R231; log entry 27). -/
def Dev.accAdd (d : Dev) (n m a : Nat) (x : Int) (poison sub : Bool) : Dev :=
  let c := (d.cell n).accAt m a
  if c.sat then d else d.accPut n m a (if sub then c.v.toInt - x else c.v.toInt + x) (c.poison || poison)

/-- The sum over the lanes of `mask` of accumulator `a` goes to lane `m` (R230, R231, R236). -/
def Dev.accCross (d : Dev) (n m a : Nat) (mask : BitVec 12) : Dev :=
  let c := d.cell n
  let js := (List.range 12).filter (fun j => bit mask.toNat j)
  let t := c.accAt m a
  if t.sat then d
  else d.accPut n m a ((js.map (fun j => (c.accAt j a).v.toInt)).sum) (t.poison || js.any (fun j => (c.accAt j a).poison))

/-- A product is added or subtracted (R229, R230). -/
def Dev.accMac (d : Dev) (n m a : Nat) (x y : OpIn) (sub : Bool) : Dev :=
  let (p, d) := d.opProd n m x y
  d.accAdd n m a p.1 p.2 sub

/-- A shifted lane is added or subtracted (R230). -/
def Dev.accShifted (d : Dev) (n m a : Nat) (x : OpIn) (k : Nat) (sub : Bool) : Dev :=
  let (v, d) := d.opLane n m x
  d.accAdd n m a (v.1 * 2 ^ k) v.2 sub

/-- The kernel clears the flag ACC_OVF[m] (R231); one that an overflow sets in the same cycle ends set (R266). -/
def Dev.ovfClear (d : Dev) (n m : Nat) : Dev :=
  let c := d.cell n
  if bit (c.cyc.now d.stamp).ovf.toNat m then d else d.setCell n { c with ovf := c.ovf &&& ~~~(BitVec.ofNat 12 (2 ^ m)) }

/-- An accumulator is cleared, or a flag ACC_OVF (R230, R231, R236). -/
def execAccClear (w : When) (cell m a : Nat) (flag : Bool) (s : State) : Out :=
  s.runMain w (fun d => d.onAcc cell m a (fun d => if flag then d.ovfClear cell m else d.setCell cell ((d.cell cell).setAcc m a {})))

/-- An accumulator is loaded (R230). -/
def execAccLoad (w : When) (cell m a : Nat) (src : LoadSrc) (k : Nat) (s : State) : Out :=
  s.runMain w (fun d => d.onAcc cell m a (·.accLoad cell m a src k))

/-- A product is added or subtracted (R229, R230). -/
def execAccAddProduct (w : When) (cell m a : Nat) (x y : OpIn) (sub : Bool) (s : State) : Out :=
  s.runMain w (fun d => d.onAcc cell m a (·.accMac cell m a x y sub))

/-- A shifted lane is added or subtracted (R230). -/
def execAccAddShifted (w : When) (cell m a : Nat) (x : OpIn) (k : Nat) (sub : Bool) (s : State) : Out :=
  s.runMain w (fun d => d.onAcc cell m a (·.accShifted cell m a x k sub))

/-- A cross-lane sum (R230). -/
def execCrossLaneSum (w : When) (cell m a : Nat) (mask : BitVec 12) (s : State) : Out :=
  s.runMain w (fun d => d.onAcc cell m a (·.accCross cell m a mask))

/-- A reduction of an accumulator to a lane (R234): the lane, and whether it saturated. -/
def reduceAcc (v : Int) (sh : Nat) : Int × Bool := satLane (roundEven v (2 ^ sh))

/-- A reduction writes lane `lane` of local word `addr` (R234 to R236). The word carries MARK, POISON and REASON.OVF where one of its lanes does: a lane that no
reduction has written keeps those of the word that it came with (log entry 27). -/
def Dev.reduce (d : Dev) (n m a sh addr lane : Nat) : Dev :=
  let c := d.cell n
  let x := c.accAt m a
  let y := reduceAcc x.v.toInt sh
  let w := if c.lmUe.contains addr then poisonZero else kvD c.lm addr 0
  let lanes := (kvGet addr c.redL).getD (b2n (wMark w) * 7 + b2n (wPoison w) * 56)
  let mark := y.2 || x.sat || (d.accWrap n && bit c.ovf.toNat m)
  let lanes := setBits (setBits (setBits lanes lane 1 (b2n mark)) (3 + lane) 1 (b2n x.poison)) (6 + lane) 1 (b2n mark)
  let w' := mkW (setBits (wData w) (24 * lane) 24 (fieldOf 24 y.1)) false false (bits lanes 0 3 != 0) (bits lanes 3 3 != 0)
  let d := d.lmWrite n addr w'
  let c' := d.cell n
  let d := d.setCell n { c' with
    ovfW := if bits lanes 6 3 != 0 then insNat addr c'.ovfW else c'.ovfW
    redL := kvSet addr lanes c'.redL }
  if y.2 then (d.count (R.CELL_CNT_COUNT n 3)).cause n (d.runTask n) (R.CELL_EVT_STAT_RED_SAT n) (R.CELL_EVT_EN_RED_SAT n) else d

/-- A reduction (R234). -/
def execReduction (w : When) (cell m a sh addr lane : Nat) (s : State) : Out :=
  s.runMain w (fun d => d.onAcc cell m a (fun d => if addr < 32768 && lane < 3 then d.reduce cell m a sh addr lane else d))

/-! ### Block operations (R238 to R241) -/

/-- norm(v): the leading bits equal to the sign bit, minus one (R238). -/
def norm24 (v : Int) : Nat :=
  let x := if v < 0 then -v - 1 else v
  ((List.range 24).find? (fun k => decide (x < 2 ^ k))).elim 0 (fun k => 23 - k)

/-- The lanes of a run of words that a mask selects, each with its order index, words tagged POISON left out; and whether one was (R238, R239). -/
def blockLanes (ws : List MWord) (mask : Nat) : List (Nat × Int) × Bool :=
  (ws.zipIdx.flatMap (fun x => if wPoison x.1 then [] else
    ((List.range 3).filter (fun k => bit mask k)).map (fun k => (3 * x.2 + k, sLane (wData x.1) k))),
   ws.any wPoison)

/-- The reply of a block operation: value, index, E, POISON_SEEN, NONE. -/
def blockReply (d : Dev) (v : Int) (idx e : Nat) (seen none : Bool) : Dev :=
  { d with reply := { d.reply with value := v, words := [BitVec.ofNat 32 idx, BitVec.ofNat 32 e], poison := seen, flag := none } }

/-- The words a block operation covers; past the end of local memory the spec states no content, and each is a free value (log entry 1). -/
def Dev.blockWords (d : Dev) (n addr : Nat) : Nat → List MWord × Dev
  | 0 => ([], d)
  | k + 1 =>
    let (w, d) := if addr < 32768 then d.lmRead n addr else
      let (x, d) := d.takeFree 72
      (mkW x false false false false, d)
    let (ws, d) := d.blockWords n (addr + 1) k
    (w :: ws, d)

/-- The block exponent (R238, R241). -/
def Dev.blockExp (d : Dev) (n addr cnt : Nat) (mask : BitVec 3) : Dev :=
  let (ws, d) := d.blockWords n addr cnt
  let (ls, seen) := blockLanes ws mask.toNat
  blockReply d 0 0 (ls.foldl (fun e x => min e (norm24 x.2)) 23) seen ls.isEmpty

/-- What a search compares: the value, or its magnitude (R239). -/
def searchKey (m : SearchMode) (v : Int) : Int := match m with
  | .max | .min => v
  | .maxAbs | .minAbs => if v < 0 then -v else v

/-- The first beats the second strictly. -/
def searchBetter (m : SearchMode) (x y : Int) : Bool := match m with
  | .max | .maxAbs => decide (searchKey m y < searchKey m x)
  | .min | .minAbs => decide (searchKey m x < searchKey m y)

/-- A lane lies in an exclusion zone (R240). -/
def excluded (zones : List (Nat × Nat)) (i : Nat) : Bool :=
  zones.any (fun z => decide (((i : Int) - z.1).natAbs ≤ z.2))

/-- The lowest index that holds the extreme (R239). -/
def searchBest (m : SearchMode) (ls : List (Nat × Int)) : Option (Nat × Int) :=
  ls.foldl (fun b x => match b with
    | none => some x
    | some y => if searchBetter m x.2 y.2 then some x else some y) none

/-- The min/max search (R239 to R241). -/
def Dev.search (d : Dev) (n : Nat) (mode : SearchMode) (addr cnt : Nat) (mask : BitVec 3) (zones : List (Nat × Nat)) : Dev :=
  let (ws, d) := d.blockWords n addr cnt
  let (ls, seen) := blockLanes ws mask.toNat
  match searchBest mode (ls.filter (fun x => !excluded zones x.1)) with
  | none => blockReply d 0 0 23 seen true
  | some (i, v) => blockReply d v i 23 seen false

/-- The block exponent (R238). -/
def execBlockExponent (w : When) (cell addr n : Nat) (mask : BitVec 3) (s : State) : Out :=
  s.runMain w (fun d => d.onCell cell (·.blockExp cell addr n mask))

/-- The min/max search (R239). -/
def execMinMaxSearch (w : When) (cell : Nat) (mode : SearchMode) (addr n : Nat) (mask : BitVec 3) (zones : List (Nat × Nat)) (s : State) : Out :=
  s.runMain w (fun d => d.onCell cell (·.search cell mode addr n mask zones))

/-! ### Address generators (R242 to R244) -/

/-- rev_b: the low `b` bits of `x` reversed. -/
def revBits (b x : Nat) : Nat := (List.range b).foldl (fun y i => y + bits x i 1 * 2 ^ (b - 1 - i)) 0

/-- log2 of `n`, where `n` is a power of two up to 2^15. -/
def log2Of (n : Nat) : Option Nat := (List.range 16).find? (fun b => 2 ^ b == n)

/-- The offset after an access, `none` where the update is not defined (R242, R244); an offset of LINEAR outside 0 to 32,767 is not
stated either and comes as `some none`. -/
def Ag.next (g : Ag) (len : Nat) : Option (Option Nat) :=
  let o := g.off.toNat
  match g.mode with
  | .linear =>
    let x := (o : Int) + g.step.toInt
    if 0 ≤ x ∧ x < 32768 then some (some x.toNat) else some none
  | .circular => if len = 0 then none else some (some (fieldOf 15 (((o : Int) + g.step.toInt) % (len : Int))))
  | .bitrev => match log2Of len with
    | none => none
    | some b => some (some (revBits b (((revBits b o : Int) + g.step.toInt) % (len : Int)).toNat))

/-- AG_FAULT (R244, R265). -/
def Dev.agFault (d : Dev) (n : Nat) : Dev :=
  (d.count (R.CELL_CNT_COUNT n 1)).cause n (d.runTask n) (R.CELL_EVT_STAT_AG_FAULT n) (R.CELL_EVT_EN_AG_FAULT n)

/-- Generator `k` of a cell. -/
def CellRt.ag (c : CellRt) (k : Nat) : Ag := kvD c.ags k {}

/-- Generator `k` of cell `n` is replaced. -/
def Dev.setAg (d : Dev) (n k : Nat) (g : Ag) : Dev :=
  let c := d.cell n
  d.setCell n { c with ags := kvPut {} k g c.ags }

/-- The word that an access reads goes to the reply, or the word that it writes to local memory. -/
def Dev.agMove (d : Dev) (n a : Nat) : Option TWord → Dev
  | none =>
    let (w, d) := d.lmRead n a
    { d with reply := { d.reply with item := [w], poison := wPoison w } }
  | some x => d.lmWrite n a (TWord.toW x)

/-- An access that faults (R244): a read returns zero tagged POISON, a write is suppressed, the generator holds its state. -/
def Dev.agRefuse (d : Dev) (n : Nat) (data : Option TWord) : Dev :=
  let d := d.agFault n
  if data.isNone then { d with reply := { d.reply with item := [poisonZero], poison := true } } else d

/-- An access of generator `k`, whose update uses `len` (R242 to R244). -/
def Dev.agAccess (d : Dev) (n k : Nat) (data : Option TWord) (len : Nat) : Dev :=
  let g := (d.cell n).ag k
  let a := g.base.toNat + g.off.toNat
  match g.next len with
  | none => d.agRefuse n data
  | some o =>
    if 32768 ≤ a ∨ len = 0 then d.agRefuse n data
    else
      let d := d.agMove n a data
      match o with
      | some x => d.setAg n k { g with off := BitVec.ofNat 15 x }
      | none =>
        let (x, d) := d.takeFree 15
        d.setAg n k { g with off := BitVec.ofNat 15 x }

/-- LEN of generator `k` is written, with an access of it that falls in the same cycle, if one does (R243, R244). -/
def Dev.agLen (d : Dev) (n k len : Nat) (access : Option (Option TWord)) : Dev :=
  let old := ((d.cell n).ag k).len.toNat
  if len = 0 ∨ 32768 < len then
    let d := d.agFault n
    match access with
    | none => d
    | some x => d.agAccess n k x old
  else
    let d := match access with
      | none => d
      | some x => d.agAccess n k x len
    let g := (d.cell n).ag k
    let off := if g.mode = .linear ∨ g.off.toNat < len then g.off else BitVec.ofNat 15 (g.off.toNat % len)
    d.setAg n k { g with len := BitVec.ofNat 16 len, off := off }

/-- A generator with BASE, OFF, STEP and MODE as a kernel sets them up, if it does (R242). -/
def Ag.setup (g : Ag) : Option AgSet → Ag
  | none => g
  | some x => { g with base := x.base, off := x.off, step := x.step, mode := x.mode }

/-- A kernel sets generator `k` up, if it does (R242). -/
def Dev.agSetup (d : Dev) (n k : Nat) (x : Option AgSet) : Dev := if x.isNone then d else d.setAg n k (((d.cell n).ag k).setup x)

/-- An access through an address generator, set up before it where the kernel does so (R242). -/
def execAgAccess (w : When) (cell k : Nat) (setup : Option AgSet) (data : Option TWord) (s : State) : Out :=
  s.runMain w (fun d => d.onCell cell (fun d =>
    if k < 8 then (d.agSetup cell k setup).agAccess cell k data ((d.cell cell).ag k).len.toNat else d))

/-- A write of LEN (R243). -/
def execAgLenWrite (w : When) (cell k len : Nat) (access : Option (Option TWord)) (s : State) : Out :=
  s.runMain w (fun d => d.onCell cell (fun d => if k < 8 then d.agLen cell k len access else d))

/-! ### Transfers (R247, R254) -/

/-- The transfer windows of a task (R254): STATE_ADDR and STATE_WORDS, DDR_BASE and DDR_WORDS, and the argument block's address and words. -/
def Dev.windows (d : Dev) (o : Nat) : (Nat × Nat) × (Nat × Nat) × (Nat × Nat) :=
  let a := tArg o
  let w1 := d.argWord (a + 1)
  let w2 := d.argWord (a + 2)
  ((bits w1 0 24, bits w1 24 24), (bits w2 0 36, bits w2 36 36), (a, 3 + d.nIn o + d.nOut o + d.argWords o))

/-- `len` words from `x` lie inside a window. -/
def inWindow (w : Nat × Nat) (x len : Nat) : Bool := decide (w.1 ≤ x ∧ x + len ≤ w.1 + w.2)

/-- The transfer stays inside the windows of the task in RUN, and inside local memory (R247, R254; log entry 29). -/
def Dev.xferOk (d : Dev) (n : Nat) (toLocal : Bool) (space : XferSpace) (loc ext len : Nat) : Bool :=
  match d.inRun n with
  | none => false
  | some (_, i) =>
    let (st, dd, ar) := d.windows i.bits
    let win := match space with
      | .ddr => inWindow dd ext len
      | .reservoir => inWindow st ext len || (toLocal && inWindow ar ext len)
    win && decide (loc + len ≤ 32768 ∧ len ≤ 4096)

/-- DMA_ERR (R247, R265). -/
def Dev.dmaErr (d : Dev) (n : Nat) : Dev :=
  (d.count (R.CELL_CNT_COUNT n 1)).cause n (d.runTask n) (R.CELL_EVT_STAT_DMA_ERR n) (R.CELL_EVT_EN_DMA_ERR n)

/-- A transfer (R247). -/
def Dev.transfer (d : Dev) (n : Nat) (toLocal : Bool) (space : XferSpace) (loc ext len : Nat) : Dev :=
  if len = 0 then d
  else if !d.xferOk n toLocal space loc ext len then
    let d := d.dmaErr n
    if toLocal then d.lmWriteN n loc (List.replicate (min (min len 4096) (32768 - loc)) poisonZero) else d
  else if toLocal then
    let (ws, d) := match space with
      | .reservoir => d.resReadN ext len
      | .ddr => d.ddrReadN ext len
    d.lmWriteN n loc ws
  else
    let (ws, d) := d.lmReadN n loc len
    match space with
    | .reservoir => d.resWriteN ext ws
    | .ddr => d.ddrWriteN ext ws

/-- A transfer between local memory and the reservoir or DDR (R247). -/
def execTransfer (w : When) (cell : Nat) (toLocal : Bool) (space : XferSpace) (loc ext len : Nat) (s : State) : Out :=
  s.runMain w (fun d => d.onCell cell (·.transfer cell toLocal space loc ext len))

/-! ### A cell that was asleep (R269) -/

/-- The code words of a bank's pack. -/
def Bank.packCode (b : Bank) (h : BitVec 384) : Option (List W72) := (b.packs.find? (fun p => p.hash == h)).map Pack.code

/-- Code words are written to runs of a cell's code region. -/
def CellRt.putCode (c : CellRt) : List (Nat × Nat) → List W72 → CellRt
  | [], _ => c
  | (a, n) :: r, ws => (c.writeN a ((ws.take n).map (fun x => mkW x.toNat false false false false))).putCode r (ws.drop n)

/-- The code of the packs that are resident in a cell, from the banks that hold them (R250). -/
def Dev.codeWords (d : Dev) (c : CellRt) : CellRt :=
  c.code.foldl (fun c e =>
    match (d.img.shadow.bind (fun b => b.packCode e.hash)).orElse (fun _ => d.img.active.bind (fun b => b.packCode e.hash)) with
    | some ws => c.putCode e.runs ws
    | none => c) c

/-- A power-gated cell is ready: its local memory is zero with valid check bits, and WAKE_DONE fires (R269). The packs that a load has placed in it are
copied then. -/
def Dev.wakeDone (d : Dev) (n : Nat) : Dev :=
  if n < 64 && d.get (R.CELL_STAT_PWR n) == 3 then
    let d := d.setCell n (d.codeWords { d.cell n with lm := [], lmUe := [], lmCe := [], ovfW := [], redL := [] })
    (d.set (R.CELL_STAT_PWR n) 0).cause n 0 (R.CELL_EVT_STAT_WAKE_DONE n) (R.CELL_EVT_EN_WAKE_DONE n)
  else d

/-- A waking cell is ready (R269). -/
def execWakeDone (w : When) (n : Nat) (s : State) : Out := s.runMain w (·.wakeDone n)

end Sys2Proof.Machine
end

