-- ==== Sys2Proof/Machine/Kernel.lean ====
section
/-! DEFINITION. What the Verraolo kernels share: their argument block and parameters (R253), the items staged for them (R255), the items they hand to
the queue interface (R259), and the header of their reservoir window (R304, R321). -/

namespace Sys2Proof.Machine

/-- Errors come about in the words of the main domain's memories (R90, R206, R246): an uncorrectable one takes the place of a single-bit one. -/
def Dev.upsetMain (d : Dev) (u : Upsets) : Dev :=
  let inRes := fun (a : Nat) => decide (a < 2 ^ 24)
  let ue := insAll d.qf.resUe (u.resUe.filter inRes)
  let cu := insAll d.cnv.coefUe u.coefUe
  let d := { d with
    qf := { d.qf with resUe := ue, resCe := (insAll d.qf.resCe (u.resCe.filter inRes)).filter (fun a => !ue.contains a) }
    cnv := { d.cnv with coefUe := cu, coefCe := (insAll d.cnv.coefCe u.coefCe).filter (fun a => !cu.contains a) } }
  let lm := fun (l : List (Nat × Nat)) (n : Nat) => (l.filter (fun x => x.1 == n)).map Prod.snd
  d.each (((u.lmCe ++ u.lmUe).map Prod.fst).filter (fun n => decide (n < 64))) (fun d n =>
    let c := d.cell n
    let ue := insAll c.lmUe (lm u.lmUe n)
    d.setCell n { c with lmUe := ue, lmCe := (insAll c.lmCe (lm u.lmCe n)).filter (fun a => !ue.contains a) })

/-- Kernel parameter word `k` of a task (R253). -/
def Dev.kParam (d : Dev) (o k : Nat) : Nat := d.argWord (tArg o + 3 + d.nIn o + d.nOut o + k)

/-- The instance of task `t` that is in RUN on its cell. -/
def Dev.kInst (d : Dev) (t : Nat) : Option Inst := match (d.task t).inst with
  | none => none
  | some i => if (d.cell (tCell i.bits)).running = some t ∧ !i.drain ∧ !d.halted (.cell (tCell i.bits)) then some i else none

/-- A word of local memory as a kernel reads it, an uncorrectable one as POISON (R246). -/
def CellRt.rd (c : CellRt) (a : Nat) : MWord := if c.lmUe.contains a then poisonZero else kvD c.lm a 0

/-- The reasons that pass from an input to the outputs computed from it (R237): CONCEAL and STALE of those that `x` holds. -/
def passRs (x : Nat) : Nat := x &&& 36

/-- A word with the POISON tag. -/
def poisoned (w : MWord) : MWord := mkW (wData w) (wFirst w) (wLast w) (wMark w) true

/-- Item `k` staged from an input of the task on cell `n` (R255). Where its header reads POISON every word of it is POISON, as many as a slot holds where the
header's PLEN is lost (R237, R246). -/
def Dev.staged (d : Dev) (n : Nat) (io : Nat × Nat × Nat) (k : Nat) : List MWord :=
  let c := d.cell n
  let sw := qSlotWords (d.objD S.QUEUES io.1)
  let a := io.2.2 + k * sw
  let h := c.rd a
  let len := if c.lmUe.contains a then sw - 1 else hPlen (wData h)
  let body := (List.range len).map (fun j => c.rd (a + 1 + j))
  h :: (if wPoison h then body.map poisoned else body)

/-- The words of the staged items, and word 3 of the call frame, are read once by the kernel, with their errors (R246). -/
def Dev.kScan (d : Dev) (n o : Nat) : Dev :=
  (d.lmRead n 3).2.each (d.inputs o) (fun d io => d.each (List.range io.2.1) (fun d k =>
    let sw := qSlotWords (d.objD S.QUEUES io.1)
    let (h, d) := d.lmRead n (io.2.2 + k * sw)
    (d.lmReadN n (io.2.2 + k * sw + 1) (if wPoison h && wData h == 0 then sw - 1 else hPlen (wData h))).2))

/-- CH of each control item staged from an input whose OP is not among `ops`: such an item is rejected (R285, R322). An idle item is ignored. -/
def Dev.badOps (d : Dev) (n : Nat) (io : Nat × Nat × Nat) (ops : List Nat) : List Nat :=
  (List.range io.2.1).filterMap (fun k =>
    let it := d.staged n io k
    let w := wData (it.getD 1 0)
    if bit (itemHdr it) rIdle || ops.contains (bits w 12 4) then none else some (bits w 0 12))

/-- FIRST_RUN in the call frame on cell `n` (R256). Its read counts in `Dev.kScan`. -/
def Dev.kFirst (d : Dev) (n : Nat) : Bool := bit (wData ((d.cell n).rd 3)) 24

/-- RET is written to the call frame. -/
def Dev.kRet (d : Dev) (n ret : Nat) : Dev :=
  d.setCell n ((d.cell n).write 36 (mkW ret false false false false))

/-- The kernel writes the items of output `o` and raises BEGUN and COMMIT for each (R259). -/
def Dev.kPut (d : Dev) (n bits' o : Nat) (items : List (List MWord)) : Dev :=
  match (d.outputs bits')[o]? with
  | none => d
  | some io =>
    let sw := qSlotWords (d.objD S.QUEUES io.1)
    let (f, d) := d.lmRead n (20 + o)
    let c := items.zipIdx.foldl (fun (c : CellRt) x => c.writeN (io.2.2 + x.2 * sw) x.1) (d.cell n)
    let k := items.length % 256
    d.setCell n (c.write (20 + o) (mkW (setBits (wData f) 48 24 (k + k * 256)) false false false false))

/-- The reservoir window of a task: STATE_ADDR and STATE_WORDS. -/
def Dev.kState (d : Dev) (o : Nat) : Nat × Nat := (d.windows o).1

/-- A word of the reservoir holds these data bits, without tags. -/
def Dev.resPut (d : Dev) (a data : Nat) : Dev := d.resWrite a (mkW data false false false false)

/-- The data bits of a word of the reservoir are changed: the word is read, with its errors, and one that reads POISON stays so (R90, R236). -/
def Dev.resMap (d : Dev) (a : Nat) (f : Nat → Nat) : Dev :=
  let (w, d) := d.resRead a
  d.resWrite a (mkW (f (wData w)) false false false (wPoison w))

/-- Bits of a word of the task header are replaced. -/
def Dev.hdrMap (d : Dev) (o k : Nat) (f : Nat → Nat) : Dev := d.resMap ((d.kState o).1 + k) f

/-- Bits of a word of the task header are replaced. -/
def Dev.hdrSet (d : Dev) (o k lo len v : Nat) : Dev := d.hdrMap o k (fun x => setBits x lo len v)

/-- A 16-bit counter of the task header counts one more. -/
def Dev.hdrCount (d : Dev) (o k lo : Nat) : Dev := d.hdrMap o k (fun x => setBits x lo 16 (bits x lo 16 + 1))

/-- `n` free values of `w` bits (log entry 1). -/
def Dev.frees (d : Dev) (n w : Nat) : List Nat × Dev :=
  ((List.range n).map (fun i => Config.free (d.free + i) % 2 ^ w), { d with free := d.free + n })

/-- `n` words of the reservoir from `a` take free values (log entry 37). -/
def Dev.resFree (d : Dev) (a n : Nat) : Dev :=
  let x := d.frees n 72
  x.2.each x.1.zipIdx (fun d v => d.resPut (a + v.2) v.1)

/-- `n` words of the reservoir from `a` are zero. -/
def Dev.resZero (d : Dev) (a n : Nat) : Dev := d.each (List.range n) (fun d k => d.resPut (a + k) 0)

/-- `n` words of the DDR from `a` take free values (log entry 37). -/
def Dev.ddrFree (d : Dev) (a n : Nat) : Dev :=
  let x := d.frees n 72
  x.2.each x.1.zipIdx (fun d v => d.ddrWrite (a + v.2) (mkW v.1 false false false false))

/-- `n` idle items of zero samples with `len` payload words. -/
def idleItems (n len : Nat) : List (List MWord) := List.replicate n (mkItem 8 0 (List.replicate len 0))

/-- The instance of FIRST_RUN is met for the first time: its stamp is kept, the header's count goes up. -/
def Dev.kBegin (d : Dev) (t : Nat) (i : Inst) : Bool × Dev :=
  let stamp := i.runStroke * 156250 + i.runCc
  if d.kFirst (tCell i.bits) ∧ kvGet t d.kern.begun ≠ some stamp then
    (true, { (d.hdrCount i.bits 0 8) with kern := { d.kern with begun := kvSet t stamp d.kern.begun } })
  else (false, d)

/-- A counter of a list counts one more. -/
def bump {n : Nat} (l : List (BitVec n)) (k : Nat) : List (BitVec n) := l.modify k (· + 1)

/-- SEQ goes on: 1 to 65,535, then 1 again (R305). -/
def seqNext (s : Nat) : Nat := if 65535 ≤ s then 1 else s + 1

/-- The argument block is invalid: ARG_ERR is set and RET is 1 (R307, R320). -/
def Dev.argErr (d : Dev) (o : Nat) : Dev := (d.hdrSet o 0 0 1 1).kRet (tCell o) 1

end Sys2Proof.Machine
end

