-- ==== Sys2Proof/Machine/EcArith.lean ====
section
/-! DEFINITION. The arithmetic of echo cancellation: levels (R282), the canceller of R281 with its step and its leak (R283, R292), comfort noise (R294), the
coarse canceller (R299). What the spec leaves to the kernel is a function of `Config` that gives nothing for nothing (log entry 37). -/

namespace Sys2Proof.Machine

/-- Samples per stroke of a mode (R281). -/
def ecSpp (mode : Nat) : Nat := [1, 2, 6, 1].getD mode 1

/-- BLK: samples in a block (R281). -/
def ecBlk (mode : Nat) : Nat := 16 * ecSpp mode

/-- Lanes of a spectrum or of a partition's coefficients: two for each of BLK + 1 bins (R304). -/
def ecLanes (mode : Nat) : Nat := 2 * (ecBlk mode + 1)

/-- Sum of squares. -/
def sqSum (l : List Int) : Nat := l.foldl (fun s x => s + x.natAbs * x.natAbs) 0

/-! ### Levels (R282) -/

/-- The mean power of `n` samples whose squares sum to `e` is at least `t` dBm0: a sine of peak 8,388,607 has +3.14 dBm0. -/
def lvlGe (e n : Nat) (t : Int) : Bool :=
  let k := 50 * t - 157
  let a := (2 * e) ^ 500
  let b := (n * 8388607 ^ 2) ^ 500
  if 0 ≤ k then decide (b * 10 ^ k.toNat ≤ a) else decide (b ≤ a * 10 ^ (-k).toNat)

/-- The largest level in 1/16 dB, from `lo` and below `hi`, whose lower edge of half a unit `a / b` reaches; `a` and `b` are powers of 8,000. -/
def lvlFind (a b : Nat) : Nat → Int → Int → Int
  | 0, lo, _ => lo
  | f + 1, lo, hi =>
    let m := (lo + hi) / 2
    let k := 50 * m - 2537
    if (if 0 ≤ k then decide (b * 10 ^ k.toNat ≤ a) else decide (b ≤ a * 10 ^ (-k).toNat)) then lvlFind a b f m hi else lvlFind a b f lo m

/-- A level in 1/16 dB, to the nearest (log entry 122); -2,048 where there is no signal (R305). -/
def lvl16 (e n : Nat) : Int := if e = 0 then -2048 else lvlFind ((2 * e) ^ 8000) ((n * 8388607 ^ 2) ^ 8000) 12 (-2048) 128

/-- Power `a` lies `t` dB or more above power `b`; no signal lies above nothing. -/
def dbAbove (a b t : Nat) : Bool := a != 0 && decide (b ^ 10 * 10 ^ t ≤ a ^ 10)

/-- The power of the echo in Sin, from the powers of Sin and of the estimate (R282): how it is measured is not stated (log entry 37). -/
def echoPow (sin est : Nat) : Nat := if sin = 0 ∧ est = 0 then 0 else Config.ecEcho sin est

/-- The difference of two levels as a field of 12 bits holds it. -/
def lvlDiff (a b : Int) : Int := clampInt (-2048) 2047 (a - b)

/-! ### The canceller (R281, R283, R292) -/

/-- A function of samples that gives nothing for silence. -/
def fromSound (n : Nat) (xs : List Int) (f : Nat → Int) : List Int :=
  if xs.all (· == 0) then List.replicate n 0 else (List.range n).map f

/-- Numbers in block floating point (R281): 24-bit mantissas, and the power of two that scales them. Numbers within a lane are shifted up by their block exponent
(R238); larger ones down by the bits they are over. -/
def blockFloat (xs : List Int) : List Int × Int :=
  let top := xs.foldl (fun m x => max m (if x < 0 then -x - 1 else x)) 0
  if top < 2 ^ 23 then
    let e := xs.foldl (fun e x => min e (norm24 x)) 23
    (xs.map (· * 2 ^ e), -(e : Int))
  else
    let s := Nat.log2 top.toNat - 22
    (xs.map (fun x => (satLane (roundEven x (2 ^ s))).1), s)

/-- A number of a block scaled by its power of two, in 2^-23, which every exponent of R238 reaches exactly. -/
def blockVal (e x : Int) : Int := x * 2 ^ (23 + e).toNat

/-- The spectrum of samples, newest first, in 2^-23. -/
def ecSpectrum (mode : Nat) (xs : List Int) : List Int :=
  let b := blockFloat xs
  fromSound (ecLanes mode) xs (fun j => blockVal b.2 (Config.ecBin mode b.1 j))

/-- The 2 × BLK samples, oldest first, that a spectrum transforms back to, scaled by the spectrum's own block exponent: in 2^-47 of the spectrum's unit. -/
def ecInverse (mode : Nat) (sp : List Int) : List Int :=
  let b := blockFloat sp
  fromSound (2 * ecBlk mode) sp (fun j => blockVal b.2 (Config.ecBack mode b.1 j))

/-- Bin by bin the product of two spectra. -/
def cMul : List Int → List Int → List Int
  | a :: b :: x, c :: e :: y => (a * c - b * e) :: (a * e + b * c) :: cMul x y
  | _, _ => []

/-- The echo estimate of a block in 2^-24, from the coefficients in 2^-23 and the Rin spectrum of each partition: the newest BLK samples transformed back (R281, steps 2 and
3). -/
def ecEst (mode : Nat) (parts : List (List Int × List Int)) : List Int :=
  let sum := parts.foldl (fun s p => List.zipWith (· + ·) s (cMul p.1 p.2)) (List.replicate (ecLanes mode) 0)
  ((ecInverse mode sum).drop (ecBlk mode)).map (fun x => roundEven x (2 ^ 69))

/-- A lane after a step in 2^-24, scaled by 2^-m. -/
def stepLane (w g : Int) (m : Nat) : Int := (satLane (roundEven (w * 2 ^ (24 + m) + g) (2 ^ (24 + m)))).1

/-- A gradient constrained to the partition length (R281, step 4): transformed back, only its first BLK taps are kept. -/
def ecConstrain (mode : Nat) (g : List Int) : List Int :=
  let taps := ((ecInverse mode g).take (ecBlk mode)).map (fun x => roundEven x (2 ^ 47))
  (ecSpectrum mode (taps ++ List.replicate (ecBlk mode) 0).reverse).map (fun x => roundEven x (2 ^ 23))

/-- The coefficients of a partition after a step of 2^-m of the normalised step (R281, step 4, R283). -/
def ecAdapt (mode m : Nat) (w x err pow : List Int) : List Int :=
  if err.all (· == 0) || x.all (· == 0) then w
  else List.zipWith (stepLane · · m) w (ecConstrain mode ((List.range w.length).map (Config.ecStep mode x err pow)))

/-- k of the leak: the integer nearest log2(LEAK_S × 500) (R292). -/
def leakK (s : Nat) : Nat := (Nat.log2 ((500 * s) ^ 2) + 1) / 2

/-- A coefficient scaled by 1 - 2^-k (R292). -/
def leakLane (k : Nat) (w : Int) : Int := roundEven (w * (2 ^ k - 1)) (2 ^ k)

/-! ### Comfort noise (R294) -/

/-- The noise generator's next state: 31 bits with taps 31 and 28. -/
def lfsrNext (x : BitVec 31) : BitVec 31 := BitVec.ofNat 31 (2 * x.toNat + b2n (bit x.toNat 30 != bit x.toNat 27))

/-- The noise generator after `n` samples, a lane of 24 bits each (log entry 37). -/
def lfsrRun (x : BitVec 31) (n : Nat) : BitVec 31 := (List.range (24 * n)).foldl (fun y _ => lfsrNext y) x

/-- The background estimate: in each bin the least power of the blocks it covers. -/
def ecBack16 (quiet : List (List Nat)) : List Nat := match quiet with
  | [] => []
  | x :: r => r.foldl (fun a y => List.zipWith min a y) x

/-- The power of each bin of a spectrum. -/
def binPower : List Int → List Nat
  | a :: b :: r => (a * a + b * b).natAbs :: binPower r
  | _ => []

/-- The level of a background estimate in 1/16 dB; -2,048 where there is no signal (R305). -/
def ecNoiseLvl (mode : Nat) (bg : List Nat) : Int := if bg.all (· == 0) then -2048 else (Config.ecNoiseLvl mode bg).toInt

/-- The largest sum of squares whose double to the power of 8,000 is at most `b` × 10^`q`, found from its bit `k` - 1 down: that of a level in 1/16 dBm0 (R282). -/
def powAt (b : Nat) (q : Int) : Nat → Nat → Nat
  | 0, e => e
  | k + 1, e =>
    let x := e + 2 ^ k
    let a := (2 * x) ^ (160 * 50)
    powAt b q k (if (if 0 ≤ q then decide (a ≤ b * 10 ^ q.toNat) else decide (a * 10 ^ (-q).toNat ≤ b)) then x else e)

/-- The comfort noise of a block (R294): shaped noise at a block level that is the lower of the background estimate's and -CN_MAX dBm0; none over a silent background.
DEDUCED: the level is that of the block by R282 (log entry 141). -/
def ecNoise (mode cnMax : Nat) (x : BitVec 31) (bg : List Nat) : List Int :=
  let n := ecBlk mode
  let raw := (List.range n).map (fun j => (Config.ecNoise mode x bg j).toInt)
  let e := sqSum raw
  if bg.all (· == 0) ∨ e = 0 then List.replicate n 0
  else
    let g := Nat.sqrt (powAt ((n * 8388607 ^ 2) ^ 8000) (50 * min (ecNoiseLvl mode bg) (-(16 * cnMax : Nat)) - 2512) 56 0 * 2 ^ 64 / e)
    raw.map (fun v => (satLane (roundEven (v * g) (2 ^ 32))).1)

/-! ### The coarse canceller of LONG (R299) -/

/-- What the coarse canceller holds: 1,024 taps, the decimated Rin newest first, and the tap profile. -/
structure Coarse where
  taps : List Int
  rin : List Int
  prof : List Int
  deriving DecidableEq, Repr

/-- One decimated sample of Rin and of Sin: the taps adapt where R283 lets them. -/
def Coarse.step (c : Coarse) (adapt : Bool) (r s : Int) : Coarse :=
  let rin := (r :: c.rin).take 1024
  let err := s - roundEven ((List.zipWith (· * ·) c.taps rin).sum) (2 ^ 23)
  { c with
    rin := rin
    taps := if !adapt || err == 0 then c.taps else c.taps.zipIdx.map (fun w =>
      if rin.getD w.2 0 = 0 then w.1 else stepLane w.1 (Config.ecCoarse rin err w.2) 0) }

/-- A value that is never negative as a lane holds it. -/
def laneNat (x : Nat) : Int := if x < 2 ^ 23 then x else ((Config.ecOver x).toNat % 2 ^ 23 : Nat)

/-- The tap profile, from the taps' smoothed energies. -/
def profileOf (e : List Nat) : List Int := e.map (fun x => laneNat (x - Config.ecFloor e))

/-- A block of the coarse canceller, from Rin and Sin newest first, and the smoothed energies before: the canceller and the energies after. With `hold` no
estimator moves (R308). -/
def Coarse.block (c : Coarse) (adapt hold : Bool) (e : List Nat) (rin sin : List Int) : Coarse × List Nat :=
  let dr := fromSound 2 rin (fun j => (satLane (Config.ecDecim rin j)).1)
  let ds := fromSound 2 sin (fun j => (satLane (Config.ecDecim sin j)).1)
  let c := (c.step adapt (dr.getD 0 0) (ds.getD 0 0)).step adapt (dr.getD 1 0) (ds.getD 1 0)
  if hold then (c, e)
  else
  let e := c.taps.zipIdx.map (fun w => if e.getD w.2 0 = 0 ∧ w.1 = 0 then 0 else Config.ecSmooth (e.getD w.2 0) w.1)
  ({ c with prof := profileOf e }, e)

/-! ### Lanes in the windows -/

/-- The lanes of words, three a word; those of a word that reads POISON are zero (R308). -/
def lanesOf (ws : List MWord) : List Int :=
  ws.flatMap (fun w => if wPoison w then [0, 0, 0] else [sLane (wData w) 0, sLane (wData w) 1, sLane (wData w) 2])

/-- Words that hold lanes, three a word. -/
def laneWords : List Int → List MWord
  | a :: b :: c :: r => mkW (packLanes (fieldOf 24 a) (fieldOf 24 b) (fieldOf 24 c)) false false false false :: laneWords r
  | [a, b] => [mkW (packLanes (fieldOf 24 a) (fieldOf 24 b) 0) false false false false]
  | [a] => [mkW (packLanes (fieldOf 24 a) 0 0) false false false false]
  | [] => []

/-- Part of a list replaced. -/
def splice (l : List Int) (i : Nat) (xs : List Int) : List Int := l.take i ++ xs ++ l.drop (i + xs.length)

end Sys2Proof.Machine
end

