-- ==== Sys2Proof/Machine/Ec.lean ====
section
/-! DEFINITION. Echo cancellation (R275 to R314): the argument block, the control items, the block of 16 strokes of every channel, and the regions of
LONG. -/

namespace Sys2Proof.Machine

/-! ### The task (R275, R281, R304, R307) -/

/-- MODE of an EC task. -/
def Dev.ecMode (d : Dev) (o : Nat) : Nat := bits (d.kParam o 0) 0 3

/-- NCH -/
def Dev.ecNch (d : Dev) (o : Nat) : Nat := bits (d.kParam o 0) 3 10

/-- TAIL_MAX in ms -/
def Dev.ecTailMax (d : Dev) (o : Nat) : Nat := bits (d.kParam o 0) 13 8

/-- Partitions at TAIL_MAX, all regions of LONG together. -/
def ecParts (mode tailMax : Nat) : Nat := if mode = 3 then 128 else tailMax / 2

/-- COEF in words (R304). -/
def ecCoef (mode tailMax : Nat) : Nat := ceilDiv (2 * ecParts mode tailMax * (16 * ecSpp mode + 1)) 3

/-- Samples of the Rin history: TAIL_MAX and a block, in LONG the FAR ring (R304). -/
def ecHistN (mode tailMax : Nat) : Nat := if mode = 3 then 8208 else tailMax * 8 * ecSpp mode + ecBlk mode

/-- Words of HIST, or of COARSE, DHIST and PROFILE (R304). -/
def ecHist (mode tailMax : Nat) : Nat := if mode = 3 then 3 * 342 else ceilDiv (tailMax * 8 * ecSpp mode + 16 * ecSpp mode) 3

/-- REC in words (R304). -/
def ecRec (mode tailMax : Nat) : Nat := 48 + ecCoef mode tailMax + ecHist mode tailMax

/-- DREC in words (R304). -/
def ecDrec (mode tailMax : Nat) : Nat := ecCoef mode tailMax + (if mode = 3 then 2736 else 0)

/-- The argument block of an EC task is valid (R307). -/
def Dev.ecArgOk (d : Dev) (o : Nat) : Bool :=
  let m := d.ecMode o
  let n := d.ecNch o
  let t := d.ecTailMax o
  let w := d.windows o
  decide (m ≤ 3) && decide (1 ≤ n ∧ n ≤ [765, 382, 127, 765].getD m 0) && t % 8 == 0 &&
    decide (if m = 3 then t = 64 else 8 ≤ t ∧ t ≤ (if m = 0 then 128 else 64)) &&
    d.nIn o == 4 && d.nOut o == 1 && ((d.inputs o).take 3).all (fun x => x.2.1 == 16) && ((d.inputs o).drop 3).all (fun x => decide (x.2.1 ≤ 8)) &&
    (d.outputs o).all (fun x => x.2.1 == 16) && decide (8 + n * ecRec m t ≤ w.1.2) && decide (n * ecDrec m t ≤ w.2.1.2)

/-- The address of a channel's record. -/
def Dev.ecAddr (d : Dev) (o ch : Nat) : Nat := (d.kState o).1 + 8 + ch * ecRec (d.ecMode o) (d.ecTailMax o)

/-- The address of a channel's DDR area. -/
def Dev.ecDdr (d : Dev) (o ch : Nat) : Nat := (d.windows o).2.1.1 + ch * ecDrec (d.ecMode o) (d.ecTailMax o)

/-- A channel of a task. -/
def Dev.ecCh (d : Dev) (t ch : Nat) : EcRt := kvD (kvD d.kern.ec t []) ch {}

/-- A channel of a task is replaced. -/
def Dev.setEcCh (d : Dev) (t ch : Nat) (r : EcRt) : Dev :=
  { d with kern := { d.kern with ec := kvUpd [] t (fun m => kvSet ch r m) d.kern.ec } }

/-! ### The parameter record (R286) -/

/-- Fields of parameter words 0 and 1. -/
def epTail (p : Nat) : Nat := 8 * bits p 0 7
/-- NLP -/
def epNlp (p : Nat) : Nat := bits p 7 2
/-- DT_MARGIN -/
def epMargin (p : Nat) : Nat := bits p 16 4
/-- DT_HANG in blocks, rounded up (R290) -/
def epHang (p : Nat) : Nat := ceilDiv (bits p 20 8) 2
/-- TONE_POL -/
def epPol (p : Nat) : Nat := bits p 41 3
/-- REL_LVL -/
def epRelLvl (p : Nat) : Nat := bits p 44 6
/-- REL_MS in blocks, rounded up (R298) -/
def epRel (p : Nat) : Nat := ceilDiv (bits p 50 9) 2
/-- NLP_THR -/
def epNlpThr (p : Nat) : Nat := bits p 59 5
/-- CONV_ERLE -/
def epConv (p : Nat) : Nat := bits p 64 5
/-- INIT_OPEN -/
def epInit (p : Nat) : Bool := bit p 69
/-- REG_FLOOR -/
def epFloor (p : Nat) : Nat := bits p 0 4
/-- PLACE -/
def epPlace (p : Nat) : Bool := bit p 4
/-- HEAD_MS -/
def epHead (p : Nat) : Nat := bits p 5 10
/-- The start of fixed region `k`, where FIX_EN enables it. -/
def epFix (p k : Nat) : Option Nat := if bit p (15 + k) then some (bits p (19 + 10 * k) 10) else none

/-- Two region starts lie less than 64 ms apart. -/
def tooNear (a b : Nat) : Bool := decide (a < b + 64 ∧ b < a + 64)

/-- A pair of the starts lies less than 64 ms apart. -/
def anyNear : List Nat → Bool
  | [] => false
  | a :: r => r.any (tooNear a) || anyNear r

/-- A parameter record is within R286. -/
def ecParamOk (mode tailMax p0 p1 : Nat) : Bool :=
  (mode == 3 || inR 1 (bits p0 0 7) (tailMax / 8)) && decide (epNlp p0 ≤ 2) && inR 30 (bits p0 9 7) 70 && decide (epMargin p0 ≤ 12) &&
    decide (bits p0 20 8 ≤ 200) && (bits p0 31 10 == 0 || inR 10 (bits p0 31 10) 600) && inR 20 (epRelLvl p0) 50 && inR 100 (bits p0 50 9) 400 &&
    inR 6 (epNlpThr p0) 30 && inR 10 (epConv p0) 30 && bits p0 70 2 == 0 &&
    (if mode = 3 then
      decide (epFloor p1 ≤ 12) && decide (epHead p1 ≤ 960) && [0, 1, 2, 3].all (fun k => decide (bits p1 (19 + 10 * k) 10 ≤ 960)) && bits p1 59 13 == 0 &&
        (epPlace p1 || !anyNear ([0, 1, 2, 3].filterMap (epFix p1)))
    else true)

/-! ### Starting a channel (R285, R301 to R303, R307) -/

/-- The regions at OPEN or RESET: region 0 at HEAD_MS, or the fixed regions. -/
def ecRegs0 (mode p1 : Nat) : List (Option Nat) :=
  if mode ≠ 3 then [none, none, none, none]
  else if epPlace p1 then [some (epHead p1), none, none, none]
  else [0, 1, 2, 3].map (epFix p1)

/-- Coefficients, history, estimators and placement as after RESET; parameters, FROZEN, BYPASS_CMD and the counters are kept (R285). -/
def EcRt.cleared (r : EcRt) (mode s0 : Nat) : EcRt :=
  { st := if r.st = 2 then 1 else r.st, frozen := r.frozen, seq := r.seq, lastBlk := r.lastBlk, cnt := r.cnt, p0 := r.p0, p1 := r.p1,
    s0 := s0, regs := ecRegs0 mode r.p1.toNat, moves := r.moves }

/-- The words of coefficients and history are zero, the FAR ring of LONG among them, those of the estimators free. -/
def Dev.ecWipe (d : Dev) (o ch : Nat) : Dev :=
  let m := d.ecMode o
  let t := d.ecTailMax o
  let a := d.ecAddr o ch
  let d := (d.resFree (a + 16) 32).resZero (a + 48) (ecCoef m t + ecHist m t)
  if m = 3 then d.ddrWriteN (d.ecDdr o ch + ecCoef m t) (List.replicate 2736 0) else d

/-- The taps beyond TAIL are zero (R285): the lanes of COEF from the first partition after it. -/
def Dev.ecCut (d : Dev) (o ch : Nat) (r : EcRt) : Dev :=
  let m := d.ecMode o
  if m = 3 then d
  else
    let a := d.ecAddr o ch + 48
    let j := epTail r.p0.toNat / 2 * ecLanes m
    let n := ecCoef m (d.ecTailMax o)
    if n ≤ j / 3 then d
    else (d.resMap (a + j / 3) (bits · 0 (24 * (j % 3)))).resZero (a + j / 3 + 1) (n - j / 3 - 1)

/-- The parameter words of a channel are written to its record (R304). -/
def Dev.ecPutParam (d : Dev) (o ch : Nat) (r : EcRt) : Dev :=
  let a := d.ecAddr o ch
  (((d.resPut a r.p0.toNat).resPut (a + 1) r.p1.toNat)).resZero (a + 2) 6

/-- A channel as its record in the reservoir has it, at an instance with FIRST_RUN (R307): a new record takes STATE from INIT_OPEN; any other channel restarts. -/
def Dev.ecLoad (d : Dev) (o ch s0 : Nat) : EcRt :=
  let a := d.ecAddr o ch
  let w := fun k => d.argWord (a + k)
  let p0 := BitVec.ofNat 72 (w 0)
  let p1 := BitVec.ofNat 72 (w 1)
  let mode := d.ecMode o
  let s := w 8
  let seq := bits s 8 16
  let cnt := [0, 16, 32, 48].map (fun l => BitVec.ofNat 16 (bits (w 10) l 16)) ++ [0, 16].map (fun l => BitVec.ofNat 16 (bits (w 11) l 16))
  if seq = 0 then ({ st := if epInit p0.toNat then 1 else 0, p0 := p0, p1 := p1 : EcRt }).cleared mode s0
  else
    let st := bits s 0 2
    ({ st := BitVec.ofNat 2 st, frozen := bit s 4, seq := seq, lastBlk := bits s 24 24, cnt := bump cnt 3, p0 := p0, p1 := p1,
       moves := BitVec.ofNat 12 (bits (w 12) 44 12) : EcRt }).cleared mode s0

/-- An instance with FIRST_RUN takes up the records of its window (R307, R309). -/
def Dev.ecBegin (d : Dev) (t : Nat) (i : Inst) : Dev :=
  let (new, d) := d.kBegin t i
  if !new ∨ !d.ecArgOk i.bits then d
  else (List.range (d.ecNch i.bits)).foldl (fun d ch =>
    let r := d.ecLoad i.bits ch i.rel
    let d := (d.resSeen (d.ecAddr i.bits ch) 16).setEcCh t ch r
    if r.st = 0 then d else d.ecWipe i.bits ch) (d.hdrSet i.bits 0 0 1 0)

/-! ### Control items (R285, R287) -/

/-- A control item for a channel: `f` gives the channel after an accepted command, `none` where it is rejected; `wipe` that the command clears coefficients and
history, `prm` that it writes the parameter record. A CLOSED channel takes OPEN only. -/
def Dev.ecItem (d : Dev) (t ch : Nat) (poison : Bool) (isOpen wipe prm : Bool) (f : (mode tailMax s0 : Nat) → EcRt → Option EcRt) : Dev :=
  match d.kInst t with
  | none => d
  | some i =>
    let o := i.bits
    if !d.ecArgOk o then d
    else
      let d := d.ecBegin t i
      if d.ecNch o ≤ ch then d.hdrCount o 1 0
      else
        let r := d.ecCh t ch
        let ans := if poison ∨ (r.st = 0 ∧ !isOpen) then none else f (d.ecMode o) (d.ecTailMax o) i.rel r
        match ans with
        | none => d.setEcCh t ch { r with cnt := bump r.cnt 4 }
        | some r' =>
          let d := d.setEcCh t ch { r' with cnt := bump r'.cnt 5 }
          let d := if wipe then d.ecWipe o ch else d
          if prm then (if wipe then d.ecPutParam o ch r' else (d.ecPutParam o ch r').ecCut o ch r') else d

/-- The parameter words of an item: words 2 and 3, of which word 3 is Reserved but for LONG; `none` where PLEN is too short or a parameter lies outside R286. -/
def ecParams (mode tailMax : Nat) (ps : List W72) : Option (W72 × W72) :=
  match ps with
  | p0 :: p1 :: _ =>
    let p1 := if mode = 3 then p1 else 0
    if ecParamOk mode tailMax p0.toNat p1.toNat then some (p0, p1) else none
  | _ => none

/-- OPEN (R285): an open channel acts as a RESET followed by a SET. -/
def ecOpenOp (ps : List W72) (mode tailMax s0 : Nat) (r : EcRt) : Option EcRt :=
  (ecParams mode tailMax ps).map (fun p =>
    let r := { r with p0 := p.1, p1 := p.2 }
    if r.st = 0 then { (({ r with frozen := false } : EcRt).cleared mode s0) with st := 1 } else r.cleared mode s0)

/-- SET (R285). -/
def ecSetOp (ps : List W72) (mode tailMax _s0 : Nat) (r : EcRt) : Option EcRt :=
  (ecParams mode tailMax ps).map (fun p =>
    let moved := mode = 3 && epPlace p.2.toNat != epPlace r.p1.toNat || (mode = 3 && !epPlace p.2.toNat)
    let r := { r with p0 := p.1, p1 := p.2 }
    if moved && !epPlace p.2.toNat then { r with regs := ecRegs0 mode p.2.toNat } else r)

/-- EC control OP 1 (R285). -/
def execEcOpen (w : When) (task ch : Nat) (poison : Bool) (params : List W72) (s : State) : Out :=
  s.runMain w (·.ecItem task ch poison true true true (ecOpenOp params))

/-- EC control OP 2: the channel is CLOSED (R285, R303). -/
def execEcClose (w : When) (task ch : Nat) (poison : Bool) (s : State) : Out :=
  s.runMain w (·.ecItem task ch poison false true false (fun mode _ s0 r => some { (r.cleared mode s0) with st := 0, frozen := false }))

/-- EC control OP 3 (R285). -/
def execEcSet (w : When) (task ch : Nat) (poison : Bool) (params : List W72) (s : State) : Out :=
  s.runMain w (·.ecItem task ch poison false false true (ecSetOp params))

/-- EC control OP 4 (R285). -/
def execEcReset (w : When) (task ch : Nat) (poison : Bool) (s : State) : Out :=
  s.runMain w (·.ecItem task ch poison false true false (fun mode _ s0 r => some (r.cleared mode s0)))

/-- EC control OP 5 (R285). -/
def execEcFreeze (w : When) (task ch : Nat) (poison : Bool) (s : State) : Out :=
  s.runMain w (·.ecItem task ch poison false false false (fun _ _ _ r => some { r with frozen := true }))

/-- EC control OP 6 (R285). -/
def execEcThaw (w : When) (task ch : Nat) (poison : Bool) (s : State) : Out :=
  s.runMain w (·.ecItem task ch poison false false false (fun _ _ _ r => some { r with frozen := false }))

/-- EC control OP 7 (R285, R287). -/
def execBypassOn (w : When) (task ch : Nat) (poison : Bool) (s : State) : Out :=
  s.runMain w (·.ecItem task ch poison false false false (fun _ _ _ r => some { r with st := 3 }))

/-- EC control OP 8 (R285, R287, R298). -/
def execBypassOff (w : When) (task ch : Nat) (poison : Bool) (s : State) : Out :=
  s.runMain w (·.ecItem task ch poison false false false (fun _ _ _ r =>
    some (if r.st = 3 then { r with st := if r.tonePend then 2 else 1 } else r)))

/-! ### The block of a channel (R283, R287 to R298) -/

/-- What a block brings to a channel: the Sin samples, each with whether its item is idle; the Rin samples; whether a word of Rin is POISON, and whether one is
POISON, PRIME or IDLE; the tone bits of each stroke, `none` for a POISON word. -/
structure EcIn where
  sin : List (Smp × Bool)
  rin : List Int
  rinPoison : Bool
  rinOff : Bool
  tones : List (Option Nat)
  deriving DecidableEq, Repr

/-- The tone bits of a channel in a tone-state item (R284). -/
def toneBits (it : List MWord) (ch : Nat) : Option Nat :=
  let w := it.getD (1 + ch / 24) 0
  if bit (itemHdr it) rIdle then some 0
  else if wPoison w then none
  else some (bits (wData w) (24 * (ch / 8 % 3) + 3 * (ch % 8)) 3)

/-- The tone bits of the block, a POISON word read as the stroke before (R308). -/
def toneFold (last : Nat) : List (Option Nat) → List Nat
  | [] => []
  | x :: r => let b := x.getD last; b :: toneFold b r

/-- The inputs of channel `ch` of `m` in the items of a block. -/
def ecIn (spp m ch : Nat) (sin rin tone : List (List MWord)) : EcIn :=
  let smp := fun (it : List MWord) (f : Nat) => itemSmp it 1 (f * m + ch)
  let fs := List.range spp
  { sin := sin.flatMap (fun it => fs.map (fun f => (smp it f, bit (itemHdr it) rIdle)))
    rin := rin.flatMap (fun it => fs.map (fun f => if bit (itemHdr it) rIdle ∨ (smp it f).poison ∨ bit (smp it f).rs 0 then 0 else (smp it f).v))
    rinPoison := rin.any (fun it => fs.any (fun f => (smp it f).poison))
    rinOff := rin.any (fun it => bit (itemHdr it) rIdle || fs.any (fun f => (smp it f).poison || bit (smp it f).rs 0))
    tones := tone.map (fun it => toneBits it ch) }

/-- The tone state of the block moves the channel (R295 to R298, R310). -/
def EcRt.tones (r : EcRt) (bs : List Nat) : EcRt :=
  let pol := epPol r.p0.toNat
  let pr := bit pol 0 && bs.any (fun b => bit b 0)
  let off := (bit pol 1 && bs.any (fun b => bit b 1)) || (bit pol 2 && bs.any (fun b => bit b 2))
  let r := { r with lastTone := BitVec.ofNat 3 (bs.getLast?.getD r.lastTone.toNat) }
  let r := if off then { r with nlpTone := true } else r
  let r := if pr && r.st == 1 then { r with st := 2, tonePend := true, cnt := bump r.cnt 2 }
    else if pr && r.st == 3 then { r with tonePend := true } else r
  if pr || off then { r with relCnt := 0 } else r

/-- The release rule of R298 after the levels of the block. -/
def EcRt.release (r : EcRt) (quiet toneNow : Bool) : EcRt :=
  if !(r.tonePend || r.nlpTone) then r
  else
    let n := if quiet && !toneNow then r.relCnt + 1 else 0
    if epRel r.p0.toNat ≤ n then
      { r with relCnt := 0, tonePend := false, nlpTone := false, dt := false, dtLeft := 0, st := if r.st = 2 then 1 else r.st }
    else { r with relCnt := n }

/-- The largest magnitude. -/
def peak (l : List Int) : Nat := l.foldl (fun m x => max m x.natAbs) 0

/-- The Rin samples over the channel's tail (R290), of a history newest first: in LONG the active regions and the newest 64 ms. -/
def EcRt.tailRin (r : EcRt) (mode : Nat) (h : List Int) : List Int :=
  if mode = 3 then h.take 512 ++ (r.regs.filterMap id).flatMap (fun s => (h.drop (8 * s)).take 512)
  else h.take (epTail r.p0.toNat * 8 * ecSpp mode)

/-- A block is in double talk (R290): peak Sin above peak Rin reduced by DT_MARGIN dB. -/
def dtBlock (sinPk rinPk margin : Nat) : Bool := decide (rinPk ^ 20 < sinPk ^ 20 * 10 ^ margin)

/-- Double talk and its hangover (R290). -/
def EcRt.doubleTalk (r : EcRt) (now : Bool) : EcRt :=
  if now then { r with dt := true, dtLeft := epHang r.p0.toNat }
  else if r.dtLeft = 0 then { r with dt := false }
  else { r with dt := true, dtLeft := r.dtLeft - 1 }

/-- The powers of a block, as sums of squares: Rin, Sin, the echo in Sin, and the linear canceller's output. -/
structure EcPow where
  n : Nat
  rin : Nat
  sin : Nat
  echo : Nat
  lin : Nat
  deriving DecidableEq, Repr

/-- What the NLP does in a block. -/
inductive NlpAct where
  | off
  | engage
  | on
  | release
  deriving DecidableEq, Repr

/-- The NLP engages or releases (R294): 32 ms of hangover, and a fade of one block at either end. -/
def EcRt.nlp (r : EcRt) (e : EcPow) : EcRt × NlpAct :=
  let p := r.p0.toNat
  let cond := epNlp p != 0 && !r.nlpTone && !r.dt && lvlGe e.rin e.n (-40) && dbAbove (e.rin * e.sin) (e.echo * e.lin) (epNlpThr p)
  if cond then ({ r with nlpOn := true, nlpLeft := 16 }, if r.nlpOn then .on else .engage)
  else if r.nlpOn then
    if r.nlpLeft = 0 then ({ r with nlpOn := false }, .release) else ({ r with nlpLeft := r.nlpLeft - 1 }, .on)
  else (r, .off)

/-- CONVERGED follows the ERLE of the last 64 ms (R293); it stays while there is no Sin (log entry 122). -/
def EcRt.converge (r : EcRt) : EcRt :=
  let c := epConv r.p0.toNat
  let s := (r.energy.map Prod.fst).sum
  let l := (r.energy.map (fun x => x.2.2)).sum
  if dbAbove s l c then { r with conv := true }
  else if s ≠ 0 ∧ dbAbove s l (c - 6) = false ∧ !r.dt then { r with conv := false } else r

/-- The Sout level over the span exceeds the Sin level by more than 3 dB. -/
def diverging (en : List (Nat × Nat × Nat)) : Bool := decide (1000 * (en.map Prod.fst).sum ^ 10 < (en.map (fun x => x.2.1)).sum ^ 10)

/-- What becomes of the snapshot in a block. -/
inductive SnapAct where
  | none
  | write
  | restore
  deriving DecidableEq, Repr

/-- Divergence and the snapshot (R291, R310, R312). -/
def EcRt.diverge (r : EcRt) (e : EcPow) : EcRt × SnapAct :=
  let r := { r with neg := if e.sin < e.lin then r.neg + 1 else 0 }
  if r.inhib = 0 ∧ ((r.energy.length = 32 ∧ diverging r.energy) ∨ 32 < r.neg) then
    ({ r with cnt := bump r.cnt 0, inhib := 32, snapCnt := 0, neg := 0 }, .restore)
  else
    let r := { r with inhib := r.inhib - 1 }
    if !r.dt ∧ dbAbove e.sin e.lin (epConv r.p0.toNat) then
      if r.snapCnt + 1 = 128 then ({ r with snap := true, snapCnt := 0 }, .write) else ({ r with snapCnt := r.snapCnt + 1 }, .none)
    else ({ r with snapCnt := 0 }, .none)

/-- A Sin sample that counts as silence: PRIME or IDLE. -/
def silent (x : Smp × Bool) : Bool := x.2 || bit x.1.rs 0

/-- Sout of one sample less the echo estimate in 2^-24, saturated and marked (R288). -/
def ecLinear (x : Smp × Bool) (est : Int) : Smp := (mkSmp (roundEven (x.1.v * 2 ^ 24 - est) (2 ^ 24)) x.1.rs x.1.poison).1

/-- Sout of sample `j` of `n` with the NLP: it fades linearly over the block that engages or releases it (R294; log entry 122). -/
def ecNlpOut (act : NlpAct) (n j : Nat) (lin : Smp) (x : Smp) (y : Int) : Smp :=
  let mix := fun (a b : Int) => ({ v := roundEven (a * (n - 1 - j : Nat) + b * (j + 1 : Nat)) n, rs := x.rs, poison := lin.poison } : Smp)
  match act with
  | .off => lin
  | .on => { v := y, rs := x.rs, poison := x.poison }
  | .engage => mix lin.v y
  | .release => mix y lin.v

/-- Sout of the block (R288), from the linear canceller's output and what the NLP puts out. -/
def ecOut (st : BitVec 2) (act : NlpAct) (x : EcIn) (lin : List Smp) (nlp : List Int) : List Smp :=
  x.sin.zipIdx.map (fun s =>
    let l := lin.getD s.2 {}
    if st = 0 then { v := 0, rs := 0, poison := s.1.1.poison }
    else if silent s.1 then { v := 0, rs := s.1.1.rs, poison := s.1.1.poison }
    else if st = 1 then ecNlpOut act x.sin.length s.2 l s.1.1 (nlp.getD s.2 0)
    else s.1.1)

/-! ### Regions of LONG (R299 to R303) -/

/-- G[r] as its lane holds it (R300); a sum that exceeds a lane is not stated (log entry 37). -/
def regG (p : List Int) (r : Nat) : Int :=
  let s := ((p.drop r).take 64).sum
  if s < 2 ^ 23 then s else (Config.ecOver s.toNat).toInt

/-- The start with the largest G outside the exclusion zones, the lowest on a tie. -/
def regBest (g : List Int) (zones : List Nat) : Option (Nat × Int) :=
  g.zipIdx.foldl (fun b x =>
    if zones.any (fun z => decide (x.2 ≤ z + 63 ∧ z ≤ x.2 + 63)) then b
    else match b with
      | none => some (x.2, x.1)
      | some y => if y.2 < x.1 then some (x.2, x.1) else b) none

/-- The kept starts of an evaluation, in the order found (R300): at most `n`. -/
def regStarts (g : List Int) (floor : Nat) : Nat → List Nat → List Nat
  | 0, found => found
  | n + 1, found => match regBest g found with
    | none => found
    | some (r, v) =>
      let ok := decide (0 < v) && (match found with
        | [] => true
        | f :: _ => decide (g.getD f 0 / (2 ^ floor : Int) ≤ v))
      if ok then regStarts g floor n (found ++ [r]) else found

/-- The distance of two starts. -/
def regDist (a b : Nat) : Nat := (a - b) + (b - a)

/-- A start is confirmed by the evaluation before (R301). -/
def regConf (pend : List Nat) (n : Nat) : Bool := pend.any (fun p => decide (regDist p n ≤ 8))

/-- The slot of the existing region that overlaps a start, nearest first, lower slot on a tie. -/
def regOver (regs : List (Option Nat)) (n : Nat) : Option Nat :=
  (regs.zipIdx.foldl (fun (b : Option (Nat × Nat)) x => match x.1 with
    | none => b
    | some s =>
      if 63 < regDist s n then b
      else match b with
        | none => some (x.2, regDist s n)
        | some y => if regDist s n < y.2 then some (x.2, regDist s n) else b) none).map Prod.fst

/-- A region at `n` in slot `k` would overlap another active region. -/
def regClash (regs : List (Option Nat)) (k n : Nat) : Bool :=
  regs.zipIdx.any (fun x => x.2 != k && (match x.1 with
    | none => false
    | some s => decide (regDist s n ≤ 63)))

/-- One start updates the slots (R301): the slots and whether REG_MOVES counts. -/
def regStep (g : List Int) (pend starts : List Nat) (regs : List (Option Nat)) (n : Nat) : List (Option Nat) × Bool :=
  match regOver regs n with
  | some k =>
    if regDist ((regs.getD k none).getD n) n ≤ 8 then (regs, false)
    else if regConf pend n ∧ !regClash regs k n then (regs.set k (some n), true) else (regs, false)
  | none =>
    if !regConf pend n then (regs, false)
    else match regs.findIdx? (· == none) with
      | some k => if regClash regs k n then (regs, false) else (regs.set k (some n), false)
      | none =>
        let un := regs.zipIdx.filterMap (fun x => match x.1 with
          | none => none
          | some s => if starts.any (fun m => decide (regDist s m ≤ 63)) then none else some (x.2, s))
        let w := un.foldl (fun (b : Option (Nat × Nat)) x => match b with
          | none => some x
          | some y => if g.getD x.2 0 < g.getD y.2 0 then some x else b) none
        match w with
        | none => (regs, false)
        | some (k, s) => if 2 * g.getD s 0 ≤ g.getD n 0 ∧ !regClash regs k n then (regs.set k (some n), true) else (regs, false)

/-- An evaluation (R301). -/
def EcRt.evaluate (r : EcRt) (profile : List Int) : EcRt :=
  let fl := epFloor r.p1.toNat
  let g := (List.range 961).map (regG profile)
  let starts := regStarts g fl 4 []
  let asc := starts.foldl (fun l x => insNat x l) []
  let x := asc.foldl (fun (a : List (Option Nat) × Nat) n =>
    let y := regStep g r.pend starts a.1 n
    (y.1, a.2 + b2n y.2)) (r.regs, 0)
  let top := match starts with
    | [] => 0
    | f :: _ => g.getD f 0 / (2 ^ fl : Int)
  let unm := x.1.map (fun s => match s with
    | none => false
    | some s => !starts.any (fun m => decide (regDist s m ≤ 63)))
  let same := fun (k : Nat) => x.1.getD k none == r.regs.getD k none
  let regs := x.1.zipIdx.map (fun y => match y.1 with
    | none => none
    | some s => if unm.getD y.2 false && r.unm.getD y.2 false && same y.2 && decide (g.getD s 0 < top) then none else some s)
  { r with regs := regs, pend := asc, unm := (unm.zip regs).map (fun y => y.1 && y.2.isSome), moves := r.moves + BitVec.ofNat 12 x.2 }

/-- The instance is one at which an evaluation runs (R301): at S + 512 j, j from 8. -/
def EcRt.evalDue (r : EcRt) (rel : Nat) : Bool := decide (r.s0 + 4096 ≤ rel) && (rel - r.s0) % 512 == 0

/-! ### The instance (R277, R306, R308) -/

/-- The status record (R305). -/
def EcRt.status (r : EcRt) (mode : Nat) : List Nat :=
  let c := r.cnt.map BitVec.toNat
  let reg := fun (k : Nat) => (r.regs.getD k none).getD 0
  [r.st.toNat + b2n r.conv * 4 + b2n r.dt * 8 + b2n r.frozen * 16 + b2n r.nlpOn * 32 + b2n r.nlpTone * 64 + b2n r.hold * 128 + r.seq * 2 ^ 8 + r.lastBlk * 2 ^ 24,
    r.lv.zipIdx.foldl (fun s x => s + fieldOf 12 x.1 * 2 ^ (12 * x.2)) 0,
    (c.take 4).zipIdx.foldl (fun s x => s + x.1 * 2 ^ (16 * x.2)) 0,
    (c.drop 4).zipIdx.foldl (fun s x => s + x.1 * 2 ^ (16 * x.2)) 0,
    if mode = 3 then
      [0, 1, 2, 3].foldl (fun s k => s + reg k * 2 ^ (10 * k) + b2n (r.regs.getD k none).isSome * 2 ^ (40 + k)) 0 + r.moves.toNat * 2 ^ 44
    else 0, 0, 0, 0]

/-- The blocks that HOLD lasts: until the sample has passed the tail, or the 1,024 ms window (R308). -/
def EcRt.holdBlocks (r : EcRt) (mode : Nat) : Nat := (if mode = 3 then 1024 else epTail r.p0.toNat) / 2 + 1

/-- Strokes of the blocks missed before this one, which enter as zeros in the history (R308). -/
def EcRt.missed (r : EcRt) (first : Nat) : Nat :=
  let n := (first + 2 ^ 24 - r.lastBlk - 16) % 2 ^ 24
  if r.seq = 0 ∨ 2 ^ 23 ≤ n then 0 else n / 16 * 16

/-- What a block reads from a channel's windows (R304): the words of COEF, the Rin history newest first, the coarse canceller of LONG, and whether a word of the
histories reads POISON. -/
structure EcMem where
  coef : List MWord
  hist : List Int
  coarse : Coarse
  bad : Bool
  deriving DecidableEq, Repr

/-- What a block leaves: the channel, its Sout, its coefficients, what becomes of the snapshot, its history and its coarse canceller. -/
structure EcRes where
  r : EcRt
  out : List Smp
  coef : List Int
  snap : SnapAct
  hist : List Int
  coarse : Coarse
  deriving DecidableEq, Repr

/-- The partitions in force: the place of each in COEF and the age of its newest Rin sample (R281). -/
def EcRt.parts (r : EcRt) (mode : Nat) : List (Nat × Nat) :=
  if mode = 3 then r.regs.zipIdx.flatMap (fun x => match x.1 with
    | none => []
    | some s => (List.range 32).map (fun p => (32 * x.2 + p, 8 * s + 16 * p)))
  else (List.range (epTail r.p0.toNat / 2)).map (fun p => (p, p * ecBlk mode))

/-- The coefficients of the partition at place `q`. -/
def ecPartOf (mode : Nat) (coef : List Int) (q : Nat) : List Int := (coef.drop (q * ecLanes mode)).take (ecLanes mode)

/-- A word that holds a lane of the partition at place `q` reads POISON. -/
def partPoison (mode : Nat) (ws : List MWord) (q : Nat) : Bool :=
  ((ws.drop (q * ecLanes mode / 3)).take (((q + 1) * ecLanes mode - 1) / 3 - q * ecLanes mode / 3 + 1)).any wPoison

/-- The channel adapts in this block (R283). -/
def EcRt.adapts (r : EcRt) (x : EcIn) (e : EcPow) : Bool :=
  r.st == 1 && !r.frozen && !r.dt && !r.hold && lvlGe e.rin e.n (-50) && !x.rinOff && !(x.sin.any (fun s => s.1.poison || silent s))

/-- Tone state, HOLD and the release rule in a block of an open channel (R295 to R298, R308): `bad` says that a Sin word is POISON, so that no level is known. -/
def EcRt.enter (r : EcRt) (mode : Nat) (x : EcIn) (e : EcPow) (bad hold : Bool) : EcRt :=
  let bs := toneFold r.lastTone.toNat x.tones
  let pol := epPol r.p0.toNat
  let lvl : Int := -(epRelLvl r.p0.toNat : Int)
  let r := r.tones bs
  let r := if bad then r else r.release (!lvlGe e.sin e.n lvl && !lvlGe e.rin e.n lvl) (bs.any (fun b => b &&& pol != 0))
  let r := if hold then { r with holdLeft := r.holdBlocks mode } else r
  { r with hold := decide (0 < r.holdLeft), holdLeft := r.holdLeft - 1 }

/-- What the estimators take from a block without a POISON word in Sin (R282, R294, R305): `out` is Sout. -/
def EcRt.measure (r : EcRt) (mode : Nat) (sin out : List Int) (e : EcPow) (spec : List Int) : EcRt :=
  let r := { r with
    lowRin := if lvlGe e.rin e.n (-50) then 0 else r.lowRin + 1
    energy := ((e.sin, sqSum out, e.lin) :: r.energy).take 32
    pow := (List.range (ecBlk mode + 1)).map (fun j => if r.pow.all (· == 0) && spec.all (· == 0) then 0 else Config.ecPower mode r.pow spec j)
    quiet := if lvlGe e.rin e.n (-40) then r.quiet else (binPower (ecSpectrum mode (sin.reverse ++ r.sinH)) :: r.quiet).take 500
    sinH := sin.reverse }
  let bg := ecBack16 r.quiet
  { r with lv := [lvl16 e.rin e.n, lvl16 e.sin e.n, lvl16 (sqSum out) e.n, lvlDiff (lvl16 e.rin e.n) (lvl16 e.echo e.n),
      lvlDiff (lvl16 e.sin e.n) (lvl16 e.lin e.n), ecNoiseLvl mode bg] }

/-- The coefficients after a block: the step of R283, then the leak of R292. -/
def EcRt.coefNext (r : EcRt) (mode : Nat) (x : EcIn) (e : EcPow) (parts : List (Nat × List Int)) (err coef : List Int) : List Int :=
  let c := if r.adapts x e then parts.foldl (fun c p =>
      splice c (p.1 * ecLanes mode) (ecAdapt mode (bits r.p0.toNat 28 3) (ecPartOf mode c p.1) p.2 err r.pow)) coef else coef
  let s := bits r.p0.toNat 31 10
  if s ≠ 0 ∧ r.st = 1 ∧ !r.frozen ∧ 1000 ≤ r.lowRin then c.map (leakLane (leakK s)) else c

/-- One channel's block (R281 to R298, R308): a function of the channel, of what its windows hold and of its inputs (R314). `seed` is that of the noise generator. -/
def EcRt.block (r : EcRt) (mode first seed : Nat) (m : EcMem) (x : EcIn) : EcRes :=
  let coef := lanesOf m.coef
  if r.st = 0 then { r := r, out := ecOut 0 .off x [] [], coef := coef, snap := .none, hist := m.hist, coarse := m.coarse }
  else
    let gap := r.missed first
    let r : EcRt := if gap = 0 then r else { r with cnt := bump r.cnt 1 }
    let h := (x.rin.reverse ++ List.replicate (gap * ecSpp mode) 0 ++ m.hist).take m.hist.length
    let parts := (r.parts mode).map (fun p => (p.1, ecSpectrum mode ((h.drop p.2).take (2 * ecBlk mode))))
    let est := ecEst mode (parts.map (fun p => (ecPartOf mode coef p.1, p.2)))
    let pz := m.bad || (r.parts mode).any (fun p => partPoison mode m.coef p.1)
    let lin := x.sin.zipIdx.map (fun s =>
      let y := ecLinear s.1 (est.getD s.2 0)
      { y with poison := y.poison || pz })
    let sin := x.sin.map (fun s => if silent s then 0 else s.1.v)
    let bad := x.sin.any (fun s => s.1.poison)
    let err := x.sin.zipIdx.map (fun s => if silent s.1 then 0 else (lin.getD s.2 {}).v)
    let e0 : EcPow := { n := sin.length, rin := sqSum x.rin, sin := sqSum sin, echo := echoPow (sqSum sin) (sqSum (est.map (fun v => roundEven v (2 ^ 24)))), lin := sqSum err }
    let r := r.enter mode x e0 bad (gap != 0 || x.rinPoison || pz)
    let e := if r.st = 1 then e0 else { e0 with lin := e0.sin }
    let r : EcRt := if r.st == 1 && !bad then r.doubleTalk (dtBlock (peak sin) (peak (r.tailRin mode h)) (epMargin r.p0.toNat)) else r
    let (r, act) := if r.st ≠ 1 then ({ r with nlpOn := false, nlpLeft := 0 }, .off) else if bad then (r, if r.nlpOn then .on else .off) else r.nlp e
    let lfsr := r.lfsr.getD (BitVec.ofNat 31 seed)
    let noise := if epNlp r.p0.toNat = 2 then ecNoise mode (bits r.p0.toNat 9 7) lfsr (ecBack16 r.quiet) else []
    let r : EcRt := if act = .off ∨ epNlp r.p0.toNat ≠ 2 then r else { r with lfsr := some (lfsrRun lfsr (ecBlk mode)) }
    let out := ecOut r.st act x lin noise
    let r := if bad then r else r.measure mode sin (out.map Smp.v) e (ecSpectrum mode (h.take (2 * ecBlk mode)))
    let coef := r.coefNext mode x e parts err coef
    let past : Coarse := { m.coarse with rin := (List.replicate (gap / 8) 0 ++ m.coarse.rin).take 1024 }
    let cs := if mode = 3 then past.block (r.adapts x e) bad r.tapE x.rin.reverse sin.reverse else (m.coarse, r.tapE)
    let r := { r with tapE := cs.2 }
    let (r, snap) := if r.st ≠ 1 ∨ bad then (r, .none) else r.converge.diverge e
    { r := r, out := out, coef := coef, snap := snap, hist := h, coarse := cs.1 }

/-- What a block reads from a channel's windows, in one transfer each (R247, R304), with whether the FAR ring can be reached. -/
def Dev.ecFetch (d : Dev) (o ch : Nat) (r : EcRt) : EcMem × Bool × Dev :=
  let m := d.ecMode o
  let t := d.ecTailMax o
  let (ws, d) := d.resReadN (d.ecAddr o ch) (ecRec m t)
  let coef := (ws.drop 48).take (ecCoef m t)
  let rest := ws.drop (48 + ecCoef m t)
  if m ≠ 3 then
    ({ coef := coef, hist := (lanesOf rest).take (ecHistN m t), coarse := { taps := [], rin := [], prof := [] }, bad := rest.any wPoison }, true, d)
  else
    let (far, d) := d.ddrReadN (d.ecDdr o ch + ecCoef m t) 2736
    let ring := lanesOf far
    let part := fun (k : Nat) => (lanesOf ((rest.drop (342 * k)).take 342)).take 1024
    ({ coef := coef, hist := ((ring.take r.far).reverse ++ (ring.drop r.far).reverse), coarse := { taps := part 0, rin := part 1, prof := part 2 },
       bad := rest.any wPoison || far.any wPoison }, decide (d.ecDdr o ch + ecCoef m t + 2736 ≤ d.ddrTotal), d)

/-- The status record of a channel: words 1 to 7 and then word 0 (R306). -/
def Dev.ecStatus (d : Dev) (o ch : Nat) (r : EcRt) : Dev :=
  let a := d.ecAddr o ch
  let ws := r.status (d.ecMode o)
  let d := d.each (ws.zipIdx.drop 1) (fun d x => d.resPut (a + 8 + x.2) x.1)
  d.resPut (a + 8) (ws.headD 0)

/-- The places of COEF beyond TAIL, and the slots of LONG whose region has changed, hold zero taps (R285, R301). -/
def EcRt.clearTaps (r : EcRt) (mode : Nat) (before : List (Option Nat)) (coef : List Int) : List Int :=
  if mode = 3 then (List.range 4).foldl (fun c k =>
    if r.regs.getD k none = before.getD k none then c else splice c (32 * k * ecLanes mode) (List.replicate (32 * ecLanes mode) 0)) coef
  else
    let n := epTail r.p0.toNat / 2 * ecLanes mode
    coef.take n ++ List.replicate (coef.length - n) 0

/-- What a block of an open channel leaves in the windows (R291, R304): the estimators' own words are free (log entry 37). `c0` are the coefficients before it, `regs`
the regions before its evaluation, and `far` says that the FAR ring can be reached: a ring that holds POISON is written anew with zeros in its place (R308). -/
def Dev.ecStore (d : Dev) (o ch : Nat) (c0 : List Int) (regs : List (Option Nat)) (far : Bool) (x : EcRes) : Dev :=
  let m := d.ecMode o
  let t := d.ecTailMax o
  let a := d.ecAddr o ch
  let d := d.resFree (a + 16) 32
  let (old, d) := if x.snap = .restore ∧ x.r.snap then
      let (ws, d) := d.ddrReadN (d.ecDdr o ch) (ecCoef m t)
      (ws, d)
    else ([], d)
  let coef := x.r.clearTaps m regs (if x.snap = .restore then (if x.r.snap then lanesOf old else x.coef.map (fun _ => 0)) else x.coef)
  let d := if coef = c0 then d else d.resWriteN (a + 48) (((laneWords coef).take (ecCoef m t)).zipIdx.map (fun w =>
    if wPoison (old.getD w.2 0) then poisoned w.1 else w.1))
  let d := if x.snap = .write then d.ddrWriteN (d.ecDdr o ch) ((laneWords coef).take (ecCoef m t)) else d
  let b := a + 48 + ecCoef m t
  if m ≠ 3 then d.resWriteN b ((laneWords x.hist).take (ecHist m t))
  else
    let d := ((d.resWriteN b (laneWords x.coarse.taps)).resWriteN (b + 342) (laneWords x.coarse.rin)).resWriteN (b + 684) (laneWords x.coarse.prof)
    let n := (x.r.far + 16) % 8208
    if far then d.ddrWriteN (d.ecDdr o ch + ecCoef m t) (laneWords ((x.hist.take n).reverse ++ (x.hist.drop n).reverse)) else d

/-- One channel of an EC instance: its block, its evaluation where one is due (R301), and its record. -/
def Dev.ecChannel (d : Dev) (t : Nat) (i : Inst) (ch : Nat) (x : EcIn) : Dev × List Smp :=
  let o := i.bits
  let mode := d.ecMode o
  let first := (i.rel + 2 ^ 24 - 16) % 2 ^ 24
  let r := d.ecCh t ch
  if r.st = 0 then
    let r := { r with seq := seqNext r.seq, lastBlk := first }
    ((d.ecStatus o ch r).setEcCh t ch r, ecOut 0 .off x [] [])
  else
    let (m, far, d) := d.ecFetch o ch r
    let y := r.block mode first (t * 1024 + ch) m x
    let r := { y.r with seq := seqNext y.r.seq, lastBlk := first }
    let r' := if mode == 3 && !r.frozen && epPlace r.p1.toNat && r.evalDue i.rel then r.evaluate y.coarse.prof else r
    let d := d.ecStore o ch (lanesOf m.coef) r.regs far { y with r := r' }
    let d := d.ecStatus o ch r
    (d.setEcCh t ch (if far then { r' with far := (r'.far + 16) % 8208 } else r'), y.out)

/-- Control items whose OP is not in the table are rejected (R285); the others are commands of their own. -/
def Dev.ecBadOps (d : Dev) (t o : Nat) : Dev :=
  d.each (d.badOps (tCell o) ((d.inputs o).getD 3 (0, 0, 0)) [1, 2, 3, 4, 5, 6, 7, 8]) (fun d ch =>
    if d.ecNch o ≤ ch then d.hdrCount o 1 0 else d.setEcCh t ch { d.ecCh t ch with cnt := bump (d.ecCh t ch).cnt 4 })

/-- An EC instance processes its block for the first `done` of its channels (R277, R281): all of them by its return, those before the stop where it stops (R308). -/
def Dev.ecChannels (d : Dev) (t : Nat) (i : Inst) (done : Nat) : Dev × List (List Smp) :=
  let o := i.bits
  let n := tCell o
  let nch := d.ecNch o
  let ins := d.inputs o
  let its := fun (k : Nat) => (List.range 16).map (d.staged n (ins.getD k (0, 0, 0)))
  (List.range (min done nch)).foldl (fun (a : Dev × List (List Smp)) ch =>
    let (d, out) := a.1.ecChannel t i ch (ecIn (ecSpp (d.ecMode o)) nch ch (its 0) (its 1) (its 2))
    (d, a.2 ++ [out])) (d, [])

/-- An EC instance that stops after `done` of its channels (R308). -/
def Dev.ecPart (d : Dev) (t : Nat) (i : Inst) (done : Nat) : Dev :=
  let d := d.ecBegin t i
  if d.ecArgOk i.bits then (d.ecChannels t i done).1 else d

/-- An EC instance by its return (R277, R281, R307); CONCEAL and STALE of a Sin item pass to the Sout item (R237), and IDLE does (R288). -/
def Dev.ecRun (d : Dev) (t : Nat) (i : Inst) : Dev :=
  let o := i.bits
  let n := tCell o
  let nch := d.ecNch o
  let spp := ecSpp (d.ecMode o)
  let d := d.ecBegin t i
  if !d.ecArgOk o then (d.argErr o).kPut n o 0 (idleItems 16 (ceilDiv (spp * nch) 3 % 256))
  else
    let (d, outs) := (d.ecBadOps t o).ecChannels t i nch
    let items := (List.range 16).map (fun k =>
      let it := (smpItems spp nch (fun f ch => (outs.getD ch []).getD (k * spp + f) {})).headD []
      let h := itemHdr (d.staged n ((d.inputs o).getD 0 (0, 0, 0)) k)
      let it := itemMapHdr (fun x => x ||| passRs (hReason h) * 2 ^ 48) it
      if bit h rIdle then itemMapHdr (fun h => setBit h rIdle) it else it)
    (d.kPut n o 0 items).kRet n 0

end Sys2Proof.Machine
end

