-- ==== Sys2Proof/Machine/CodecFrames.lean ====
section
/-! DEFINITION. The payloads of the codecs (R315, R316, R324, R329): their frames, sizes, orders and packings; concealment by G.711 Appendix I (R328). The payload
formats are those of RFC 3551, RFC 4867, RFC 6716 and TS 26.445 that R315 names: PRESUMED (unsafe, log entry 140). What a frame's bits say in sound is the codec's own
(log entry 38). -/

namespace Sys2Proof.Machine

/-! ### G.711 and linear (R317) -/

/-- A lane value as a 16-bit linear sample. -/
def to16 (x : Int) : Int := clampInt (-32768) 32767 (roundEven x 256)

/-- G.711 A-law of a 16-bit sample. -/
def alawEnc (v : Int) : Nat :=
  let ix := (if v < 0 then (-v - 1).toNat else v.toNat) / 16
  let e := ((List.range 8).find? (fun e => decide (ix / 2 ^ e ≤ 31))).getD 0
  let y := if ix ≤ 15 then ix else ix / 2 ^ e - 16 + (e + 1) * 16
  ((if 0 ≤ v then y + 128 else y) ^^^ 0x55) % 256

/-- The 16-bit sample of an A-law byte. -/
def alawDec (b : Nat) : Int :=
  let x := (b ^^^ 0x55) % 128
  let e := x / 16
  let m := (x % 16 + (if 0 < e then 16 else 0)) * 16 + 8
  let y : Int := (m * 2 ^ (e - 1) : Nat)
  if bit b 7 then y else -y

/-- G.711 μ-law of a 16-bit sample. -/
def ulawEnc (v : Int) : Nat :=
  let a := min ((if v < 0 then (-v - 1).toNat else v.toNat) / 4 + 33) 0x1FFF
  let seg := 1 + ((List.range 8).filter (fun e => decide (0 < a / 64 / 2 ^ e))).length
  (8 - seg) * 16 + (15 - a / 2 ^ seg % 16) + (if 0 ≤ v then 128 else 0)

/-- The 16-bit sample of a μ-law byte. -/
def ulawDec (b : Nat) : Int :=
  let x := 255 - b % 256
  let e := x / 16 % 8
  let y : Int := ((0x80 * 2 ^ e + 4 * 2 ^ (e + 1) * (x % 16) + 4 * 2 ^ (e + 1) / 2 : Nat) : Int) - 132
  if bit b 7 then y else -y

/-- The codec is one that this model computes. -/
def linCodec (c : Nat) : Bool := [0, 1, 8, 9].contains c

/-- Bytes of a sample of such a codec. -/
def linBytes (c : Nat) : Nat := if c = 8 then 2 else if c = 9 then 3 else 1

/-- The lane value of 1 in a codec's own samples: L24 carries the lane, every other codec 16 bits (R317). -/
def codecUnit (c : Nat) : Int := if c = 9 then 1 else 256

/-- Sample `i` of a payload of such a codec, in the codec's own samples. -/
def linDec (c : Nat) (b : List Byte) (i : Nat) : Int :=
  let x := beNat ((b.drop (linBytes c * i)).take (linBytes c))
  match c with
  | 0 => alawDec x
  | 1 => ulawDec x
  | 8 => signedOf 16 x
  | _ => signedOf 24 x

/-- A lane value encoded by such a codec. -/
def linEnc (c : Nat) (x : Int) : List Byte :=
  match c with
  | 0 => [BitVec.ofNat 8 (alawEnc (to16 x))]
  | 1 => [BitVec.ofNat 8 (ulawEnc (to16 x))]
  | 8 => beBytes 2 (fieldOf 16 (to16 x))
  | _ => beBytes 3 (fieldOf 24 x)

/-! ### Bits and bytes -/

/-- The bits of bytes, the most significant of each first. -/
def bytesBits (b : List Byte) : List Bool := b.flatMap (fun x => (List.range 8).map (fun i => x.getLsbD (7 - i)))

/-- The number of bits, the most significant first. -/
def bitsNum (l : List Bool) : Nat := l.foldl (fun n b => 2 * n + b2n b) 0

/-- The `w` bits of a number, the most significant first. -/
def numBits (w x : Nat) : List Bool := (List.range w).map (fun i => bit x (w - 1 - i))

/-- Bits as bytes, with zeros after the last. -/
def bitsBytes (l : List Bool) : List Byte :=
  (List.range (ceilDiv l.length 8)).map (fun k => BitVec.ofNat 8 (bitsNum ((List.range 8).map (fun i => l.getD (8 * k + i) false))))

/-- Groups of `n` of a list, `k` of them. -/
def groupsOf {α : Type} (n : Nat) : Nat → List α → List (List α)
  | 0, _ => []
  | k + 1, l => l.take n :: groupsOf n k (l.drop n)

/-! ### Frames -/

/-- What a frame is. -/
inductive FrameKind
  /-- Speech, or any signal. -/
  | speech
  /-- A comfort noise update. -/
  | sid
  /-- No data. -/
  | noData
  /-- A frame that its sender marks lost or damaged. -/
  | lost
  deriving DecidableEq, Repr, Inhabited

/-- A frame of a payload: its kind, its rate or mode, its bits, and the samples it stands for. -/
structure Frame where
  kind : FrameKind := .speech
  ft : Nat := 0
  data : List Bool := []
  len : Nat := 0
  deriving DecidableEq, Repr, Inhabited

/-- Bits of an AMR-WB frame by frame type, 9 a SID (RFC 4867). -/
def amrBits (ft : Nat) : Nat := [132, 177, 253, 285, 317, 365, 397, 461, 477, 40].getD ft 0

/-- The kind of an AMR-WB frame type; none where it is reserved. A frame whose quality bit is 0 is damaged (RFC 4867). -/
def amrKind (ft : Nat) (q : Bool) : Option FrameKind :=
  if ft ≤ 8 then some (if q then .speech else .lost)
  else if ft = 9 then some (if q then .sid else .lost)
  else if ft = 14 then some .lost
  else if ft = 15 then some .noData
  else none

/-- Bits of a frame of EVS primary by its index, 12 a SID (TS 26.445 Annex A). -/
def evsBits (ft : Nat) : Nat := [56, 144, 160, 192, 264, 328, 488, 640, 960, 1280, 1920, 2560, 48].getD ft 0

/-- The kind of an EVS primary frame index; none where it is reserved. -/
def evsKind (ft : Nat) : Option FrameKind :=
  if ft ≤ 11 then some .speech else if ft = 12 then some .sid else if ft = 14 then some .lost else if ft = 15 then some .noData else none

/-- Payload sizes in bytes that the compact format of EVS protects: those of a primary frame, and of an AMR-WB IO frame with its three bits of CMR. -/
def evsCompact : List Nat := [6, 7, 18, 20, 24, 33, 41, 61, 80, 120, 160, 240, 320] ++ [17, 23, 32, 36, 40, 46, 50, 58, 60]

/-- Strokes of an Opus frame by its configuration (RFC 6716 section 3.1). -/
def opusStrokes (cfg : Nat) : Nat :=
  if cfg < 12 then [80, 160, 320, 480].getD (cfg % 4) 80
  else if cfg < 16 then [80, 160].getD (cfg % 2) 80
  else [20, 40, 80, 160].getD (cfg % 4) 20

/-! ### Payloads to frames -/

/-- CODEC of a PT map entry. -/
def entCodec (e : Nat) : Nat := bits e 8 4
/-- OPT_A of an entry. -/
def entOptA (e : Nat) : Bool := bit e 12
/-- Bits of a G.726 code of an entry. -/
def entG726 (e : Nat) : Nat := 2 + bits e 13 2

/-- All of a list, none where one is. -/
def allSome {α : Type} : List (Option α) → Option (List α)
  | [] => some []
  | none :: _ => none
  | some a :: r => (allSome r).map (a :: ·)

/-- A table of contents: entries of `w` bits whose bit `f` says that another follows, at most `k`, and the bits after them. -/
def tocEntries (w f : Nat) : Nat → List Bool → Option (List (List Bool) × List Bool)
  | 0, _ => none
  | k + 1, l =>
    if l.length < w then none
    else if l.getD f false then (tocEntries w f k (l.drop w)).map (fun x => (l.take w :: x.1, x.2))
    else some ([l.take w], l.drop w)

/-- The frames of a table of contents out of the bits that follow it: each entry gives kind, type and size in bits; `oct` says that a frame ends on a byte. -/
def tocFrames (oct : Bool) (len : Nat) : List (FrameKind × Nat × Nat) → List Bool → Option (List Frame × List Bool)
  | [], l => some ([], l)
  | (k, ft, n) :: r, l =>
    let m := if oct then 8 * ceilDiv n 8 else n
    if l.length < m then none
    else (tocFrames oct len r (l.drop m)).map (fun x => (⟨k, ft, l.take n, len⟩ :: x.1, x.2))

/-- A payload with a table of contents of `w` bits an entry, bit `f` of which says that another follows, after `skip` bits: its frames, and what is left over. -/
def tocPayload (oct : Bool) (len skip w f : Nat) (entry : List Bool → Option (FrameKind × Nat × Nat)) (l : List Bool) : Option (List Frame × List Bool) :=
  (tocEntries w f 64 (l.drop skip)).bind (fun x => (allSome (x.1.map entry)).bind (fun es => tocFrames oct len es x.2))

/-- An entry of AMR-WB: kind, type and size of its frame. -/
def amrEntry (ft : Nat) (q : Bool) : Option (FrameKind × Nat × Nat) := (amrKind ft q).map (fun k => (k, ft, amrBits ft))

/-- A payload of AMR-WB, octet-aligned or bandwidth-efficient (RFC 4867 sections 4.3 and 4.4). CMR is ignored (R324). -/
def amrFrames (oct : Bool) (len : Nat) (b : List Byte) : Option (List Frame) :=
  (tocPayload oct len (if oct then 8 else 4) (if oct then 8 else 6) 0 (fun e => amrEntry (bitsNum ((e.drop 1).take 4)) (e.getD 5 false)) (bytesBits b)).bind
    (fun x => if x.2.length < 8 then some x.1 else none)

/-- A compact payload of EVS: one frame, known by its size; of 7 bytes the first bit tells a primary frame from a SID of AMR-WB IO, whose types count from 16 here. -/
def evsOne (len : Nat) (b : List Byte) : Frame :=
  let l := bytesBits b
  match (List.range 13).find? (fun ft => decide (evsBits ft = 8 * b.length)) with
  | some ft =>
    if ft = 0 ∧ l.headD false then ⟨.sid, 16 + 9, (l.drop 3).take (amrBits 9), len⟩ else ⟨if ft = 12 then .sid else .speech, ft, l, len⟩
  | none =>
    let ft := ((List.range 9).find? (fun ft => decide (ceilDiv (amrBits ft + 3) 8 = b.length))).getD 0
    ⟨.speech, 16 + ft, (l.drop 3).take (amrBits ft), len⟩

/-- An entry of a header-full table of contents of EVS; its third bit is set for AMR-WB IO, and its first is 0. -/
def evsEntry (e : List Bool) : Option (FrameKind × Nat × Nat) :=
  let ft := bitsNum (e.drop 4)
  if e.headD false then none
  else if e.getD 2 false then (amrEntry ft (e.getD 3 false)).map (fun x => (x.1, 16 + ft, x.2.2))
  else (evsKind ft).map (fun k => (k, ft, evsBits ft))

/-- A payload of EVS (TS 26.445 Annex A.2): compact where its size is protected, else header-full with CMR where the first bit says so, and zero bytes after
the frames. -/
def evsFrames (len : Nat) (b : List Byte) : Option (List Frame) :=
  if evsCompact.contains b.length then some [evsOne len b]
  else
    let l := bytesBits b
    (tocPayload true len (if l.headD false then 8 else 0) 8 1 evsEntry l).bind (fun x => if x.2.any id then none else some x.1)

/-- A frame length of Opus in one byte or two (RFC 6716 section 3.2.1), and the bytes after it. -/
def opusLen (b : List Byte) : Option (Nat × List Byte) := match b with
  | [] => none
  | x :: r => if x.toNat < 252 then some (x.toNat, r) else match r with
    | [] => none
    | y :: r => some (x.toNat + 4 * y.toNat, r)

/-- `k` frame lengths of Opus. -/
def opusLens : Nat → List Byte → Option (List Nat × List Byte)
  | 0, b => some ([], b)
  | k + 1, b => (opusLen b).bind (fun x => (opusLens k x.2).map (fun y => (x.1 :: y.1, y.2)))

/-- The padding length of Opus: each byte of 255 counts 254 and another follows. -/
def opusPad : List Byte → Option (Nat × List Byte)
  | [] => none
  | x :: r => if x.toNat = 255 then (opusPad r).map (fun y => (254 + y.1, y.2)) else some (x.toNat, r)

/-- The bytes of Opus frames of these lengths. -/
def opusCut : List Nat → List Byte → List (List Byte)
  | [], _ => []
  | n :: r, b => b.take n :: opusCut r (b.drop n)

/-- The bytes of the frames of an Opus packet after its first byte, by the frame code in it (RFC 6716 sections 3.2 to 3.4); none where the packet is malformed. -/
def opusParts (code : Nat) (b : List Byte) : Option (List (List Byte)) :=
  let fits := fun (l : List (List Byte)) => if l.all (fun x => decide (x.length ≤ 1275)) then some l else none
  match code with
  | 0 => fits [b]
  | 1 => if b.length % 2 = 0 then fits [b.take (b.length / 2), b.drop (b.length / 2)] else none
  | 2 => (opusLen b).bind (fun x => if x.1 ≤ x.2.length then fits [x.2.take x.1, x.2.drop x.1] else none)
  | _ => match b with
    | [] => none
    | h :: r =>
      let m := h.toNat % 64
      (if bit h.toNat 6 then opusPad r else some (0, r)).bind (fun p =>
        if m = 0 ∨ p.2.length < p.1 then none
        else
          let r := p.2.take (p.2.length - p.1)
          if bit h.toNat 7 then (opusLens (m - 1) r).bind (fun x =>
            let used := x.1.sum
            if used ≤ x.2.length then fits (opusCut (x.1 ++ [x.2.length - used]) x.2) else none)
          else if r.length % m = 0 then fits (opusCut (List.replicate m (r.length / m)) r) else none)

/-- A packet of Opus at `spp` samples a stroke, of 2.5 to 60 ms (R315). A frame of at most one byte holds no data. -/
def opusFrames (spp : Nat) (b : List Byte) : Option (List Frame) := match b with
  | [] => none
  | t :: r =>
    let st := opusStrokes (t.toNat / 8)
    (opusParts (t.toNat % 4) r).bind (fun l =>
      if 480 < l.length * st then none
      else some (l.map (fun x => ⟨if x.length ≤ 1 then .noData else .speech, t.toNat, bytesBits x, st * spp⟩)))

/-- The codes of G.726 of `w` bits each, the most significant bit first: in AAL2 packing they follow each other so, in that of RFC 3551 from the least significant bit
of each byte on. -/
def g726Codes (aal2 : Bool) (w : Nat) (b : List Byte) : List Bool :=
  if aal2 then bytesBits b
  else
    let l := b.flatMap (fun x => (List.range 8).map (fun i => x.getLsbD i))
    (groupsOf w (l.length / w) l).flatMap List.reverse

/-- Codes of G.726 packed as bytes. -/
def g726Pack (aal2 : Bool) (w : Nat) (l : List Bool) : List Byte :=
  if aal2 then bitsBytes l
  else (bitsBytes ((groupsOf 8 (l.length / 8) ((groupsOf w (l.length / w) l).flatMap List.reverse)).flatMap List.reverse))

/-- The frames of a payload under a PT map entry, at `spp` samples a stroke; none where it is malformed for its codec and mode (R315, R326). -/
def payFrames (e spp : Nat) (b : List Byte) : Option (List Frame) :=
  let c := entCodec e
  let n := b.length
  if linCodec c then (if n = 0 ∨ n % linBytes c ≠ 0 then none else some [⟨.speech, 0, bytesBits b, n / linBytes c⟩])
  else match c with
  | 2 => if n = 0 then none else some [⟨.speech, 0, bytesBits b, 2 * n⟩]
  | 3 => if n = 0 ∨ 8 * n % entG726 e ≠ 0 then none
    else some [⟨.speech, entG726 e, g726Codes (entOptA e) (entG726 e) b, 8 * n / entG726 e⟩]
  | 4 => if n = 0 ∨ ¬ (n % 10 = 0 ∨ n % 10 = 2) then none
    else some ((groupsOf 10 (n / 10) b).map (fun x => ⟨.speech, 0, bytesBits x, 80⟩) ++
      (if n % 10 = 2 then [⟨.sid, 1, bytesBits (b.drop (n - 2)), 80⟩] else []))
  | 5 => amrFrames (entOptA e) (160 * spp) b
  | 6 => evsFrames (160 * spp) b
  | _ => opusFrames spp b

/-! ### Windows to payloads (R324, R329, R330) -/

/-- Fields of an encoder record (R324). -/
def enCodec (r : Nat) : Nat := bits r 0 4
/-- MODE -/
def enMode (r : Nat) : Nat := bits r 4 8
/-- PTIME -/
def enPtime (r : Nat) : Nat := bits r 12 9
/-- W_PHASE -/
def enPhase (r : Nat) : Nat := bits r 21 9
/-- DTX -/
def enDtx (r : Nat) : Bool := bit r 30
/-- OPT_A -/
def enOptA (r : Nat) : Bool := bit r 31
/-- EVS_BW -/
def enBw (r : Nat) : Nat := bits r 32 2
/-- Bits of a G.726 code. -/
def enG726 (r : Nat) : Nat := 2 + enMode r % 4

/-- Strokes of a frame of a codec; a codec without frames of its own takes its window as one. -/
def enFrame (r : Nat) : Nat := match enCodec r with
  | 4 => 80
  | 5 => 160
  | 6 => 160
  | _ => max 1 (enPtime r)

/-- The frames of a window in its record's packet time. -/
def enCount (r : Nat) : Nat := max 1 (enPtime r / enFrame r)

/-- Bits of a speech frame of a record: an EVS frame of 5.9 kbit/s is one of 2.8, 7.2 or 8.0 (`pick`). -/
def enFt (r pick : Nat) : Nat := if enCodec r = 6 ∧ enMode r = 0 then pick % 3 else enMode r

/-- The size in bits of a frame that a record makes, of kind `k`. -/
def enBits (r ft : Nat) (k : FrameKind) : Nat := match k with
  | .speech => (match enCodec r with
    | 2 => 8 * enPtime r
    | 3 => enG726 r * enPtime r
    | 4 => 80
    | 5 => amrBits ft
    | _ => evsBits ft)
  | .sid => (match enCodec r with
    | 4 => 16
    | 5 => amrBits 9
    | _ => evsBits 12)
  | _ => 0

/-- The type by which a table of contents names a frame. -/
def tocType (codec ft : Nat) (k : FrameKind) : Nat := match k with
  | .speech => ft
  | .sid => if codec = 5 then 9 else 12
  | _ => 15

/-- A header-full payload of EVS, filled with zeros to a size that the compact format does not protect. -/
def evsFill : Nat → List Byte → List Byte
  | 0, b => b
  | k + 1, b => if evsCompact.contains b.length then evsFill k (b ++ [0]) else b

/-- The payload of a window's frames, in their order (R329). The AMR-WB encoder writes CMR 15 (R324). -/
def packFrames (r : Nat) (fs : List Frame) : List Byte :=
  let c := enCodec r
  let toc := fun (f : Frame) (last : Bool) (pre post : Nat) =>
    numBits pre 0 ++ [!last] ++ (if c = 5 then numBits 4 (tocType 5 f.ft f.kind) ++ [true] else numBits 2 0 ++ numBits 4 (tocType 6 f.ft f.kind)) ++ numBits post 0
  let table := fun (pre post : Nat) => fs.zipIdx.flatMap (fun x => toc x.1 (x.2 + 1 == fs.length) pre post)
  let octets := fs.flatMap (fun f => bitsBytes f.data)
  match c with
  | 3 => g726Pack (enOptA r) (enG726 r) (fs.flatMap Frame.data)
  | 5 =>
    if enOptA r then bitsBytes (numBits 4 15 ++ numBits 4 0 ++ table 0 2) ++ octets
    else bitsBytes (numBits 4 15 ++ table 0 0 ++ fs.flatMap Frame.data)
  | 6 => if fs.length = 1 then octets else evsFill 8 (bitsBytes (table 1 0) ++ octets)
  | _ => octets

/-- A frame of `n` samples of a window, the codec's state before it and after it: what is in its bits is the codec's (log entry 38). -/
def encFrame (r spp cs : Nat) (xs : List Int) : Frame × Nat :=
  let k : FrameKind := if !enDtx r then .speech else match Config.encKind r spp cs xs % 3 with
    | 0 => .speech
    | 1 => .sid
    | _ => .noData
  let ft := enFt r (Config.evsPick r spp cs xs)
  (⟨k, ft, (List.range (enBits r ft k)).map (Config.encBit r spp cs xs), xs.length⟩,
    if enCodec r = 3 then Config.adpcmStep (enG726 r) cs xs else Config.encStep r spp cs xs)

/-- The frames of a window and the codec's state after it. -/
def encFrames (r spp : Nat) : Nat → Nat → List Int → List Frame × Nat
  | 0, cs, _ => ([], cs)
  | k + 1, cs, xs =>
    let n := enFrame r * spp
    let f := encFrame r spp cs (xs.take n)
    let y := encFrames r spp k f.2 (xs.drop n)
    (f.1 :: y.1, y.2)

/-- The frames of G.729 that a payload can hold: speech, and a SID after the last of it (RFC 3551); what DTX leaves out before later speech is coded as speech. -/
def g729Frames (r spp cs : Nat) (xs : List Int) (fs : List Frame) : List Frame :=
  let n := (fs.zipIdx.filter (fun x => x.1.kind == .speech)).foldl (fun _ x => x.2 + 1) 0
  (fs.take n).zipIdx.map (fun x => if x.1.kind == .speech then x.1
      else ⟨.speech, 0, (List.range 80).map (Config.encBit r spp cs (xs.take (80 * (x.2 + 1)))), 80⟩) ++
    ((fs.drop n).filter (fun f => f.kind == .sid)).take 1

/-- The largest payload of a record in bytes (R324); the frames of Opus have the bound that the pack declares (log entry 38). -/
def encLargest (r spp : Nat) : Nat :=
  let p := enPtime r
  let n := enCount r
  match enCodec r with
  | 2 => p
  | 3 => p * enG726 r / 8
  | 4 => n * 10
  | 5 => if enOptA r then 1 + n * (1 + ceilDiv (amrBits (enMode r)) 8) else ceilDiv (4 + n * (6 + amrBits (enMode r))) 8
  | 6 =>
    let one := evsBits (if enMode r = 0 then 2 else enMode r) / 8
    if n = 1 then one else (evsFill 8 (List.replicate (n * (1 + one)) 0)).length
  | 7 => Config.opusMax r
  | c => p * spp * linBytes c

/-- The payload of a window, and the codec's state after it; no payload where DTX leaves the window without data (R330). A codec whose standard takes 16-bit input
gets that of R317. -/
def encWindow (r spp cs : Nat) (lane : List Int) : Option (List Byte) × Nat :=
  let c := enCodec r
  let xs := lane.map to16
  if linCodec c then (some (lane.flatMap (linEnc c)), cs)
  else if c = 7 then
    (if enDtx r && Config.encKind r spp cs xs % 2 == 1 then none else some ((Config.opusBytes r spp cs xs).take (Config.opusMax r)), Config.encStep r spp cs xs)
  else
    let x := encFrames r spp (enCount r) cs xs
    let fs := if c = 4 then g729Frames r spp cs xs x.1 else x.1
    (if fs.all (fun f => f.kind == .noData) then none else some (packFrames r fs), x.2)

/-- TS 26.445 allows an EVS bit rate at a bandwidth: NB up to 24.4 kbit/s, WB all, SWB from 9.6 kbit/s on (R324; log entry 140). -/
def evsOk (mode bw : Nat) : Bool := match bw with
  | 0 => decide (mode ≤ 6)
  | 1 => true
  | _ => decide (3 ≤ mode)

/-! ### Concealment by G.711 Appendix I (R328; log entry 140) -/

/-- The codec conceals by G.711 Appendix I. -/
def plcWave (c : Nat) : Bool := linCodec c || c == 3

/-- What lies between two values: the second where `x` is beyond it. -/
def between (a b x : Int) : Int := clampInt (min a b) (max a b) x

/-- The pitch period in samples that is found in what has been played, newest first: 5 to 15 ms. -/
def plcPitch (spp : Nat) (hist : List Int) : Nat := clampNat (40 * spp) (120 * spp) (Config.plcPitch spp hist)

/-- Sample `j` of a loss, from what was played before it, newest first: a sample of the last one, two or three pitch periods, by the 10 ms that the loss has lasted, or
a mix of two of them where periods join; attenuated by 20 % for each 10 ms after the first, and silent from 60 ms on. -/
def plcSample (spp : Nat) (hist : List Int) (j : Nat) : Int :=
  let p := plcPitch spp hist
  let k := min 3 (1 + j / (80 * spp)) * p
  let a := hist.getD (Config.plcAge spp hist j % k) 0
  let b := hist.getD (Config.plcAge2 spp hist j % (k + p / 4)) 0
  let v := between a b (Config.plcMix spp hist j)
  if j < 80 * spp then v else roundEven (v * (480 * spp - j : Nat)) (400 * spp)

/-- Samples over which the first speech after a loss of `lost` samples is overlap-added: a quarter of the pitch period, 4 ms more for each further 10 ms lost, at most
10 ms. -/
def plcOverlap (spp : Nat) (hist : List Int) (lost : Nat) : Nat :=
  max 1 (min (80 * spp) (plcPitch spp hist / 4 + (lost / (80 * spp) - 1) * (32 * spp)))

/-- The first speech after a loss, overlap-added to its continuation. -/
def plcJoin (spp : Nat) (hist : List Int) (lost : Nat) (xs : List Int) : List Int :=
  let n := plcOverlap spp hist lost
  xs.zipIdx.map (fun x => if n ≤ x.2 + 1 then x.1
    else roundEven (x.1 * (x.2 + 1 : Nat) + plcSample spp hist (lost + x.2) * (n - x.2 - 1 : Nat)) n)

end Sys2Proof.Machine
end

