-- ==== Sys2Proof/Machine/Codec.lean ====
section
/-! DEFINITION. Codec tasks (R315 to R333): their argument blocks, control items, decoder and encoder channels. G.711, L16 and L24 are computed; what the frames of the
other codecs hold, and comfort noise, are what their standards give (log entry 38). -/

namespace Sys2Proof.Machine

/-! ### The task (R318 to R321) -/

/-- KIND -/
def Dev.mKind (d : Dev) (o : Nat) : Nat := bits (d.kParam o 0) 0 2
/-- RATE -/
def Dev.mRate (d : Dev) (o : Nat) : Nat := bits (d.kParam o 0) 2 2
/-- NCH -/
def Dev.mNch (d : Dev) (o : Nat) : Nat := bits (d.kParam o 0) 4 11
/-- CODEC_MASK -/
def Dev.mMask (d : Dev) (o : Nat) : Nat := bits (d.kParam o 0) 15 10
/-- MAX_LEGS -/
def Dev.mLegs (d : Dev) (o : Nat) : Nat := bits (d.kParam o 0) 25 14

/-- Samples per stroke of a RATE (R318). -/
def mSpp (rate : Nat) : Nat := [1, 2, 6].getD rate 1

/-- R315 offers a codec at a RATE. -/
def codecAt (rate c : Nat) : Bool :=
  if c = 0 ∨ c = 1 ∨ c = 3 ∨ c = 4 then rate == 0 else if c = 2 ∨ c = 5 then rate == 1 else decide (c ≤ 9)

/-- Words of a record (R321). -/
def Dev.mRec (d : Dev) (o : Nat) : Nat := 6 + Config.recExtra (d.mKind o) (d.mRate o) (d.mMask o)

/-- The records of a task: channels, or legs and conferences of CONF. -/
def Dev.mRecs (d : Dev) (o : Nat) : Nat := if d.mKind o = 2 then d.mLegs o else d.mNch o

/-- The ports of an argument block are as R318 has them. -/
def Dev.mPortsOk (d : Dev) (o : Nat) : Bool :=
  let ins := (d.inputs o).map (fun x => x.2.1)
  let outs := (d.outputs o).map (fun x => x.2.1)
  let p := tPeriod o
  match d.mKind o with
  | 0 => ins.length == 2 && decide (d.mNch o ≤ ins.headD 0) && decide (ins.getLastD 0 ≤ 8) && inR 1 outs.length 2 && outs.all (· == p)
  | 1 => ins.length == 2 && ins.headD 0 == p && decide (ins.getLastD 0 ≤ 8) && outs.length == d.mNch o && outs.all (· == 1)
  | _ => decide (2 ≤ ins.length) && ins.dropLast.all (· == p) && decide (ins.getLastD 0 ≤ 8) && decide (1 ≤ outs.length) && outs.all (· == p)

/-- The argument block of a codec or mixing task is valid for a kernel of kind `k` (R320). -/
def Dev.mArgOk (d : Dev) (o k : Nat) : Bool :=
  let r := d.mRate o
  d.mKind o == k && decide (r ≤ 2) && inR 1 (d.mNch o) ([255, 16, 1024, 1023].getD k 0) && bits (d.kParam o 0) 39 33 == 0 &&
    (if k ≤ 1 then (List.range 10).all (fun c => !bit (d.mMask o) c || codecAt r c) else d.mMask o == 0) &&
    (if k = 2 then inR 2 (d.mLegs o) 8192 else d.mLegs o == 0) && d.mPortsOk o && decide (8 + d.mRecs o * d.mRec o ≤ (d.kState o).2)

/-- The address of record `c` of a task. -/
def Dev.mAddr (d : Dev) (o c : Nat) : Nat := (d.kState o).1 + 8 + c * d.mRec o

/-- The parameter record of a channel or leg is written. -/
def Dev.mPutRec (d : Dev) (o c : Nat) (r0 r1 : W72) : Dev :=
  (d.resPut (d.mAddr o c) r0.toNat).resPut (d.mAddr o c + 1) r1.toNat

/-- The status record is written (R306, R321): SEQ in word 0 and CMD_REJ and CMD_OK in word 3; where the rest lies the spec does not say, so that it is free (log
entry 37). -/
def Dev.mPutStat (d : Dev) (o c seq rej ok : Nat) : Dev :=
  let a := d.mAddr o c + 2
  let f := d.frees 3 72
  let w := fun (k : Nat) => f.1.getD k 0
  let d := ((f.2.resPut (a + 1) (w 0)).resPut (a + 2) (w 1)).resPut (a + 3) (rej % 2 ^ 16 + ok % 2 ^ 16 * 2 ^ 16)
  d.resPut a (setBits (w 2) 8 16 seq)

/-- SEQ of the record of a channel. -/
def Dev.mSeq (d : Dev) (o c : Nat) : Nat := bits (d.argWord (d.mAddr o c + 2)) 8 16

/-! ### Decoder channels (R323, R325 to R328) -/

/-- A decoder channel. -/
def Dev.decCh (d : Dev) (t c : Nat) : DecRt := kvD (kvD d.kern.dec t []) c {}

/-- A decoder channel is replaced. -/
def Dev.setDecCh (d : Dev) (t c : Nat) (r : DecRt) : Dev :=
  { d with kern := { d.kern with dec := kvUpd [] t (fun m => kvSet c r m) d.kern.dec } }

/-- A PT map entry. -/
def decEntry (r1 e : Nat) : Nat := bits r1 (18 * e) 18

/-- A decoder record is within R323, and its codecs decode at RATE (R326). -/
def decRecOk (mask rate r0 r1 : Nat) : Bool :=
  bits r0 15 57 == 0 && [0, 1, 2, 3].all (fun e =>
    let x := decEntry r1 e
    bits x 15 3 == 0 && (!bit x 7 || (bit mask (bits x 8 4) && codecAt rate (bits x 8 4))))

/-- A channel after OPEN or RESET (R327). -/
def DecRt.opened (r : DecRt) : DecRt := { st := .wait, r0 := r.r0, r1 := r.r1, seq := r.seq, cnt := r.cnt, done := r.done }

/-- The entry of a PT in a channel's map. -/
def DecRt.entry (r : DecRt) (pt : Nat) : Option Nat :=
  ([0, 1, 2, 3].map (decEntry r.r1.toNat)).find? (fun x => bit x 7 && bits x 0 7 == pt)

/-- Samples fill the strokes from `t` on (R326): one of a stroke already emitted is LATE, one of a stroke already filled is OVERLAP; samples of a concealment count
as neither. `rs` is the reasons they bear. -/
def DecRt.fillFrom (r : DecRt) (t spp : Nat) (xs : List Int) (conceal : Bool) (rs : Nat) : DecRt :=
  let held := r.fill.map (fun (x : Nat × (Int × Nat)) => x.1 / spp)
  xs.zipIdx.foldl (fun r x =>
    let s := t + x.2 / spp
    if s < r.done then (if conceal then r else { r with cnt := bump r.cnt 1 })
    else if held.contains s then (if conceal then r else { r with cnt := bump r.cnt 2 })
    else { r with fill := kvSet (t * spp + x.2) (x.1, rs) r.fill }) r

/-- Samples of the channel's codec have been formed, for play or for concealment: they are what a later concealment is made of (R328). -/
def DecRt.heard (r : DecRt) (spp : Nat) (xs : List Int) : DecRt := { r with hist := (xs.reverse ++ r.hist).take (900 * spp) }

/-- `n` concealed samples at stroke `t`, of an item with the reasons `rs` (R237, R327, R328). Those of CODEC 3 update the state by being encoded. -/
def DecRt.concealed (r : DecRt) (t spp n rs : Nat) : DecRt :=
  let c := entCodec r.ent
  let xs := if plcWave c then (List.range n).map (fun j => plcSample spp (r.hist.drop r.lost) (r.lost + j))
    else (List.range n).map (fun j => (Config.plcPcm c spp r.cs (r.lost + j)).toInt)
  let cs := if linCodec c then r.cs else if c = 3 then Config.adpcmStep (entG726 r.ent) r.cs xs else Config.plcStep c spp r.cs n
  { (r.fillFrom t spp (xs.map (· * codecUnit c)) true (rsConceal ||| passRs rs)).heard spp xs with st := .loss, cs := cs, lost := r.lost + n }

/-- A concealment request at stroke `t` (R327, R328): as many samples as the last packet held, in ACTIVE and LOSS. -/
def DecRt.conceal (r : DecRt) (t spp rs : Nat) : DecRt :=
  if r.st = .active ∨ r.st = .loss then r.concealed t spp r.lastLen rs else r

/-- The samples of a speech frame, in the codec's own samples, the first ones after a loss joined to the concealed signal (R328). -/
def DecRt.pcm (r : DecRt) (e spp : Nat) (f : Frame) : List Int :=
  let c := entCodec e
  let cs := fun (i : Nat) => Config.framePcm c f.ft spp r.cs f.data i
  let xs := (List.range f.len).map (fun i => if linCodec c then linDec c (bitsBytes f.data) i else (cs i).toInt)
  if r.st ≠ .loss then xs
  else if plcWave c then plcJoin spp (r.hist.drop r.lost) r.lost xs
  else (List.range f.len).map (fun i => (Config.plcRejoin c spp r.cs i (cs i)).toInt)

/-- The state of a codec after a frame. -/
def DecRt.next (r : DecRt) (e spp : Nat) (f : Frame) : Nat :=
  if linCodec (entCodec e) then r.cs else Config.frameStep (entCodec e) f.ft spp r.cs f.data

/-- Comfort noise ends at stroke `t`. -/
def DecRt.noiseEnds (r : DecRt) (t : Nat) : DecRt :=
  { r with dtx := r.dtx.map (fun (x : Nat × Option Nat × Nat) => if x.2.1.isNone then (x.1, some t, x.2.2) else x) }

/-- A frame of a packet, from stroke `t` on (R326, R327). Comfort noise bears the reasons of the item that brought its frame (R237). -/
def DecRt.frame (r : DecRt) (e spp rs t : Nat) (f : Frame) : DecRt :=
  match f.kind with
  | .speech =>
    let xs := r.pcm e spp f
    let cs := r.next e spp f
    let r := (r.fillFrom t spp (xs.map (· * codecUnit (entCodec e))) false (passRs rs)).heard spp xs
    { r.noiseEnds t with st := .active, ent := e, cs := cs, lost := 0 }
  | .lost => if r.st = .active ∨ r.st = .loss then { r with ent := e }.concealed t spp f.len rs else r
  | _ =>
    let on := r.st = .dtx ∧ f.kind = .noData
    let r := { r with st := .dtx, ent := e, cs := r.next e spp f, lost := 0 }
    if on then r else { r.noiseEnds t with dtx := (t, none, passRs rs) :: (r.noiseEnds t).dtx }

/-- The frames of a packet, one after another from stroke `t` on (R329). -/
def DecRt.frames (e spp rs : Nat) : Nat → List Frame → DecRt → DecRt
  | _, [], r => r
  | t, f :: l, r => DecRt.frames e spp rs (t + f.len / spp) l (r.frame e spp rs t f)

/-- A packet for the channel at stroke `t` (R326, R327), of an item with the reasons `rs` (R237). -/
def DecRt.packet (r : DecRt) (t spp pt : Nat) (b : List Byte) (poison : Bool) (rs : Nat) : DecRt :=
  let bad := { r with cnt := bump r.cnt 3 }
  if poison then bad.conceal t spp rs
  else match (r.entry pt).bind (fun e => (payFrames e spp b).map (fun fs => (e, fs))) with
    | none => bad.conceal t spp rs
    | some (e, fs) =>
      let r := if entCodec e = entCodec r.ent then r else { r with cs := 0, hist := [], lost := 0 }
      let n := ((fs.filter (fun f => f.kind == .speech)).map Frame.len).sum
      let r := DecRt.frames e spp rs t fs r
      if n = 0 then r else { r with lastLen := n, cnt := bump r.cnt 0 }

/-- The comfort noise that fills what is uncovered in a stroke: the reasons it bears. -/
def DecRt.noisy (r : DecRt) (s : Nat) : Option Nat :=
  (r.dtx.find? (fun x => decide (x.1 ≤ s) && (match x.2.1 with
    | none => true
    | some b => decide (s < b)))).map (fun x => x.2.2)

/-- The sample at a place, and whether it is an uncovered zero (R327). -/
def DecRt.out (r : DecRt) (spp s p : Nat) : Smp × Bool :=
  if r.st = .closed ∨ r.st = .wait then ({}, true)
  else match kvGet (s * spp + p) r.fill, r.noisy s with
    | some (v, rs), _ => ({ v := v, rs := rs }, false)
    | none, some rs => ({ v := (Config.cngPcm (entCodec r.ent) spp r.cs (s * spp + p)).toInt * codecUnit (entCodec r.ent), rs := rs }, false)
    | none, none => ({}, true)

/-- Strokes before `s` have been emitted. -/
def DecRt.emitted (r : DecRt) (s spp : Nat) : DecRt :=
  { r with done := s, fill := r.fill.filter (fun (x : Nat × (Int × Nat)) => decide (s * spp ≤ x.1))
           dtx := r.dtx.filter (fun (x : Nat × Option Nat × Nat) => match x.2.1 with
             | some b => decide (s < b)
             | none => true) }

/-- A stroke number of which the low 24 bits are given, nearest to `s` (R326). -/
def unwrap24 (x s : Nat) : Nat :=
  let dlt := (x + 2 ^ 24 - s % 2 ^ 24) % 2 ^ 24
  if dlt < 2 ^ 23 then s + dlt else s + dlt - 2 ^ 24

/-- A packet item is routed to the channel that takes its cistern (R325), if that is one of the first `done`. -/
def Dev.decItem (d : Dev) (t o spp rel done : Nat) (it : List MWord) : Dev :=
  let h := itemHdr it
  if bit h rIdle then d
  else
    let cis := bits h 56 14
    match (List.range (d.mNch o)).find? (fun c => (d.decCh t c).st != .closed && bits (d.decCh t c).r0.toNat 0 14 == cis) with
    | none => d.hdrCount o 2 0
    | some c =>
      if done ≤ c then d
      else
      let r := d.decCh t c
      let at' := unwrap24 (bits h 24 24) rel
      let m := wData (it.getD 1 0)
      let b := (wordBytes ((it.drop 2).map wData)).take (bits m 48 12)
      d.setDecCh t c (if bit h rConceal then r.conceal at' spp (hReason h) else r.packet at' spp (bits m 60 7) b (itemPoison it) (hReason h))

/-- An instance with FIRST_RUN takes up the decoder records of its window (R321, R327). -/
def Dev.decBegin (d : Dev) (t : Nat) (i : Inst) : Dev :=
  let (new, d) := d.kBegin t i
  if !new ∨ !d.mArgOk i.bits 0 then d
  else (List.range (d.mNch i.bits)).foldl (fun d c =>
    let a := d.mAddr i.bits c
    let r : DecRt := { r0 := BitVec.ofNat 72 (d.argWord a), r1 := BitVec.ofNat 72 (d.argWord (a + 1)), seq := d.mSeq i.bits c, cnt := (d.decCh t c).cnt }
    let isOpen := if r.seq = 0 then bit r.r0.toNat 14 else (d.decCh t c).st != .closed
    (d.resSeen a 3).setDecCh t c (if isOpen then r.opened else r)) (d.hdrSet i.bits 0 0 1 0)

/-- The packets of the first `done` channels of a DEC instance are decoded (R325, R326). -/
def Dev.decItems (d : Dev) (t : Nat) (i : Inst) (done : Nat) : Dev :=
  let o := i.bits
  let io := (d.inputs o).getD 0 (0, 0, 0)
  (List.range io.2.1).foldl (fun d k => d.decItem t o (mSpp (d.mRate o)) i.rel done (d.staged (tCell o) io k)) d

/-- The first `done` channels of a DEC instance have emitted their strokes and write their status records. -/
def Dev.decEmit (d : Dev) (t : Nat) (i : Inst) (done : Nat) : Dev :=
  let o := i.bits
  (List.range done).foldl (fun d c =>
    let r := (d.decCh t c).emitted i.rel (mSpp (d.mRate o))
    let r := { r with seq := seqNext r.seq }
    (d.setDecCh t c r).mPutStat o c r.seq (r.cnt.getD 4 0).toNat (r.cnt.getD 5 0).toNat) d

/-- A DEC instance that stops after `done` of its channels: the others keep their state (R333). -/
def Dev.decPart (d : Dev) (t : Nat) (i : Inst) (done : Nat) : Dev :=
  let d := d.decBegin t i
  let n := min done (d.mNch i.bits)
  if d.mArgOk i.bits 0 then (d.decItems t i n).decEmit t i n else d

/-- Control items of a codec task whose OP is not in the table are rejected (R322). -/
def Dev.codecBadOps (d : Dev) (o : Nat) (rej : Dev → Nat → Dev) : Dev :=
  d.each (d.badOps (tCell o) ((d.inputs o).getD 1 (0, 0, 0)) [1, 2, 3, 4]) (fun d ch => if d.mNch o ≤ ch then d.hdrCount o 1 0 else rej d ch)

/-- A DEC instance (R319, R326). -/
def Dev.decRun (d : Dev) (t : Nat) (i : Inst) : Dev :=
  let o := i.bits
  let n := tCell o
  let spp := mSpp (d.mRate o)
  let nch := d.mNch o
  let p := tPeriod o
  let len := ceilDiv (spp * nch) 3 % 256
  let d := d.decBegin t i
  if !d.mArgOk o 0 then
    (List.range (d.outputs o).length).foldl (fun d k => d.kPut n o k (idleItems p len)) (d.argErr o)
  else
    let d := (d.codecBadOps o (fun d ch => d.setDecCh t ch { d.decCh t ch with cnt := bump (d.decCh t ch).cnt 4 })).decItems t i nch
    let items := (List.range p).map (fun k =>
      let s := i.rel + k - p
      let f := fun (fr ch : Nat) => (d.decCh t ch).out spp s fr
      let it := (smpItems spp nch (fun fr ch => (f fr ch).1)).headD []
      if (List.range nch).all (fun ch => (List.range spp).all (fun fr => (f fr ch).2)) then itemMapHdr (fun h => setBit h rIdle) it else it)
    let d := (List.range (d.outputs o).length).foldl (fun d k => d.kPut n o k items) d
    (d.decEmit t i nch).kRet n 0

/-! ### Encoder channels (R324, R329, R330) -/

/-- An encoder channel. -/
def Dev.encCh (d : Dev) (t c : Nat) : EncRt := kvD (kvD d.kern.enc t []) c {}

/-- An encoder channel is replaced. -/
def Dev.setEncCh (d : Dev) (t c : Nat) (r : EncRt) : Dev :=
  { d with kern := { d.kern with enc := kvUpd [] t (fun m => kvSet c r m) d.kern.enc } }

/-- PTIME is a packet time that R315 gives the codec. -/
def ptimeOk (c p : Nat) : Bool :=
  if linCodec c then inR 1 p 480
  else if c = 5 ∨ c = 6 then [160, 320, 480].contains p
  else if c = 7 then [80, 160, 320, 480].contains p
  else inR 80 p 480 && p % 80 == 0

/-- An encoder record is within R324 at RATE `rate` and PERIOD `period`, and its payload fits the output queue (R324). -/
def encRecOk (mask rate period slotWords r0 : Nat) : Bool :=
  let c := enCodec r0
  let m := enMode r0
  bit mask c && decide (c ≤ 9) && codecAt rate c &&
    (if c = 3 then decide (m ≤ 3) else if c = 5 then decide (m ≤ 8) else if c = 6 then decide (m ≤ 11) && evsOk m (enBw r0)
      else if c = 7 then inR 6 m 128 else m == 0) &&
    ptimeOk c (enPtime r0) && enPtime r0 % max 1 period == 0 && decide (enPhase r0 < enPtime r0) && (!enDtx r0 || inR 4 c 7) && decide (enBw r0 ≤ 2) &&
    bits r0 35 37 == 0 && decide (encLargest r0 (mSpp rate) ≤ (slotWords - 2) * 9)

/-- A channel after OPEN or RESET: its record is kept, and a SET of one that waits goes on waiting (R322). -/
def EncRt.opened (r : EncRt) : EncRt := { isOpen := true, r0 := r.r0, next := r.next, seq := r.seq, cnt := r.cnt }

/-- The item of a window (R329, R330), with CONCEAL and STALE of its input (R237), and the codec's state after it. -/
def EncRt.item (r : EncRt) (spp : Nat) (xs : List Int) : List MWord × Nat :=
  let y := encWindow r.r0.toNat spp r.cs xs
  let b := y.1.getD []
  let ws := (b.length % 4096 * 2 ^ 48) :: packBytes b
  (mkItem ((if y.1.isNone ∨ r.idle then 8 else 0) ||| r.rs) 0 (ws.map (fun x => mkW x false false false false)), y.2)

/-- The stroke at which the window of a record began that holds stroke `s` (R329). -/
def winStart (r0 s : Nat) : Nat :=
  let p := max 1 (enPtime r0)
  s - (s + p - enPhase r0 % p) % p

/-- A window begins at stroke `s` (R322, R329): the record of a SET that waits applies, and where that has another PTIME or W_PHASE its first window may still be to
come. -/
def EncRt.begins (r : EncRt) (s : Nat) : EncRt :=
  let r := match r.next with
    | none => r
    | some x => { r with r0 := x, next := none, cs := if enCodec x.toNat = enCodec r.r0.toNat then r.cs else 0 }
  if winStart r.r0.toNat s = s then { r with win := some [], wfrom := s, idle := true, bad := false, rs := 0 } else { r with win := none }

/-- The window in force at stroke `s`. Strokes of a lost instance are missing from it, the first ones of a window among them: their samples are zero, and a window that
closed in one is lost (R333; log entry 83). -/
def EncRt.window (r : EncRt) (spp s : Nat) : EncRt :=
  let u := winStart r.r0.toNat s
  let late := r.win.isNone && (match r.upTo with
    | none => false
    | some x => decide (x ≤ u))
  let r := if u = s ∨ late ∨ (r.win.isSome ∧ r.wfrom ≠ u) then r.begins u else r
  let r := { r with upTo := some (s + 1) }
  match r.win with
  | none => r
  | some w =>
    let pad := (s - r.wfrom) * spp - w.length
    { r with win := some (w ++ List.replicate pad 0), idle := r.idle && pad == 0 }

/-- One stroke of input for a channel: its samples, whether the item is idle, whether one is POISON, and the reasons that pass on (R237, R329). The answer holds the
item of a window that ends; FRAMES does not count one with a POISON word (R333). -/
def EncRt.stroke (r : EncRt) (spp s : Nat) (xs : List Int) (idle bad : Bool) (rs : Nat) : EncRt × Option (List MWord) :=
  let r := r.window spp s
  match r.win with
  | none => (r, none)
  | some w =>
    let w := w ++ xs
    let r := { r with win := some w, idle := r.idle && idle, bad := r.bad || bad, rs := r.rs ||| rs }
    if w.length < enPtime r.r0.toNat * spp then (r, none)
    else
      let it := r.item spp w
      ({ r with win := none, cs := it.2, cnt := if r.bad then r.cnt else bump r.cnt 0 }, some it.1)

/-- An instance with FIRST_RUN takes up the encoder records of its window (R321). -/
def Dev.encBegin (d : Dev) (t : Nat) (i : Inst) : Dev :=
  let (new, d) := d.kBegin t i
  if !new ∨ !d.mArgOk i.bits 1 then d
  else (List.range (d.mNch i.bits)).foldl (fun d c =>
    let r : EncRt := { r0 := BitVec.ofNat 72 (d.argWord (d.mAddr i.bits c)), seq := d.mSeq i.bits c, cnt := (d.encCh t c).cnt }
    let isOpen := if r.seq = 0 then bit r.r0.toNat 34 else (d.encCh t c).isOpen
    (d.resSeen (d.mAddr i.bits c) 3).setEncCh t c (if isOpen then r.opened else r)) (d.hdrSet i.bits 0 0 1 0)

/-- An ENC instance (R319, R329). -/
def Dev.encRun (d : Dev) (t : Nat) (i : Inst) : Dev :=
  let o := i.bits
  let n := tCell o
  let spp := mSpp (d.mRate o)
  let nch := d.mNch o
  let p := tPeriod o
  let d := d.encBegin t i
  if !d.mArgOk o 1 then d.argErr o
  else
    let io := (d.inputs o).getD 0 (0, 0, 0)
    let its := (List.range p).map (d.staged n io)
    let d := d.codecBadOps o (fun d ch => d.setEncCh t ch { d.encCh t ch with cnt := bump (d.encCh t ch).cnt 1 })
    let d := (List.range nch).foldl (fun d c =>
      let r := d.encCh t c
      if !r.isOpen then d
      else
        let x := its.zipIdx.foldl (fun (a : EncRt × List (List MWord)) y =>
          let ss := (List.range spp).map (fun f => itemSmp y.1 1 (f * nch + c))
          let idle := bit (itemHdr y.1) rIdle
          let xs := ss.map (fun (s : Smp) => if s.poison || bit s.rs 0 || idle then 0 else s.v)
          let z := a.1.stroke spp (i.rel + y.2 - p) xs idle (ss.any Smp.poison) (passRs (hReason (itemHdr y.1)))
          (z.1, a.2 ++ z.2.toList)) (r, [])
        (d.setEncCh t c x.1).kPut n o c (x.2.take 1)) d
    let d := (List.range nch).foldl (fun d c =>
      let r := d.encCh t c
      let r := { r with seq := seqNext r.seq }
      (d.setEncCh t c r).mPutStat o c r.seq (r.cnt.getD 1 0).toNat (r.cnt.getD 2 0).toNat) d
    d.kRet n 0

/-! ### Control items (R322) -/

/-- A control item for a channel of a DEC task (R322). -/
def Dev.decCtl (d : Dev) (t : Nat) (i : Inst) (ch : Nat) (poison isOpen prm : Bool) (f : DecRt → Option DecRt) : Dev :=
  let o := i.bits
  let d := d.decBegin t i
  if d.mNch o ≤ ch then d.hdrCount o 1 0
  else
    let r := d.decCh t ch
    match (if poison ∨ (r.st = .closed ∧ !isOpen) then none else f r) with
    | none => d.setDecCh t ch { r with cnt := bump r.cnt 4 }
    | some r' =>
      let d := d.setDecCh t ch { r' with cnt := bump r'.cnt 5 }
      if prm then d.mPutRec o ch r'.r0 r'.r1 else d

/-- A control item for a channel of an ENC task (R322). -/
def Dev.encCtl (d : Dev) (t : Nat) (i : Inst) (ch : Nat) (poison isOpen prm : Bool) (f : EncRt → Option EncRt) : Dev :=
  let o := i.bits
  let d := d.encBegin t i
  if d.mNch o ≤ ch then d.hdrCount o 1 0
  else
    let r := d.encCh t ch
    match (if poison ∨ (!r.isOpen ∧ !isOpen) then none else f r) with
    | none => d.setEncCh t ch { r with cnt := bump r.cnt 1 }
    | some r' =>
      let d := d.setEncCh t ch { r' with cnt := bump r'.cnt 2 }
      if prm then d.mPutRec o ch (r'.next.getD r'.r0) 0 else d

/-- A control item for a codec task, by its KIND. -/
def Dev.codecCtl (d : Dev) (t ch : Nat) (poison isOpen prm : Bool) (f : Nat → DecRt → Option DecRt) (g : Nat → EncRt → Option EncRt) : Dev :=
  match d.kInst t with
  | none => d
  | some i =>
    if d.mArgOk i.bits 0 then d.decCtl t i ch poison isOpen prm (f i.bits)
    else if d.mArgOk i.bits 1 then d.encCtl t i ch poison isOpen prm (g i.bits)
    else d

/-- The record of a decoder item, from words 2 and 3. -/
def Dev.decParam (d : Dev) (o : Nat) (ps : List W72) : Option (W72 × W72) :=
  match ps with
  | r0 :: r1 :: _ => if decRecOk (d.mMask o) (d.mRate o) r0.toNat r1.toNat then some (r0, r1) else none
  | _ => none

/-- The record of an encoder item for channel `ch`, from words 2 and 3; word 3 is Reserved. -/
def Dev.encParam (d : Dev) (o ch : Nat) (ps : List W72) : Option W72 :=
  match ps with
  | r0 :: _ :: _ =>
    let sw := qSlotWords (d.objD S.QUEUES (((d.outputs o).getD ch (0, 0, 0)).1))
    if encRecOk (d.mMask o) (d.mRate o) (tPeriod o) sw r0.toNat then some r0 else none
  | _ => none

/-- Codec OP 1 (R322). -/
def execCodecOpen (w : When) (task ch : Nat) (poison : Bool) (params : List W72) (s : State) : Out :=
  s.runMain w (fun d => d.codecCtl task ch poison true true
    (fun o r => (d.decParam o params).map (fun p => ({ r with r0 := p.1, r1 := p.2 } : DecRt).opened))
    (fun o r => (d.encParam o ch params).map (fun p => ({ r with r0 := p, next := none } : EncRt).opened)))

/-- Codec OP 2 (R322). -/
def execCodecClose (w : When) (task ch : Nat) (poison : Bool) (s : State) : Out :=
  s.runMain w (·.codecCtl task ch poison false false (fun _ r => some { r.opened with st := .closed }) (fun _ r => some { r.opened with isOpen := false }))

/-- SET of an encoder record: it waits for the channel's next window start (R322, R356), where none is open as well. -/
def EncRt.setRec (r : EncRt) (p : W72) : EncRt := { r with next := some p }

/-- Codec OP 3 (R322). -/
def execCodecSet (w : When) (task ch : Nat) (poison : Bool) (params : List W72) (s : State) : Out :=
  s.runMain w (fun d => d.codecCtl task ch poison false true
    (fun o r => (d.decParam o params).map (fun p => { r with r0 := p.1, r1 := p.2 }))
    (fun o r => (d.encParam o ch params).map r.setRec))

/-- Codec OP 4 (R322). -/
def execCodecReset (w : When) (task ch : Nat) (poison : Bool) (s : State) : Out :=
  s.runMain w (·.codecCtl task ch poison false false (fun _ r => some r.opened) (fun _ r => some r.opened))

end Sys2Proof.Machine
end

