-- ==== Sys2Proof/Machine/Mix.lean ====
section
/-! DEFINITION. Conference and matrix mixing (R350 to R354) with their control items (R322), and the return of a kernel with what it has done (R259). -/

namespace Sys2Proof.Machine

/-! ### What the mixers share -/

/-- The PCM inputs of a mixing task: all but the last, which brings control items (R318). -/
def Dev.mPcmIns (d : Dev) (o : Nat) : List (Nat × Nat × Nat) := (d.inputs o).dropLast

/-- The members of the PCM items of a queue (log entry 39). -/
def Dev.members (d : Dev) (q : Nat) : Nat := Config.members d.bank.hash q

/-- The payload words of a PCM item of a queue at a RATE. -/
def Dev.mLen (d : Dev) (spp q : Nat) : Nat := ceilDiv (spp * d.members q) 3 % 256

/-- The samples of a member in one stroke's item of a PCM input, with the reasons of their marks that pass on: those of an idle item or a word with PRIME count as
zero; the answer says whether a word that holds them is tagged POISON, and which samples count for the level (R237, R353). -/
def mixIn (it : List MWord) (spp m mem : Nat) : List Smp × Bool × List Int :=
  let ss := (List.range spp).map (fun f => itemSmp it 1 (f * m + mem))
  (ss.map (fun (s : Smp) => { v := if bit (itemHdr it) rIdle || bit s.rs 0 then 0 else s.v, rs := passRs s.rs }), ss.any (fun (s : Smp) => s.poison),
    if bit (itemHdr it) rIdle then [] else (ss.filter (fun (s : Smp) => !bit s.rs 0)).map Smp.v)

/-- What one stroke of a mixing task forms: whether every input item was idle, for each port the reasons that its item's header carries on, and for each port, frame
and member the sample. -/
structure MixOut where
  idle : Bool
  hdr : Nat → Nat
  smp : Nat → Nat → Nat → Smp

/-- POISON words of an item's payload. -/
def poisonWords (it : List MWord) : Nat := ((itemBody it).filter wPoison).length

/-- A value reduced by R234 with shift 20: rounded, saturated, and whether it saturated. -/
def red20 (x : Int) : Int × Bool := satLane (roundEven x (2 ^ 20))

/-- The items of output port `p`, one a stroke: the samples, the reasons passed on, and REASON.IDLE where every input of the stroke was idle (R237, R353). -/
def Dev.mixPort (d : Dev) (spp q p : Nat) (strokes : List MixOut) : List (List MWord) :=
  strokes.map (fun x =>
    let it := itemMapHdr (fun h => h ||| x.hdr p * 2 ^ 48) ((smpItems spp (d.members q) (x.smp p)).headD [])
    if x.idle then itemMapHdr (fun h => setBit h rIdle) it else it)

/-- Control items whose OP is none of the task's are rejected (R322). -/
def Dev.mixBadOps (d : Dev) (o : Nat) (ops : List Nat) (rej : Dev → Nat → Dev) : Dev :=
  d.each (d.badOps (tCell o) ((d.inputs o).getLastD (0, 0, 0)) ops) (fun d ch => if d.mNch o ≤ ch then d.hdrCount o 1 0 else rej d ch)

/-- Every output port drains idle items of zero samples while the argument block is invalid (R320). -/
def Dev.mixIdle (d : Dev) (o : Nat) : Dev :=
  let spp := mSpp (d.mRate o)
  (d.outputs o).zipIdx.foldl (fun d x => d.kPut (tCell o) o x.2 (idleItems (tPeriod o) (d.mLen spp x.1.1))) (d.argErr o)

/-! ### Conferences (R350 to R353) -/

/-- CONF of a leg record. -/
def LegRt.conf (l : LegRt) : Nat := bits l.r0.toNat 0 10
/-- STATE -/
def LegRt.state (l : LegRt) : Nat := if l.live then bits l.r0.toNat 38 2 else 0
/-- G_IN -/
def LegRt.gIn (l : LegRt) : Nat := bits l.r1.toNat 0 23
/-- G_OUT -/
def LegRt.gOut (l : LegRt) : Nat := bits l.r1.toNat 24 23

/-- The conference task `t`. -/
def Dev.conf (d : Dev) (t : Nat) : ConfRt := kvD d.kern.conf t {}

/-- The conference task is replaced. -/
def Dev.setConf (d : Dev) (t : Nat) (c : ConfRt) : Dev := { d with kern := { d.kern with conf := kvSet t c d.kern.conf } }

/-- A conference record; the defaults of R350 where none is set: NSPK 3, SPK_MIN 50, HYST 3, HOLD 100. -/
def ConfRt.rcd (c : ConfRt) (k : Nat) : Nat := (kvD c.recs k (BitVec.ofNat 24 (3 + 50 * 16 + 3 * 2048 + 100 * 32768))).toNat

/-- CMD_REJ (0) or CMD_OK (1) of record `k` counts: an item that names a leg counts in the leg's record, one that names a conference in the record of that number (log
entry 139). -/
def ConfRt.count (c : ConfRt) (k which : Nat) : ConfRt := { c with legCnt := kvUpd [0, 0] k (fun l => bump l which) c.legCnt }

/-- A conference record is within R350. -/
def confRecOk (r : Nat) : Bool :=
  inR 1 (bits r 0 4) 8 && inR 20 (bits r 4 7) 70 && decide (bits r 11 4 ≤ 12) && decide (bits r 15 9 ≤ 500)

/-- A leg record is within R350, and its ports are the task's. -/
def Dev.legRecOk (d : Dev) (o r0 : Nat) : Bool :=
  decide (bits r0 0 10 < d.mNch o) && decide (bits r0 10 4 < (d.mPcmIns o).length) &&
    decide (bits r0 14 10 < d.members (((d.mPcmIns o).getD (bits r0 10 4) (0, 0, 0)).1)) &&
    decide (bits r0 24 4 < (d.outputs o).length) &&
    decide (bits r0 28 10 < d.members (((d.outputs o).getD (bits r0 24 4) (0, 0, 0)).1))

/-- The legs of a list, loudest first, ties to the lower number. -/
def loudest (level : Nat → Nat) (l : List Nat) : List Nat :=
  let ins := fun (acc : List Nat) (x : Nat) => acc.takeWhile (fun y => decide (level x ≤ level y)) ++ x :: acc.dropWhile (fun y => decide (level x ≤ level y))
  l.foldl ins []

/-- The talking legs of a conference that are selected at stroke `s` (R351), from those selected before with the stroke of it; `level` is a leg's smoothed power, in
2^-20. -/
def selectTalk (level : Nat → Nat) (places spkMin hyst hold s : Nat) (before : List (Nat × Nat)) (others : List Nat) : List (Nat × Nat) :=
  let young := before.filter (fun (x : Nat × Nat) => decide (s < x.2 + 16 * hold))
  let old := (loudest level ((before.filter (fun (x : Nat × Nat) => !decide (s < x.2 + 16 * hold))).map Prod.fst)).take (places - young.length)
  let cand := (loudest level others).filter (fun x => lvlGe (level x) (2 ^ 20) (-(spkMin : Int)))
  let free := places - young.length - old.length
  let swaps := (old.reverse.zip (cand.drop free)).takeWhile (fun (x : Nat × Nat) => dbAbove (level x.2) (level x.1) hyst)
  let gone := swaps.map Prod.fst
  let new := cand.take free ++ swaps.map Prod.snd
  before.filter (fun (x : Nat × Nat) => young.contains x || (old.contains x.1 && !gone.contains x.1)) ++ new.map (fun x => (x, s))

/-- Speaker selection in a conference task (R351). -/
def ConfRt.select (c : ConfRt) (nch s : Nat) : ConfRt :=
  let level := fun (n : Nat) => (kvD c.legs n {}).pow
  let legs := (List.range nch).foldl (fun (legs : Kv LegRt) k =>
    let r := c.rcd k
    let mine := legs.filter (fun (x : Nat × LegRt) => x.2.conf == k && x.2.live)
    if mine.isEmpty then legs
    else
      let chairs := (mine.filter (fun (x : Nat × LegRt) => x.2.state == 3)).map Prod.fst
      let talk := mine.filter (fun (x : Nat × LegRt) => x.2.state == 2)
      let before := talk.filterMap (fun (x : Nat × LegRt) => x.2.sel.map (fun a => (x.1, a)))
      let others := (talk.filter (fun (x : Nat × LegRt) => x.2.sel.isNone)).map Prod.fst
      let sel := selectTalk level (bits r 0 4 - chairs.length) (bits r 4 7) (bits r 11 4) (bits r 15 9) s before others
      legs.map (fun (x : Nat × LegRt) =>
        if x.2.conf = k ∧ x.2.live then
          (x.1, { x.2 with sel := if chairs.contains x.1 then some (x.2.sel.getD s) else (sel.find? (fun (y : Nat × Nat) => y.1 == x.1)).map Prod.snd })
        else x)) c.legs
  { c with legs := legs }

/-- Weights move one step (R351); a deleted leg that has ramped out is gone. -/
def ConfRt.ramp (c : ConfRt) : ConfRt :=
  { c with legs := (c.legs.map (fun (x : Nat × LegRt) =>
      (x.1, { x.2 with w := if x.2.sel.isSome then min 16 (x.2.w + 1) else x.2.w - 1 }))).filter (fun (x : Nat × LegRt) => x.2.live || 0 < x.2.w) }

/-- The legs that leg `j` hears: the others of its conference that are in the mix (R351, R352). -/
def heard (legs : Kv LegRt) (j : Nat) (l : LegRt) : Kv LegRt :=
  if l.state = 0 then [] else legs.filter (fun (x : Nat × LegRt) => x.2.conf == l.conf && x.1 != j && decide (x.2.w ≠ 0))

/-- What a leg hears in a stroke, one sample a frame (R352), from the samples of the legs that speak; STALE of theirs passes on, CONCEAL does not (R237, R353). -/
def hear (spp : Nat) (legs : Kv LegRt) (xs : Kv (List Smp)) (j : Nat) (l : LegRt) : List Smp :=
  (List.range spp).map (fun f =>
    let smp := fun (n : Nat) => (kvD xs n []).getD f {}
    let a := (heard legs j l).foldl (fun (s : Int) (x : Nat × LegRt) => s + roundEven (x.2.gIn * x.2.w) 16 * (smp x.1).v) 0
    let y := red20 a
    let z := red20 (l.gOut * y.1)
    let stale := (heard legs j l).foldl (fun (r : Nat) (x : Nat × LegRt) => r ||| (smp x.1).rs &&& 32) 0
    { v := z.1, rs := stale ||| (if y.2 || z.2 then rsOvf else 0) })

/-- The weight of a sample where a power is smoothed with a time constant of 20 ms, in 2^-32: 1 - exp(-1/n), or its first term 1/n, for the n = 160 `spp` samples of
20 ms, or what lies between (R351; log entry 37). -/
def legAlpha (spp : Nat) : Nat :=
  let n := 160 * max 1 spp
  clampNat (2 ^ 32 * (2 * n - 1) / (2 * n * n)) (2 ^ 32 / n) (Config.legAlpha spp)

/-- A leg's power is smoothed over the samples of a stroke that count: those silenced by PRIME or IDLE, and a stroke with POISON, leave it (R351, R353). -/
def LegRt.hearSelf (l : LegRt) (spp : Nat) (x : List Smp × Bool × List Int) : LegRt :=
  if x.2.1 then l
  else { l with pow := x.2.2.foldl (fun p v => (p * (2 ^ 32 - legAlpha spp) + v.natAbs * v.natAbs * 2 ^ 20 * legAlpha spp) / 2 ^ 32) l.pow }

/-- One stroke of a conference task: POISON words are counted, and each leg's samples and POISON, then what each leg hears. -/
def Dev.confStroke (d : Dev) (o spp nch s : Nat) (c : ConfRt) (its : List (List MWord)) : ConfRt × MixOut :=
  let c := (if s % 16 = 0 then c.select nch s else c).ramp
  let ins := d.mPcmIns o
  let inp := c.legs.map (fun (x : Nat × LegRt) =>
    let p := bits x.2.r0.toNat 10 4
    (x.1, mixIn (its.getD p []) spp (d.members ((ins.getD p (0, 0, 0)).1)) (bits x.2.r0.toNat 14 10)))
  let c := { c with legs := c.legs.map (fun (x : Nat × LegRt) => (x.1, x.2.hearSelf spp (kvD inp x.1 ([], true, [])))) }
  let c := { c with poisonIn := c.poisonIn + BitVec.ofNat 16 (its.map poisonWords).sum }
  let speak : Kv (List Smp) := inp.filterMap (fun (x : Nat × (List Smp × Bool × List Int)) => if x.2.2.1 then none else some (x.1, x.2.1))
  let live := c.legs.filter (fun (x : Nat × LegRt) => x.2.live)
  let outs : List ((Nat × Nat) × List Smp) := live.map (fun (x : Nat × LegRt) =>
    ((bits x.2.r0.toNat 24 4, bits x.2.r0.toNat 28 10), hear spp c.legs speak x.1 x.2))
  let stale := fun (x : Nat × LegRt) => (kvGet x.1 speak).isSome && bit (itemHdr (its.getD (bits x.2.r0.toNat 10 4) [])) rStale
  (c, {
    idle := its.all (fun it => bit (itemHdr it) rIdle)
    hdr := fun port => if live.any (fun (x : Nat × LegRt) => bits x.2.r0.toNat 24 4 == port && (heard c.legs x.1 x.2).any stale) then 32 else 0
    smp := fun port fr mem => ((outs.find? (fun x => x.1.1 == port && x.1.2 == mem)).map (fun x => x.2.getD fr {})).getD {} })

/-- An instance with FIRST_RUN takes up the leg records of its window that are not OFF (R321). -/
def Dev.confBegin (d : Dev) (t : Nat) (i : Inst) : Dev :=
  let (new, d) := d.kBegin t i
  if !new ∨ !d.mArgOk i.bits 2 then d
  else
    let o := i.bits
    let legs : Kv LegRt := (List.range (d.mLegs o)).filterMap (fun n =>
      let r0 := d.argWord (d.mAddr o n)
      let r1 := d.argWord (d.mAddr o n + 1)
      if d.legRecOk o r0 ∧ bits r0 38 2 ≠ 0 then some (n, { r0 := BitVec.ofNat 72 r0, r1 := BitVec.ofNat 72 r1 }) else none)
    let d' := d.each (List.range (d.mLegs o)) (fun d n => d.resSeen (d.mAddr o n) 3)
    (d'.setConf t { d.conf t with legs := legs, seq := d.mSeq o 0 }).hdrSet o 0 0 1 0

/-- A CONF instance (R319, R350 to R353). -/
def Dev.confRun (d : Dev) (t : Nat) (i : Inst) : Dev :=
  let o := i.bits
  let n := tCell o
  let spp := mSpp (d.mRate o)
  let nch := d.mNch o
  let p := tPeriod o
  let d := d.confBegin t i
  if !d.mArgOk o 2 then d.mixIdle o
  else
    let d := d.mixBadOps o [1, 2, 3, 5] (fun d ch => d.setConf t ((d.conf t).count ch 0))
    let x := (List.range p).foldl (fun (a : ConfRt × List MixOut) k =>
      let its := (d.mPcmIns o).map (fun io => d.staged n io k)
      let (c, out) := d.confStroke o spp nch (i.rel + k - p) a.1 its
      (c, a.2 ++ [out])) (d.conf t, [])
    let d := (d.outputs o).zipIdx.foldl (fun d y => d.kPut n o y.2 (d.mixPort spp y.1.1 y.2 x.2)) d
    let c := { x.1 with seq := seqNext x.1.seq }
    let d := (List.range (d.mLegs o)).foldl (fun d k =>
      let q := kvD c.legCnt k [0, 0]
      d.mPutStat o k c.seq (q.getD 0 0).toNat (q.getD 1 0).toNat) (d.setConf t c)
    d.kRet n 0

/-! ### The matrix (R354) -/

/-- The matrix task `t`. -/
def Dev.mat (d : Dev) (t : Nat) : MatRt := kvD d.kern.mat t {}

/-- The matrix task is replaced. -/
def Dev.setMat (d : Dev) (t : Nat) (m : MatRt) : Dev := { d with kern := { d.kern with mat := kvSet t m d.kern.mat } }

/-- A gain after `n` strokes of its move, in 2^-20. -/
def GainRt.at (g : GainRt) (n : Nat) : Frac := g.old.add (((fInt g.new).sub g.old).mul (mkFrac (min n 16) 16))

/-- The port and member of each member of a list of ports, numbered on from the first. -/
def Dev.portMembers (d : Dev) (ports : List (Nat × Nat × Nat)) : List (Nat × Nat) :=
  ports.zipIdx.flatMap (fun x => (List.range (d.members x.1.1)).map (fun m => (x.2, m)))

/-- The sources of a matrix task, at most 64. -/
def Dev.matSrcs (d : Dev) (o : Nat) : List (Nat × Nat) := (d.portMembers (d.mPcmIns o)).take 64

/-- The members that a matrix task forms. -/
def Dev.matOuts (d : Dev) (o : Nat) : List (Nat × Nat) := (d.portMembers (d.outputs o)).take (d.mNch o)

/-- One stroke of a matrix task: every gain makes a step of its move, and each output member is the sum over the sources (R354), CONCEAL and STALE of which pass
to it (R237; log entry 121). -/
def Dev.matStroke (d : Dev) (o spp : Nat) (m : MatRt) (its : List (List MWord)) : MatRt × MixOut :=
  let ins := d.mPcmIns o
  let m := { m with gains := m.gains.map (fun (x : Nat × GainRt) => (x.1, { x.2 with step := min 16 (x.2.step + 1) })) }
  let xs := (d.matSrcs o).map (fun s =>
    let y := mixIn (its.getD s.1 []) spp (d.members ((ins.getD s.1 (0, 0, 0)).1)) s.2
    (s.1, if y.2.1 then List.replicate spp {} else y.1))
  let parts := fun (out : Nat) => xs.zipIdx.filterMap (fun x => (kvGet (64 * out + x.2) m.gains).map (fun g => (g, x.1)))
  let one := fun (out fr : Nat) =>
    let sum := (parts out).foldl (fun (a : Frac) x => a.add ((x.1.at x.1.step).mul (fInt (x.2.2.getD fr {}).v))) (fInt 0)
    let y := satLane (roundEven sum.num (sum.den * 2 ^ 20))
    ({ v := y.1, rs := (parts out).foldl (fun (r : Nat) x => r ||| (x.2.2.getD fr {}).rs) (if y.2 then rsOvf else 0) } : Smp)
  let outs := d.matOuts o
  (m, {
    idle := its.all (fun it => bit (itemHdr it) rIdle)
    hdr := fun port => outs.zipIdx.foldl (fun (r : Nat) x =>
      if x.1.1 == port then (parts x.2).foldl (fun (r : Nat) y => r ||| passRs (hReason (itemHdr (its.getD y.2.1 [])))) r else r) 0
    smp := fun port fr mem => match outs.findIdx? (fun x => x == (port, mem)) with
      | some k => one k fr
      | none => {} })

/-- An instance with FIRST_RUN takes up its status record (R321). -/
def Dev.matBegin (d : Dev) (t : Nat) (i : Inst) : Dev :=
  let (new, d) := d.kBegin t i
  if !new ∨ !d.mArgOk i.bits 3 then d
  else ((d.resSeen (d.mAddr i.bits 0) 3).setMat t { d.mat t with seq := d.mSeq i.bits 0 }).hdrSet i.bits 0 0 1 0

/-- A MATRIX instance (R319, R354). -/
def Dev.matRun (d : Dev) (t : Nat) (i : Inst) : Dev :=
  let o := i.bits
  let n := tCell o
  let spp := mSpp (d.mRate o)
  let d := d.matBegin t i
  if !d.mArgOk o 3 then d.mixIdle o
  else
    let d := d.mixBadOps o [3] (fun d ch => d.setMat t { d.mat t with cnt := kvUpd [0, 0] ch (fun l => bump l 0) (d.mat t).cnt })
    let x := (List.range (tPeriod o)).foldl (fun (a : MatRt × List MixOut) k =>
      let (m, out) := d.matStroke o spp a.1 ((d.mPcmIns o).map (fun io => d.staged n io k))
      (m, a.2 ++ [out])) (d.mat t, [])
    let d := (d.outputs o).zipIdx.foldl (fun d y => d.kPut n o y.2 (d.mixPort spp y.1.1 y.2 x.2)) d
    let m := { x.1 with seq := seqNext x.1.seq }
    let d := (List.range (d.mNch o)).foldl (fun d k =>
      let q := kvD m.cnt k [0, 0]
      d.mPutStat o k m.seq (q.getD 0 0).toNat (q.getD 1 0).toNat) (d.setMat t m)
    d.kRet n 0

/-! ### Control items (R322) -/

/-- A control item for a leg (R322): `f` gives what it makes of the leg that stands, or refuses it. -/
def Dev.legCtl (d : Dev) (t leg ch : Nat) (poison : Bool) (f : Dev → Nat → Option LegRt → Option LegRt) : Dev :=
  match d.kInst t with
  | none => d
  | some i =>
    let o := i.bits
    let d := d.confBegin t i
    if !d.mArgOk o 2 then d
    else if ch ≠ 0 ∨ d.mLegs o ≤ leg then d.hdrCount o 1 0
    else
      let c := d.conf t
      let old := kvGet leg c.legs
      match (if poison then none else f d o old) with
      | none => d.setConf t (c.count leg 0)
      | some l =>
        let d := d.setConf t { c.count leg 1 with legs := kvSet leg l c.legs }
        if l.live then d.mPutRec o leg l.r0 l.r1 else (d.resZero (d.mAddr o leg) 2)

/-- The leg record of an item, from words 2 and 3, bits without a field zero (R9). -/
def Dev.legParam (d : Dev) (o : Nat) (ps : List W72) : Option (W72 × W72) :=
  match ps with
  | r0 :: r1 :: _ =>
    if d.legRecOk o r0.toNat then
      some (BitVec.ofNat 72 (r0.toNat % 2 ^ 40), BitVec.ofNat 72 (setBits (r1.toNat % 2 ^ 47) 23 1 0))
    else none
  | _ => none

/-- A leg takes a record; one that becomes LISTEN or OFF is no longer selected and ramps out (R351). -/
def LegRt.take (l : LegRt) (p : W72 × W72) : LegRt :=
  let l := { l with r0 := p.1, r1 := p.2, live := true }
  if l.state < 2 then { l with sel := none } else l

/-- Codec OP 1 of a CONF task, LEG_ADD (R322). -/
def execLegAdd (w : When) (task leg ch : Nat) (poison : Bool) (params : List W72) (s : State) : Out :=
  s.runMain w (·.legCtl task leg ch poison (fun d o old => (d.legParam o params).map (fun p => { (old.getD {}) with sel := none }.take p)))

/-- Codec OP 2 of a CONF task, LEG_DEL (R322, R351). -/
def execLegDel (w : When) (task leg ch : Nat) (poison : Bool) (s : State) : Out :=
  s.runMain w (·.legCtl task leg ch poison (fun _ _ old => match old with
    | some l => if l.live then some { l with live := false, sel := none } else none
    | none => none))

/-- Codec OP 3 of a CONF task, LEG_SET (R322, R351). -/
def execLegSet (w : When) (task leg ch : Nat) (poison : Bool) (params : List W72) (s : State) : Out :=
  s.runMain w (·.legCtl task leg ch poison (fun d o old => match old with
    | some l => if l.live then (d.legParam o params).map l.take else none
    | none => none))

/-- Codec OP 5 of a CONF task, CONF_SET (R322, R350). -/
def Dev.confSet (d : Dev) (t ch : Nat) (poison : Bool) (ps : List W72) : Dev :=
  match d.kInst t with
  | none => d
  | some i =>
    let o := i.bits
    let d := d.confBegin t i
    if !d.mArgOk o 2 then d
    else if d.mNch o ≤ ch then d.hdrCount o 1 0
    else
      let c := d.conf t
      match ps with
      | [] => d.setConf t (c.count ch 0)
      | r :: _ =>
        if poison || !confRecOk r.toNat then d.setConf t (c.count ch 0)
        else d.setConf t { c.count ch 1 with recs := kvSet ch (BitVec.ofNat 24 r.toNat) c.recs }

/-- Codec OP 5 of a CONF task (R322). -/
def execConfSet (w : When) (task ch : Nat) (poison : Bool) (params : List W72) (s : State) : Out :=
  s.runMain w (·.confSet task ch poison params)

/-- Codec OP 3 of a MATRIX task, GAIN (R322, R354). -/
def Dev.matGain (d : Dev) (t ch : Nat) (poison : Bool) (ps : List W72) : Dev :=
  match d.kInst t with
  | none => d
  | some i =>
    let o := i.bits
    let d := d.matBegin t i
    if !d.mArgOk o 3 then d
    else if d.mNch o ≤ ch then d.hdrCount o 1 0
    else
      let m := d.mat t
      let count := fun (k : Nat) => kvUpd [0, 0] ch (fun l => bump l k) m.cnt
      let r := (ps.headD 0).toNat
      if poison || ps.isEmpty || decide ((d.matSrcs o).length ≤ bits r 0 6) then d.setMat t { m with cnt := count 0 }
      else
        let g := kvD m.gains (64 * ch + bits r 0 6) {}
        let g' : GainRt := { old := g.at g.step, new := signedOf 24 (bits r 6 24), step := 0 }
        d.setMat t { m with cnt := count 1, gains := kvSet (64 * ch + bits r 0 6) g' m.gains }

/-- Codec OP 3 of a MATRIX task (R322). -/
def execMatrixGain (w : When) (task ch : Nat) (poison : Bool) (params : List W72) (s : State) : Out :=
  s.runMain w (·.matGain task ch poison params)

/-! ### The return of a kernel (R259) -/

/-- The work of a Verraolo kernel: it reads its parameter words and its staged items, with their errors (R90, R246), and does what its kind does. -/
def Dev.kernelDoes (d : Dev) (i : Inst) (f : Dev → Dev) : Dev :=
  let o := i.bits
  f ((d.resReadN (tArg o + 3 + d.nIn o + d.nOut o) (d.argWords o)).2.kScan (tCell o) o)

/-- What a Verraolo kernel has done by its return. -/
def Dev.kernelWork (d : Dev) (t : Nat) (i : Inst) : KernelWork → Dev
  | .plain => d
  | .ec => d.kernelDoes i (·.ecRun t i)
  | .dec => d.kernelDoes i (·.decRun t i)
  | .enc => d.kernelDoes i (·.encRun t i)
  | .conf => d.kernelDoes i (·.confRun t i)
  | .matrix => d.kernelDoes i (·.matRun t i)

/-- What a Verraolo kernel has done where its instance stops after `done` of its channels (R308, R333). An encoder or a mixer has advanced nothing. -/
def Dev.kernelPart (d : Dev) (t : Nat) (i : Inst) (done : Nat) : KernelWork → Dev
  | .ec => d.kernelDoes i (·.ecPart t i done)
  | .dec => d.kernelDoes i (·.decPart t i done)
  | _ => d

/-- An instance in STOPPING ends on a cell, its kernel having done this much. -/
def Dev.stopAfter (d : Dev) (cell : Nat) (work : KernelWork) (done : Nat) : Dev :=
  match d.inRun cell with
  | none => d
  | some (t, i) => if (d.task t).st == .stopping then d.kernelPart t i done work else d

/-- A checkpoint (R261). -/
def execCheckpoint (w : When) (cell : Nat) (work : KernelWork) (done : Nat) (s : State) : Out :=
  s.runMain w (fun d => (d.stopAfter cell work done).checkpoint cell)

/-- A forced stop (R262). -/
def execCpForced (w : When) (cell : Nat) (work : KernelWork) (done : Nat) (s : State) : Out :=
  s.runMain w (fun d => (d.stopAfter cell work done).cpForced cell)

/-- The kernel on a cell returns (R259, R261, R263). -/
def execKernelReturn (w : When) (cell : Nat) (work : KernelWork) (s : State) : Out :=
  s.runMain w (fun d => match d.inRun cell with
    | none => d
    | some (t, i) => (d.kernelWork t i work).kernelRet cell)

end Sys2Proof.Machine
end

