-- ==== Sys2Proof/Machine/ToneArith.lean ====
section
/-! DEFINITION. The measurements of the tone detectors (R339 to R342): decimation to 8 kHz, the Hann window, frequency, level and share of a tone, the phase steps and
the modulation of an answer tone. Where the spec gives limits and no method, the method is the model's: DEDUCED (unsafe, log entry 85), and what the limits leave open
is free within them. -/

namespace Sys2Proof.Machine

/-! ### Sine and cosine -/

/-- π in 2^-60. -/
def pi60 : Nat := 3622009729038561421

/-- Terms of a Taylor series in 2^-60 from `t`, each the one before times -`y` / (m (m + 1)), with m going up by 2. -/
def taylor (y : Int) : Nat → Nat → Int → Int
  | 0, _, _ => 0
  | k + 1, m, t => t + taylor y k (m + 2) (-(roundEven (t * y) (2 ^ 60 * (m * (m + 1)))))

/-- The cosine of `n` / `d` of a turn, in 2^-30. -/
def cosT (n d : Nat) : Int :=
  let r := n % max 1 d
  let x : Int := if 2 * r ≤ d then r else (r : Int) - d
  let a := roundEven (2 * x * pi60) (max 1 d)
  roundEven (taylor (roundEven (a * a) (2 ^ 60)) 24 1 (2 ^ 60)) (2 ^ 30)

/-- The sine of `n` / `d` of a turn, in 2^-30. -/
def sinT (n d : Nat) : Int := cosT (4 * n + 3 * d) (4 * d)

/-! ### Decimation (R339) -/

/-- A windowed sinc of `n` + 1 taps in 2^-30 that cuts at 4 kHz of `fs`, with the four-term window of Blackman and Harris. -/
def sincTaps (fs n : Nat) : List Int :=
  (List.range (n + 1)).map (fun (k : Nat) =>
    let m : Int := 2 * (k : Int) - n
    let w := 35875 * 2 ^ 30 - 48829 * cosT k n + 14128 * cosT (2 * k) n - 1168 * cosT (3 * k) n
    let s := if m = 0 then roundEven (8000 * 2 ^ 30) fs
      else roundEven (sinT (4000 * m.natAbs) (2 * fs) * 2 ^ 60 * 2) (pi60 * m.natAbs)
    roundEven (w * s) (100000 * 2 ^ 30))

/-- The power of the response of taps in 2^-30 at `f` Hz, in 2^-120. -/
def tapPow (fs : Nat) (taps : List Int) (f : Nat) : Nat :=
  let r := taps.zipIdx.foldl (fun (a : Int × Int) x => (a.1 + x.1 * cosT (f * x.2) fs, a.2 + x.1 * sinT (f * x.2) fs)) (0, 0)
  (r.1 * r.1 + r.2 * r.2).natAbs

/-- A power in 2^-120 lies within half a decibel of 1. -/
def nearUnity (x : Nat) : Bool := decide (x ^ 20 ≤ 10 * 2 ^ 2400 ∧ 2 ^ 2400 ≤ x ^ 20 * 10)

/-- Taps have a passband to 3.6 kHz, within 0.5 dB, and a stopband from 4.4 kHz at -80 dB, on every 50 Hz. -/
def decimOk (fs : Nat) (taps : List Int) : Bool :=
  (List.range 73).all (fun k => nearUnity (tapPow fs taps (50 * k))) &&
    (List.range (fs / 100 - 87)).all (fun k => decide (tapPow fs taps (4400 + 50 * k) * 10 ^ 8 ≤ 2 ^ 120))

/-- The taps of the fixed filter at a RATE, in 2^-30: any that meet R339. -/
def decimTaps (rate : Nat) : List Int :=
  let fs := 8000 * [1, 2, 6].getD rate 1
  if decimOk fs (Config.toneTaps rate) then Config.toneTaps rate else sincTaps fs (160 * [1, 1, 3].getD rate 1)

/-- Every `n`-th of a list, from its first. -/
def everyNth (n : Nat) (l : List Int) : List Int := (List.range (ceilDiv l.length (max 1 n))).map (fun k => l.getD (k * n) 0)

/-- Samples at 8 kHz, newest first, out of those at RATE (R339). -/
def toneDecim (rate : Nat) (xs : List Int) : List Int :=
  if rate = 0 then xs
  else
    let taps := decimTaps rate
    let n := [1, 2, 6].getD rate 1
    (List.range (xs.length / n)).map (fun k =>
      roundEven (((taps.zip (xs.drop (k * n))).map (fun p => p.1 * p.2)).foldl (· + ·) 0) (2 ^ 30))

/-! ### A tone in a window (R340, R341) -/

/-- Weight `k` of a Hann window of `n` samples, in 2^-30. -/
def hann (n k : Nat) : Int := roundEven (2 ^ 30 - cosT k n) 2

/-- The samples of an evaluation under their Hann window, in 2^-30 (R340). -/
def hannWin (xs : List Int) : List Int := xs.zipIdx.map (fun x => x.1 * hann xs.length x.2)

/-- The power of windowed samples at `f` / 100 Hz of `fs`, in 2^-120. -/
def tonePow (fs : Nat) (ws : List Int) (f : Nat) : Nat :=
  let r := ws.zipIdx.foldl (fun (a : Int × Int) x => (a.1 + x.1 * cosT (f * x.2) (100 * fs), a.2 + x.1 * sinT (f * x.2) (100 * fs))) (0, 0)
  (r.1 * r.1 + r.2 * r.2).natAbs

/-- Of `lo`, `lo` + `st`, … (`n` of them) the frequency with the greatest power, the lowest on a tie. -/
def tonePeak (fs : Nat) (ws : List Int) (lo st n : Nat) : Nat :=
  ((List.range n).foldl (fun (b : Nat × Nat) k =>
    let p := tonePow fs ws (lo + st * k)
    if b.2 < p then (lo + st * k, p) else b) (lo, tonePow fs ws lo)).1

/-- The frequency of a tone between `lo` and `hi`, in 1/100 Hz: where the windowed samples have their greatest power. -/
def toneFreq (fs : Nat) (ws : List Int) (lo hi : Nat) : Nat :=
  let c := tonePeak fs ws lo 500 ((hi - lo) / 500 + 1)
  tonePeak fs ws (c - 500) 1 1001

/-- 1000 log10 of `a` / `b` to the nearest, found between `lo` and `hi`. -/
def dbFind (a b : Nat) : Nat → Int → Int → Int
  | 0, lo, _ => lo
  | k + 1, lo, hi =>
    let m := (lo + hi) / 2
    let q := 2 * m - 1
    if (if 0 ≤ q then decide (b * 10 ^ q.toNat ≤ a) else decide (b ≤ a * 10 ^ (-q).toNat)) then dbFind a b k m hi else dbFind a b k lo m

/-- The level of the tone at `f`, in 1/100 dB below full scale, where there is one: its amplitude is twice that of the windowed sum over the sum of the window. -/
def toneDbfs (fs : Nat) (ws : List Int) (f e : Nat) : Int :=
  let w : Nat := ((List.range ws.length).foldl (fun s k => s + hann ws.length k) 0).natAbs
  let a := 4 * tonePow fs ws f
  let b := (w * 8388607) ^ 2 * 2 ^ 60
  if a = 0 then -20000 else dbFind (a ^ e) (b ^ e) 15 (-20000) 2000

/-- The measured level of a tone (R341): ALIGN in dBFS, the others in dBm0, a sine of full scale being +3.14 dBm0 (R282); accurate to 0.02 dB, or 0.5 dB, and free
within that. -/
def toneLevel (ty fs : Nat) (second : Bool) (xs ws : List Int) (f : Nat) : Int :=
  let l := toneDbfs fs ws f 2000 + (if ty = 5 then 0 else 314)
  let t : Int := if ty = 5 then 2 else 50
  clampInt (l - t) (l + t) (Config.toneLevel ty second xs)

/-- The share of the windowed samples' energy that tones at two frequencies hold, in 1/100 % (R341). -/
def toneShare (fs : Nat) (ws : List Int) (f1 f2 : Nat) : Nat :=
  let h := fun (k : Nat) => (hann ws.length k).natAbs
  let s1 := ((List.range ws.length).map h).sum
  let s2 := ((List.range ws.length).map (fun k => h k * h k)).sum
  10000 * (2 * (tonePow fs ws f1 + tonePow fs ws f2) * s2) / max 1 (s1 * s1 * sqSum ws * 2 ^ 60)

/-! ### Answer tones (R342) -/

/-- The 2,100 Hz component of 40 samples at 8 kHz, newest first, that begin `age` samples back, its phase counted from the newest sample of all: 2^-30. -/
def annPart (xs : List Int) (age : Nat) : Int × Int :=
  ((xs.drop age).take 40).zipIdx.foldl (fun a x => (a.1 + x.1 * cosT (21 * (age + x.2)) 80, a.2 + x.1 * sinT (21 * (age + x.2)) 80)) (0, 0)

/-- The phase steps by 180° ± 25° from the sub-block before the last to the last (R342): the cosine of the step is at most that of 155°, whose square is
0.8213938048. -/
def annReversal (xs : List Int) : Bool :=
  let a := annPart xs 0
  let b := annPart xs 40
  let re := a.1 * b.1 + a.2 * b.2
  let m := (a.1 * a.1 + a.2 * a.2) * (b.1 * b.1 + b.2 * b.2)
  decide (re < 0 ∧ 8213938048 * m ≤ 10 ^ 10 * (re * re))

/-- The amplitudes at 2,100 Hz of the sub-blocks of the last 100 ms, newest first. -/
def annEnv (xs : List Int) : List Int :=
  (List.range 20).map (fun k => let a := annPart xs (40 * k); (Nat.sqrt (a.1 * a.1 + a.2 * a.2).natAbs : Int))

/-- A sinusoid at `f` / 10 Hz and a constant, fitted by least squares to an envelope of 200 values a second: what the sinusoid explains of it, as a fraction, its
squared amplitude, in 2^-60, and 20 times the constant, all over one denominator. -/
def annFit (e : List Int) (f : Nat) : Int × Int × Int × Int :=
  let sum := fun (l : List Int) => l.foldl (· + ·) 0
  let dot := fun (a b : List Int) => sum ((a.zip b).map (fun p => p.1 * p.2))
  let c := (List.range e.length).map (fun k => cosT (f * k) 2000)
  let s := (List.range e.length).map (fun k => sinT (f * k) 2000)
  let ac := fun (l : List Int) => l.map (fun x => (l.length : Int) * x - sum l)
  let cc := dot (ac c) (ac c)
  let ss := dot (ac s) (ac s)
  let cs := dot (ac c) (ac s)
  let p := dot (ac e) (ac c)
  let q := dot (ac e) (ac s)
  let a := p * ss - q * cs
  let b := q * cc - p * cs
  let det := cc * ss - cs * cs
  (p * a + q * b, det, a * a + b * b, sum e * det - (a * sum c + b * sum s))

/-- Amplitude modulation at 15 ± 1 Hz, of a depth of 20 ± 5 % (R342): the rate between 10 and 20 Hz that explains most of the envelope, and the amplitude there over the
constant. -/
def annAm (xs : List Int) : Bool :=
  let e := annEnv xs
  let best := (List.range 101).foldl (fun (b : Nat × Int × Int × Int × Int) k =>
    let x := annFit e (100 + k)
    if b.2.1 * x.2.1 < x.1 * b.2.2.1 then (100 + k, x) else b) (100, annFit e 100)
  let (f, _, _, d2, c) := best
  inR 140 f 160 && decide (0 < c ∧ 15 ^ 2 * (c * c) ≤ 10000 * 400 * 2 ^ 60 * d2 ∧ 10000 * 400 * 2 ^ 60 * d2 ≤ 25 ^ 2 * (c * c))

end Sys2Proof.Machine
end

