-- ==== Sys2Proof/Machine/Tone.lean ====
section
/-! DEFINITION. The tone bank (R336 to R349, R356 to R358): detector runs, reports and state items, generators, and the TONE commands. -/

namespace Sys2Proof.Machine

/-! ### Image bits of a detector slot (R338), a generator slot (R346) and a tone program (R345, R487) -/

/-- RATE of a detector or generator slot -/
def toRate (o : Nat) : Nat := bits o 1 2
/-- IN_Q of a detector slot -/
def tdInQ (o : Nat) : Nat := bits o 3 16
/-- MEMBER -/
def tdMember (o : Nat) : Nat := bits o 19 10
/-- DET_MASK -/
def tdMask (o : Nat) : Nat := bits o 29 5
/-- CP_PROF -/
def tdProf (o : Nat) : Nat := bits o 34 4
/-- REP_Q -/
def tdRepQ (o : Nat) : Nat := bits o 38 16
/-- REP_EN -/
def tdRepEn (o : Nat) : Bool := bit o 54
/-- STATE_GRP -/
def tdGrp (o : Nat) : Nat := bits o 55 10
/-- STATE_POS -/
def tdPos (o : Nat) : Nat := bits o 65 10
/-- STATE_EN -/
def tdStateEn (o : Nat) : Bool := bit o 75
/-- EN_INIT -/
def tdEnInit (o : Nat) : Bool := bit o 76
/-- MODE is ADD -/
def tgAdd (o : Nat) : Bool := bit o 3
/-- IN_Q of a generator slot -/
def tgInQ (o : Nat) : Nat := bits o 4 16
/-- IN_NONE -/
def tgInNone (o : Nat) : Bool := bit o 20
/-- OUT_Q -/
def tgOutQ (o : Nat) : Nat := bits o 21 16
/-- MEMBER -/
def tgMember (o : Nat) : Nat := bits o 37 10

/-- Where tone program `p` of a bank stands, or profile `p` - 256: in the first TONE partition (R487). -/
def Dev.progAddr (d : Dev) (p : Nat) : Option Nat :=
  ((d.bank.sec S.PARTITIONS).find? (fun x => bits x.2 1 4 == 5)).map (fun x => bits x.2 6 36 + 6 * p)

/-- The six words of a tone program. -/
def Dev.progWords (d : Dev) (p : Nat) : List Nat := match d.progAddr p with
  | none => []
  | some a => (List.range 6).map (fun k => d.argWord (a + k))

/-- The bank reads a tone program, with the errors of its words (R90). -/
def Dev.progSeen (d : Dev) (p : Nat) : Dev := match d.progAddr p with
  | none => d
  | some a => d.resSeen a 6

/-- Word `k` of a program. -/
def pgW (g : List Nat) (k : Nat) : Nat := g.getD k 0
/-- NSEG, 0 where the program is unused. -/
def pgNseg (g : List Nat) : Nat := bits (pgW g 0) 63 4
/-- F1, or F2. -/
def pgF (g : List Nat) (second : Bool) : Nat := bits (pgW g 0) (if second then 31 else 0) 19
/-- L1, or L2. -/
def pgL (g : List Nat) (second : Bool) : Int := signedOf 12 (bits (pgW g 0) (if second then 50 else 19) 12)
/-- UNIT is dBFS. -/
def pgFs (g : List Nat) : Bool := bit (pgW g 0) 62
/-- REPS -/
def pgReps (g : List Nat) : Nat := bits (pgW g 1) 0 8
/-- LOOP -/
def pgLoop (g : List Nat) : Bool := bit (pgW g 1) 8
/-- REV -/
def pgRev (g : List Nat) : Nat := bits (pgW g 1) 9 16
/-- AM -/
def pgAm (g : List Nat) : Bool := bit (pgW g 1) 25
/-- The segments, each ON, OFF and SEL. -/
def pgSegs (g : List Nat) : List (Nat × Nat × Nat) :=
  (List.range (pgNseg g)).map (fun k =>
    let x := bits (pgW g (2 + k / 2)) (36 * (k % 2)) 36
    (bits x 0 16, bits x 16 16, bits x 32 2))

/-! ### The tone sample (R347) -/

/-- The fixed point of the tone arithmetic: 2^96 is 1. -/
def fx : Nat := 2 ^ 96

/-- exp of `x` / 2^96, `x` below 3 · 2^96. -/
def expFx (x : Nat) : Nat :=
  ((List.range 80).foldl (fun (a : Nat × Nat) k => let t := a.1 * x / fx / (k + 1); (t, a.2 + t)) (fx, fx)).2

/-- The natural logarithm of 10 and π. -/
def ln10Fx : Nat := 182429585950654714090129938606
/-- π -/
def piFx : Nat := 248902613312231085230521944622

/-- 10 to the power `n` / 32000. -/
def pow10Fx (n : Int) : Nat :=
  let q := n / 32000
  let e := expFx ((n % 32000).toNat * ln10Fx / 32000)
  if q < 0 then e / 10 ^ q.natAbs else e * 10 ^ q.toNat

/-- sin of `x` / 2^96, `x` at most π/2. -/
def sinQFx (x : Nat) : Int :=
  ((List.range 40).foldl (fun (a : Int × Int) k =>
    let t := -(a.1 * (x * x / fx : Nat) / (fx : Int)) / ((2 * k + 2) * (2 * k + 3) : Nat)
    (t, a.2 + t)) ((x : Int), (x : Int))).2

/-- sin of `a` / `b` of a turn. -/
def sinTurn (a b : Nat) : Int :=
  let a := a % max 1 b
  let h := 2 * a % max 1 b
  let h := if b < 2 * h then b - h else h
  let s := sinQFx (piFx * h / max 1 b)
  if b ≤ 2 * a then -s else s

/-- The peak A of a frequency (R347), in 2^-96: L/16 − 3.14 dB for dBm0, L/16 for dBFS. -/
def peakFx (g : List Nat) (second : Bool) : Nat :=
  8388607 * pow10Fx (100 * pgL g second - if pgFs g then 0 else 5024)

/-- Where a program is at sample `n`: none once it has ended; else, in the on-time of a segment, its SEL, the place in it and its length. -/
def pgAt (g : List Nat) (spp n : Nat) : Option (Option (Nat × Nat × Nat)) :=
  let segs := pgSegs g
  let total := (segs.map (fun (x : Nat × Nat × Nat) => x.1 + x.2.1)).sum * spp
  if total = 0 then none
  else if !pgLoop g ∧ pgReps g * total ≤ n then none
  else some ((segs.foldl (fun (a : Nat × Option (Nat × Nat × Nat)) x =>
      let on := x.1 * spp
      let r := if a.1 ≤ n % total ∧ n % total < a.1 + on ∧ x.2.2 ≠ 0 then some (x.2.2, n % total - a.1, on) else a.2
      (a.1 + on + x.2.1 * spp, r)) (0, none)).2)

/-- The raised cosine at `a` / `b` of a ramp, from 0 to 1 in 2^-96 (R347). -/
def raisedCos (a b : Nat) : Nat := ((fx : Int) - sinTurn (2 * min a b + b) (4 * b)).toNat / 2

/-- The factor of a sample `i` of `n` samples with a ramp of 1 ms, or half their length, at each end, each sample taken at its place within its time (R347; log
entry 40). -/
def rampFx (spp i n : Nat) : Nat :=
  let at' := 65536 * i + Config.rampAt.toNat
  raisedCos (2 * min at' (65536 * n - at')) (65536 * min (16 * spp) n)

/-- One sample of a program that sounds (R347), `none` while it is silent, and what follows. Each sample takes an error of at most 1 as a free value (log
entry 40). -/
def Dev.playSample (d : Dev) (p : PlayRt) (spp : Nat) : Dev × PlayRt × Option Int :=
  let next := { p with n := p.n + 1, down := p.down.map (· - 1) }
  match pgAt p.prog spp p.n with
  | none => (d, next, none)
  | some none => (d, next, none)
  | some (some (sel, i, on)) =>
    let rev := if pgRev p.prog = 0 then 0 else p.n / spp / pgRev p.prog % 2 * 2 ^ 31
    let tone := fun (second : Bool) (ph : Word) => (peakFx p.prog second : Int) * sinTurn (ph.toNat + rev) (2 ^ 32)
    let sum := (if bit sel 0 then tone false p.ph1 else 0) + (if bit sel 1 then tone true p.ph2 else 0)
    let m : Int := if pgAm p.prog then 5 * fx + sinTurn (15 * p.n) (8000 * spp) else 5 * fx
    let r := rampFx spp i on
    let q := match p.down with
      | none => fx
      | some k => raisedCos (65536 * k - Config.rampAt.toNat) (65536 * 8 * spp)
    let (e, d) := d.takeFree 24
    let v := roundEven (sum * m * r * q) (5 * fx * fx * fx * fx * fx) + ((e % 3 : Nat) : Int) - 1
    let adv := fun (second : Bool) (ph : Word) =>
      if bit sel (b2n second) then ph + BitVec.ofInt 32 (roundEven ((pgF p.prog second : Int) * 2 ^ 28) (8000 * spp)) else ph
    (d, { next with ph1 := adv false p.ph1, ph2 := adv true p.ph2 }, some v)

/-! ### Generator slots (R347 to R349) -/

/-- A detector slot. -/
def Dev.det (d : Dev) (n : Nat) : DetRt := kvD d.tone.dets n {}

/-- A detector slot is replaced. -/
def Dev.setDet (d : Dev) (n : Nat) (r : DetRt) : Dev := { d with tone := { d.tone with dets := kvSet n r d.tone.dets } }

/-- A generator slot. -/
def Dev.gen (d : Dev) (n : Nat) : GenRt := kvD d.tone.gens n {}

/-- A generator slot is replaced. -/
def Dev.setGen (d : Dev) (n : Nat) (r : GenRt) : Dev := { d with tone := { d.tone with gens := kvSet n r d.tone.gens } }

/-- TONE_CNT counts `n` more. -/
def Dev.toneCnt (d : Dev) (k n : Nat) : Dev := d.count (R.TONE_CNT_COUNT k) n

/-- TONE_LAST names a slot. -/
def Dev.toneLast (d : Dev) (n : Nat) (gen : Bool) : Dev := (d.set R.TONE_LAST_IDX n).set R.TONE_LAST_GEN (b2n gen)

/-- What sounds in a slot ramps down over 1 ms (R349). -/
def GenRt.stop (g : GenRt) (spp : Nat) : GenRt := match g.play with
  | none => g
  | some p => { g with play := none, tails := g.tails ++ [{ p with down := some (8 * spp) }] }

/-- A program starts in a slot (R349), at phases that are free values (log entry 40). -/
def Dev.genBegin (d : Dev) (n spp p : Nat) : Dev :=
  let f := (d.progSeen p).frees 2 32
  f.2.setGen n { (d.gen n).stop spp with
    play := some { prog := d.progWords p, ph1 := BitVec.ofNat 32 (f.1.getD 0 0), ph2 := BitVec.ofNat 32 (f.1.getD 1 0) } }

/-- The program that a trigger starts in slot `n` at sample `k` of `spp` (R349, R197), of the highest unit. -/
def Dev.genTrig (d : Dev) (n spp k : Nat) : Option Nat :=
  ((List.range 64).filterMap (fun u => (d.tim.handed.find? (fun h => h.unit == u && gTarget h.bits == 4 && bits h.bits 32 13 == n &&
    placeAt spp d.org.num (d.actPos h) h.seen == some k)).map (fun h => bits h.bits 45 8))).getLast?

/-- One sample of generator slot `n`: what ends and starts at it, and the sum of what sounds, `none` in silence. -/
def Dev.genSample (d : Dev) (n spp k : Nat) : Dev × Option Int :=
  let g := d.gen n
  let ended := match g.play with
    | none => false
    | some p => (pgAt p.prog spp p.n).isNone
  let d := if ended then ((d.setGen n { g with play := none }).toneCnt 7 1).ev E.TONE_GEN_DONE n else d
  let due := if k = 0 then (d.gen n).due else none
  let d := if k = 0 then d.setGen n { d.gen n with due := none } else d
  let d := match d.genTrig n spp k, due with
    | some p, _ => d.genBegin n spp p
    | none, some (some p) => d.genBegin n spp p
    | none, some none => d.setGen n ((d.gen n).stop spp)
    | none, none => d
  let g := d.gen n
  let (d, ps, v) := (g.tails ++ g.play.toList).foldl (fun (x : Dev × List PlayRt × Option Int) p =>
    let (d, p, y) := x.1.playSample p spp
    (d, x.2.1 ++ [p], match x.2.2, y with
      | a, none => a
      | none, b => b
      | some a, some b => some (a + b))) (d, [], none)
  let tails := (ps.take g.tails.length).filter (fun (p : PlayRt) => p.down != some 0)
  (d.setGen n { d.gen n with tails := tails, play := if g.play.isSome then ps.getLast? else none }, v)

/-- A stroke of generator slot `n`: its samples, `none` where it is silent. -/
def Dev.genStroke (d : Dev) (n o : Nat) : Dev × List (Option Int) :=
  let spp := mSpp (toRate o)
  (List.range spp).foldl (fun (x : Dev × List (Option Int)) k =>
    let (d, v) := x.1.genSample n spp k
    (d, x.2 ++ [v])) (d, [])

/-- The slots of the group of an output queue. -/
def Dev.genGroup (d : Dev) (q : Nat) : Kv Nat := (d.bank.sec S.GEN).filter (fun x => tgOutQ x.2 == q)

/-- The item of a generator's output queue from its base item (R347, R348). -/
def Dev.genItem (d : Dev) (spp m : Nat) (base : List MWord) (slots : List (Nat × Nat × List (Option Int))) : Dev × List MWord :=
  let h := itemHdr base
  let place := fun (d : Dev) (mem fr : Nat) (x : Int) =>
    slots.foldl (fun (a : Dev × Int × Bool × Bool) s =>
      if tgMember s.2.1 ≠ mem then a
      else match s.2.2.getD fr none with
        | none => (a.1, a.2.1, false, a.2.2.2)
        | some v =>
          let y := satLane (if tgAdd s.2.1 then a.2.1 + v else v)
          let d := if y.2 then (((a.1.toneCnt 3 1).set R.TONE_STAT_CLIP 1).toneLast s.1 true).evOnce E.TONE_CLIP 0 s.1 else a.1
          (d, y.1, !tgAdd s.2.1, a.2.2.2 || y.2)) (d, x, false, false)
  let x := (List.range (base.length - 1)).foldl (fun (a : Dev × List MWord × Bool) j =>
    let w := base.getD (1 + j) 0
    let lane := fun (a : Dev × List Int × Bool × Bool) (k : Nat) =>
      let i := 3 * j + k
      let v := sLane (wData w) k
      if spp * m ≤ i then (a.1, a.2.1 ++ [v], a.2.2)
      else
        let y := place a.1 (i % max 1 m) (i / max 1 m) v
        (y.1, a.2.1 ++ [y.2.1], a.2.2.1 && y.2.2.1, a.2.2.2 || y.2.2.2)
    let y := [0, 1, 2].foldl lane (a.1, [], true, false)
    let l := fun (k : Nat) => fieldOf 24 (y.2.1.getD k 0)
    let mark := if y.2.2.2 then true else if y.2.2.1 then false else wMark w
    (y.1, a.2.1 ++ [mkW (packLanes (l 0) (l 1) (l 2)) false false mark (wPoison w)], a.2.2 || y.2.2.2)) (d, [], false)
  let sounds := slots.any (fun s => s.2.2.any Option.isSome)
  let rs := hReason h
  let rs := if sounds then setBits rs 3 1 0 else rs
  (x.1, mkItem (if x.2.2 then rs ||| rsOvf else rs) (bits h 56 16) x.2.1)

/-- The group of an output queue makes its item; `inp` is the item popped from its input, where it has one. -/
def Dev.genGroupPass (d : Dev) (q : Nat) (inp : Nat → List MWord) (push : Bool) : Dev :=
  match d.genGroup q with
  | [] => d
  | (n0, o0) :: r =>
    let spp := mSpp (toRate o0)
    let m := d.members (if tgInNone o0 then q else tgInQ o0)
    let len := ceilDiv (spp * m) 3
    let base := if tgInNone o0 then mkItem 0 0 (List.replicate len 0) else inp (tgInQ o0)
    let bad := !tgInNone o0 && hPlen (itemHdr base) != len
    let d := if bad && push then ((d.toneCnt 5 1).toneLast n0 true).evOnce E.TONE_IN_ERR 0 n0 else d
    let base := if bad then mkItem 8 0 (List.replicate len 0) else base
    let (d, slots) := ((n0, o0) :: r).foldl (fun (x : Dev × List (Nat × Nat × List (Option Int))) s =>
      let (d, v) := x.1.genStroke s.1 s.2
      (d, x.2 ++ [(s.1, s.2, v)])) (d, [])
    if push then
      let (d, it) := d.genItem spp m base slots
      d.qPush q it
    else d

/-! ### What a detector finds (R339 to R342) -/

/-- The frequency `f` lies within `p` thousandths of `f0`. -/
def nearTone (f f0 p : Nat) : Bool := decide ((f - f0 + (f0 - f)) * 1000 ≤ p * f0)

/-- The pairs of ITU-T Q.23 in 1/100 Hz. -/
def dtmfLow : List Nat := [69700, 77000, 85200, 94100]
/-- The high tones. -/
def dtmfHigh : List Nat := [120900, 133600, 147700, 163300]

/-- CODE of the digit in a row and a column (R343). -/
def dtmfCode (row col : Nat) : Nat := [1, 2, 3, 12, 4, 5, 6, 13, 7, 8, 9, 14, 10, 0, 11, 15].getD (4 * row + col) 0

/-- Whether a DTMF detector accepts a pair, rejects it, or may do either (R341). -/
def dtmfVerdict (f1 f2 : Nat) (l1 l2 : Int) (share : Nat) : Option Bool :=
  let near := fun (p : Nat) => dtmfLow.any (nearTone f1 · p) && dtmfHigh.any (nearTone f2 · p)
  let twist := l2 - l1
  if !near 35 || decide (twist < -800 ∨ 400 < twist ∨ share < 8500 ∨ l1 < -4200 ∨ l2 < -4200) then some false
  else if near 15 && decide (-3600 ≤ l1 ∧ l1 ≤ 0 ∧ -3600 ≤ l2 ∧ l2 ≤ 0) then some true
  else none

/-- The same for a detector of one frequency `f0`, 1/100 Hz, within `acc`, or outside `rej`, and for its level range (R341). -/
def toneVerdict (f f0 acc rej : Nat) (l lo : Int) : Option Bool :=
  let off := f - f0 + (f0 - f)
  if rej < off then some false
  else if off ≤ acc ∧ lo ≤ l ∧ l ≤ 0 then some true
  else none

/-- Both tones of a call-progress profile (R341); F2 is left out where it is zero. -/
def cpVerdict (g : List Nat) (f1 f2 : Nat) (l1 l2 : Int) : Option Bool :=
  let one := fun (second : Bool) (f : Nat) (l : Int) =>
    let f0 := pgF g second * 100 / 16
    if second && f0 == 0 then some true else toneVerdict f f0 (20 * f0 / 1000) (50 * f0 / 1000) l (-4000)
  match one false f1 l1, one true f2 l2 with
  | some false, _ => some false
  | _, some false => some false
  | some true, some true => some true
  | _, _ => none

/-- What one detector of one slot finds in one evaluation (R340 to R342): whether the evaluation is valid, the digit, the levels in 1/100 dB and the frequency in
1/100 Hz; for ANS a reversal and amplitude modulation. -/
structure ToneEval where
  valid : Bool
  code : Nat
  level : Int
  level2 : Int
  freq : Nat
  reversal : Bool
  am : Bool
  deriving DecidableEq, Repr, Inhabited

/-- The samples of a slot that a detector of TYPE `ty` takes, newest first: ALIGN those of the slot's rate, the others those at 8 kHz (R339). -/
def DetRt.samples (r : DetRt) (rate ty : Nat) : List Int := if ty = 5 then r.hist else toneDecim rate r.hist

/-- Where a detector of TYPE `ty` looks for its first and its second tone, in 1/100 Hz; `none` where it has none (R341). -/
def toneBand (ty : Nat) (g : List Nat) (second : Bool) : Option (Nat × Nat) :=
  let cp := pgF g second * 100 / 16
  match ty, second with
  | 1, false => some (60000, 105000)
  | 1, true => some (110000, 175000)
  | 2, _ => if cp = 0 then none else some (cp * 9 / 10, cp * 11 / 10)
  | 3, false => some (100000, 120000)
  | 4, false => some (200000, 220000)
  | 5, false => some (90000, 110000)
  | _, _ => none

/-- An evaluation of a detector of TYPE `ty` of the slot `o` over the last 160 strokes (R340 to R342; log entry 85). Silence holds no tone. -/
def Dev.toneFind (d : Dev) (o : Nat) (r : DetRt) (ty : Nat) : ToneEval :=
  let xs := r.samples (toRate o) ty
  let win := xs.take (if ty = 5 then 160 * mSpp (toRate o) else 160)
  let g := if ty = 2 then d.progWords (256 + tdProf o) else []
  let fs := if ty = 5 then 8000 * mSpp (toRate o) else 8000
  let sounds := win.any (· != 0)
  let ws := hannWin win
  let f := fun (b : Bool) => match toneBand ty g b with
    | some x => if sounds then toneFreq fs ws x.1 x.2 else 0
    | none => 0
  let l := fun (b : Bool) => if sounds ∧ (toneBand ty g b).isSome then toneLevel ty fs b win ws (f b) else 0
  let verdict := match ty with
    | 1 => dtmfVerdict (f false) (f true) (l false) (l true) (toneShare fs ws (f false) (f true))
    | 2 => cpVerdict g (f false) (f true) (l false) (l true)
    | 3 => toneVerdict (f false) 110000 3800 6000 (l false) (-4300)
    | 4 => toneVerdict (f false) 210000 1500 3000 (l false) (-3600)
    | _ => toneVerdict (f false) 100000 1000 2500 (l false) (-6000)
  { valid := sounds && verdict.getD (Config.toneGrey ty win g)
    code := if ty = 1 then dtmfCode ((dtmfLow.findIdx? (nearTone (f false) · 35)).getD 0) ((dtmfHigh.findIdx? (nearTone (f true) · 35)).getD 0) else 0
    level := l false, level2 := l true, freq := f false
    reversal := ty == 4 && sounds && annReversal xs
    am := ty == 4 && sounds && annAm (xs.take 800) }

/-! ### Detectors (R339 to R343) -/

/-- A report item (R343). -/
def toneReport (slot ty kind code e start dur : Nat) (r : RunRt) : List MWord :=
  let w := fun (x : Nat) => mkW x false false false false
  mkItem 0 0 [w (slot % 2 ^ 14 + ty * 2 ^ 14 + kind * 2 ^ 17 + code % 256 * 2 ^ 19 + e % 2 ^ 24 * 2 ^ 48),
    w (start % 2 ^ 24 + min dur 0xFFFFFF * 2 ^ 24 + fieldOf 16 r.level * 2 ^ 48),
    w ((if ty = 1 then 0 else r.freq % 2 ^ 24) + fieldOf 16 r.level2 * 2 ^ 24)]

/-- CODE of a report that is not a CP_MATCH. -/
def RunRt.rcode (r : RunRt) (ty : Nat) : Nat := if ty = 1 then r.code else if ty = 4 then b2n r.rev + 2 * b2n r.am else 0

/-- The stroke at which the first valid window of a run began. -/
def RunRt.start (r : RunRt) : Nat := r.e1.getD 0 - 160

/-- A report is pushed to the slot's REP_Q where REP_EN is set (R343), and counted (R358). -/
def Dev.report (d : Dev) (slot ty kind code e : Nat) (r : RunRt) : Dev :=
  let o := d.objD S.DET slot
  let d := if ty = 1 ∧ kind = 1 then d.toneCnt 1 1 else d
  if tdRepEn o then
    let s := d.det slot
    let cnt := bump s.cnt 0
    let d := (d.setDet slot { s with cnt := if kind = 1 then bump cnt 1 else cnt }).toneCnt 0 1
    d.qPush (tdRepQ o) (toneReport slot ty kind code e r.start (if kind = 0 then r.lastValid - r.start else 0) r)
  else d

/-- A run of a slot's detector is replaced. -/
def Dev.setToneRun (d : Dev) (slot ty : Nat) (r : RunRt) : Dev :=
  d.setDet slot { d.det slot with runs := kvSet ty r (d.det slot).runs }

/-- The bursts and gaps that have ended, newest first: whether a tone stood, and how long. -/
def cadence : List (Nat × Nat) → List (Bool × Nat)
  | a :: b :: l => (true, a.2 - a.1) :: (false, a.1 - b.2) :: cadence (b :: l)
  | [a] => [(true, a.2 - a.1)]
  | [] => []

/-- The bursts and gaps of two cycles of a profile, newest first; neighbours of one kind are one (R341). -/
def cadWant (g : List Nat) : List (Bool × Nat) :=
  let parts := (pgSegs g ++ pgSegs g).flatMap (fun (x : Nat × Nat × Nat) => [(true, x.1), (false, x.2.1)])
  (parts.filter (fun x => x.2 != 0)).foldl (fun (l : List (Bool × Nat)) x => match l with
    | y :: r => if y.1 == x.1 then (y.1, y.2 + x.2) :: r else x :: l
    | [] => [x]) []

/-- Two full cycles have each matched within ±10 % or ±20 ms, whichever is larger (R341). -/
def cadMatch (got want : List (Bool × Nat)) : Bool :=
  !want.isEmpty && decide (want.length ≤ got.length) &&
    (got.zip want).all (fun x => x.1.1 == x.2.1 && decide (x.1.2 - x.2.2 + (x.2.2 - x.1.2) ≤ max (x.2.2 / 10) 160))

/-- CP_MATCH is reported where a burst, or the gap before one, completes two cycles of the slot's profile (R341, R343; log entry 85). -/
def Dev.cpCheck (d : Dev) (slot e : Nat) (r : RunRt) (got : List (Bool × Nat)) : Dev :=
  if cadMatch got (cadWant (d.progWords (256 + tdProf (d.objD S.DET slot)))) then d.report slot 2 2 1 e r else d

/-- A run ends: OFF is reported where it is ON (R340, R341). -/
def Dev.runEnd (d : Dev) (slot ty e : Nat) (r : RunRt) : Dev :=
  let d := if r.isOn then d.report slot ty 0 (r.rcode ty) e r else d
  let d := d.setToneRun slot ty {}
  if ty = 2 ∧ r.isOn then
    let s := d.det slot
    let l := ((r.start, r.lastValid) :: s.bursts).take 18
    (d.setDet slot { s with bursts := l }).cpCheck slot e r (cadence l)
  else d

/-- The ON rule of R341 at evaluation `e`. -/
def RunRt.onRule (r : RunRt) (ty e : Nat) : Bool :=
  let e1 := r.e1.getD e
  match ty with
  | 1 => decide (3 ≤ r.nValid)
  | 2 => decide (2 ≤ r.nValid)
  | 3 => decide (e1 + 3200 ≤ e + 160)
  | 4 => decide (e1 + 1600 ≤ e + 160)
  | _ => decide (e1 + 800 ≤ e + 160)

/-- A valid evaluation of a detector (R340 to R343). -/
def Dev.evalValid (d : Dev) (slot ty e : Nat) (r : RunRt) (v : ToneEval) : Dev :=
  let fresh := decide (r.nValid = 0) || (ty == 1 && !r.isOn && r.code != v.code)
  let r : RunRt := if fresh then { e1 := some e } else r
  let am := v.am && !r.am
  let r := { r with nValid := r.nValid + 1, nInv := 0, nSkip := 0, lastValid := e, rev := r.rev || v.reversal, am := r.am || am
                    code := if r.isOn then r.code else v.code, level := v.level, level2 := v.level2, freq := v.freq
                    revAt := if v.reversal then some e else r.revAt }
  if !r.isOn && r.onRule ty e then
    let r := { r with isOn := true, lastUpd := e }
    let d := d.report slot ty 1 (r.rcode ty) e r
    let d := if r.rev then d.report slot ty 2 (r.rcode ty) e r else d
    let d := if r.rev then (d.toneCnt 2 1).evOnce E.TONE_ANS_PR 0 slot else d
    let d := d.setToneRun slot ty r
    match ty, (d.det slot).bursts with
    | 2, a :: l => d.cpCheck slot e r ((false, r.start - a.2) :: cadence (a :: l))
    | _, _ => d
  else if r.isOn && (v.reversal || am) then
    let first := v.reversal && !(kvD (d.det slot).runs ty {}).rev
    let d := d.report slot ty 2 (r.rcode ty) e r
    let d := if first then (d.toneCnt 2 1).evOnce E.TONE_ANS_PR 0 slot else d
    d.setToneRun slot ty r
  else d.setToneRun slot ty r

/-- One evaluation of a detector of a slot; `skip` says that its window holds a sample with CONCEAL or POISON (R339, R340). While a run is valid, a window that holds a
reversal counts as valid (R342). -/
def Dev.toneEval (d : Dev) (slot ty e : Nat) (skip : Bool) (v : ToneEval) : Dev :=
  let r := kvD (d.det slot).runs ty {}
  let held := ty == 4 && decide (0 < r.nValid) && (v.reversal || (match r.revAt with
    | none => false
    | some x => decide (e ≤ x + 120)))
  let v := { v with reversal := v.reversal && (v.valid || held), am := v.am && (v.valid || held) }
  let valid := (v.valid || held) && !(ty == 1 && r.isOn && r.code != v.code)
  let d := if skip then
      let s := d.det slot
      let d := (d.setDet slot { s with cnt := bump s.cnt 2 }).toneCnt 6 1
      if 12 ≤ r.nSkip + 1 then d.runEnd slot ty e r else d.setToneRun slot ty { r with nSkip := r.nSkip + 1 }
    else if valid then d.evalValid slot ty e r v
    else if !r.isOn then d.runEnd slot ty e r
    else
      let r := { r with nInv := r.nInv + 1, nSkip := 0 }
      if (if ty = 1 then 8 else 4) ≤ r.nInv then d.runEnd slot ty e r else d.setToneRun slot ty r
  let r := kvD (d.det slot).runs ty {}
  if ty == 5 && r.isOn && decide (r.lastUpd + 8000 ≤ e) then
    (d.report slot ty 2 0 e r).setToneRun slot ty { r with lastUpd := e }
  else d

/-- The evaluations of a slot in the pass of stroke `e`. -/
def Dev.detEvals (d : Dev) (e slot o : Nat) : Dev :=
  if !(d.det slot).en then d
  else
    let skip := match (d.det slot).badAt with
      | none => false
      | some b => decide (e ≤ b + 160)
    let d := if bit (tdMask o) 1 then d.progSeen (256 + tdProf o) else d
    d.each ([1, 2, 3, 4, 5].filter (fun ty => bit (tdMask o) (ty - 1))) (fun d ty => d.toneEval slot ty e skip (d.toneFind o (d.det slot) ty))

/-- The samples of a stroke reach a slot (R339): 832 strokes of them are kept, which hold all that an evaluation looks at; those in words with PRIME are silence, and
where a word carries CONCEAL or POISON the slot notes the stroke. -/
def Dev.detTake (d : Dev) (slot : Nat) (ss : List Smp) (spp : Nat) : Dev :=
  let r := d.det slot
  let xs := ss.map (fun (s : Smp) => if bit s.rs 0 || s.poison then 0 else s.v)
  d.setDet slot { r with
    hist := (xs.reverse ++ r.hist).take (832 * spp)
    badAt := if ss.any (fun (s : Smp) => s.poison || bit s.rs 2) then some (d.org.num - 1) else r.badAt }

/-- The item of an input group reaches its slots; an idle item is silence, as is one that does not fit the group, and every item of a group that is abandoned for the
stroke (R184, R337, R339). -/
def Dev.detGroupIn (d : Dev) (q : Nat) (it : List MWord) (zero : Bool) : Dev :=
  match (d.bank.sec S.DET).filter (fun x => tdInQ x.2 == q) with
  | [] => d
  | (n0, o0) :: r =>
    let spp := mSpp (toRate o0)
    let m := d.members q
    let bad := hPlen (itemHdr it) != ceilDiv (spp * m) 3
    let d := if bad && !zero then ((d.toneCnt 5 1).toneLast n0 false).evOnce E.TONE_IN_ERR 0 n0 else d
    d.each ((n0, o0) :: r) (fun d x =>
      d.detTake x.1 (if zero || bad || bit (itemHdr it) rIdle then List.replicate spp {}
        else (List.range spp).map (fun f => itemSmp it 1 (f * m + tdMember x.2))) spp)

/-! ### State items (R284, R344) -/

/-- The three bits of a slot: ANS_PR, ANS and CNG. -/
def Dev.toneBits (d : Dev) (slot : Nat) : Nat :=
  let runs := (d.det slot).runs
  let ans := kvD runs 4 {}
  b2n (ans.isOn && ans.rev) + 2 * b2n (ans.isOn && !ans.rev) + 4 * b2n (kvD runs 3 {}).isOn

/-- The item of a state group. -/
def Dev.stateItem (d : Dev) (g o : Nat) : List MWord :=
  let nch := bits o 16 11
  let slots := (d.bank.sec S.DET).filter (fun x => tdStateEn x.2 && tdGrp x.2 == g && (d.det x.1).en)
  let at' := fun (c : Nat) => slots.foldl (fun b x => if tdPos x.2 = c then b ||| d.toneBits x.1 else b) 0
  mkItem 0 0 ((List.range (ceilDiv nch 24)).map (fun k =>
    mkW (((List.range 24).map (fun j => if 24 * k + j < nch then at' (24 * k + j) * 2 ^ (3 * j) else 0)).sum) false false false false))

/-! ### The pass (R337) -/

/-- The input queues that the pass pops: of detector groups and of generator groups. -/
def Dev.toneIns (d : Dev) : List Nat :=
  let gen := ((d.bank.sec S.GEN).filter (fun x => !tgInNone x.2)).map (fun x => tgInQ x.2)
  ((d.bank.sec S.DET).map (fun x => tdInQ x.2) ++ gen).foldl (fun l q => if l.contains q then l else l ++ [q]) []

/-- The output queues of generator groups. -/
def Dev.toneOuts (d : Dev) : List Nat :=
  (d.bank.sec S.GEN).foldl (fun l x => if l.contains (tgOutQ x.2) then l else l ++ [tgOutQ x.2]) []

/-- The items of these queues are popped. -/
def Dev.tonePops (d : Dev) (qs : List Nat) : Dev × Kv (List MWord) :=
  qs.foldl (fun (x : Dev × Kv (List MWord)) q =>
    let (it, d) := x.1.qPop q false
    (d, x.2 ++ [(q, it)])) (d, [])

/-- FB_ARMED is set on the output queues of a group that is abandoned for the stroke (R337). -/
def Dev.toneArm (d : Dev) (gen : Bool) (q : Nat) : Dev :=
  let outs := if gen then [q]
    else ((d.bank.sec S.DET).filter (fun x => tdInQ x.2 == q)).flatMap (fun x =>
      (if tdRepEn x.2 then [tdRepQ x.2] else []) ++ (if tdStateEn x.2 then [bits (d.objD S.GRP (tdGrp x.2)) 0 16] else []))
  d.each outs (fun d q => if d.qValid q then d.setQ q { d.q q with fbArmed := true } else d)

/-- The tone bank's pass of the stroke. What the pass pushes for others to a queue of an abandoned group leaves that queue armed, since the group is abandoned after
it, at cycle 156,249 (R337). -/
def Dev.tonePass (d : Dev) : Dev :=
  if d.isolated .tone || d.tone.passed == some d.org.num then d
  else
    let d := { d with tone := { d.tone with passed := some d.org.num } }
    let (d, its) := d.tonePops d.toneIns
    let d := d.each its (fun d x => d.detGroupIn x.1 x.2 (d.tone.skip.contains (false, x.1)))
    let e := d.org.num
    let d := if e % 40 = 0 then
        d.each (d.bank.sec S.DET) (fun d x => if d.tone.skip.contains (false, tdInQ x.2) then d else d.detEvals e x.1 x.2)
      else d
    let d := d.each d.toneOuts (fun d q => d.genGroupPass q (fun i => kvD its i []) (!d.tone.skip.contains (true, q)))
    let d := d.each (d.bank.sec S.GRP) (fun d x => d.qPush (bits x.2 0 16) (d.stateItem x.1 x.2))
    d.tone.skip.foldl (fun d x => d.toneArm x.1 x.2) (d.actsMet (· == 4))

/-- A stroke without a pass ends: the groups abandoned in it pop their items and go on as if it had been computed with zero input (R184, R337). -/
def Dev.toneAdvance (d : Dev) : Dev :=
  if d.isolated .tone || d.tone.passed == some (d.org.num - 1) || d.tone.skip.isEmpty then d
  else d.backOne (fun d =>
  let dets := (d.tone.skip.filter (fun x => !x.1)).map Prod.snd
  let gens := (d.tone.skip.filter Prod.fst).map Prod.snd
  let ins := d.toneIns.filter (fun q => dets.contains q || (d.bank.sec S.GEN).any (fun x => !tgInNone x.2 && tgInQ x.2 == q && gens.contains (tgOutQ x.2)))
  let (d, its) := d.tonePops ins
  let d := d.each dets (fun d q => d.detGroupIn q (kvD its q []) true)
  let d := d.each gens (fun d q => d.genGroupPass q (fun i => kvD its i []) false)
  if gens.isEmpty then d else d.actsMet (· == 4))

/-- A group is unfinished at cycle 156,249 and abandoned for the stroke (R337). -/
def Dev.toneOverrun (d : Dev) (gen : Bool) (q : Nat) : Dev :=
  let dets := (d.bank.sec S.DET).filter (fun x => tdInQ x.2 == q)
  let slots := if gen then d.genGroup q else dets
  if d.isolated .tone || d.tone.passed == some d.org.num || d.tone.skip.contains (gen, q) || slots.isEmpty then d
  else
    let d := { d with tone := { d.tone with skip := (gen, q) :: d.tone.skip } }
    let d := d.toneArm gen q
    let n := (slots.headD (0, 0)).1
    (((d.toneCnt 4 1).set R.TONE_STAT_PASS_OVR 1).toneLast n gen).ev E.TONE_OVERRUN n

/-- The tone bank at a stroke boundary: GEN_START and GEN_STOP commands fall due (R349). -/
def Dev.toneBoundary (d : Dev) : Dev :=
  let d := { d with tone := { d.tone with skip := [] } }
  { d with tone := { d.tone with gens := d.tone.gens.map (fun (x : Nat × GenRt) => match x.2.cmd with
      | none => x
      | some c => (x.1, { x.2 with cmd := none, due := some c })) } }

/-! ### Commands (R356 to R358) -/

/-- A detector slot is disabled: OFF is reported of what is ON (R356). -/
def Dev.detOff (d : Dev) (n : Nat) : Dev :=
  let d := d.each (d.det n).runs (fun d x => if x.2.isOn then d.report n x.1 0 (x.2.rcode x.1) d.org.num x.2 else d)
  d.setDet n { d.det n with en := false, runs := [], bursts := [] }

/-- TONE_CMD OP 1 to 7 (R357). -/
def Dev.toneCmd (d : Dev) (req : Requester) (op : Nat) : Dev :=
  d.command C.tone req (if op = 1 ∨ op = 2 ∨ op = 7 then .none else .oper) (fun d =>
    let n := d.get R.TONE_IDX_IDX
    let gen := op == 2 || op == 5 || op == 6
    if op < 1 ∨ 7 < op then .error 2
    else if (d.obj (if gen then S.GEN else S.DET) n).isNone then .error 1
    else if op = 1 then
      let (x, d) := d.takeFree 128
      .ok (d.setWords R.TONE_DATA_D 8 (d.objD S.DET n % 2 ^ 128 + x * 2 ^ 128))
    else if op = 2 then
      let (x, d) := d.takeFree 64
      .ok (d.setWords R.TONE_DATA_D 4 (d.objD S.GEN n % 2 ^ 64 + x * 2 ^ 64))
    else if op = 7 then .ok (d.each (d.det n).cnt.zipIdx (fun d x => d.set (R.TONE_DATA_D x.2) x.1.toNat))
    else if d.isolated .tone then .error 2
    else if op = 3 then .ok (if (d.det n).en then d else d.setDet n { d.det n with en := true, runs := [], bursts := [] })
    else if op = 4 then .ok (if (d.det n).en then d.detOff n else d)
    else if op = 5 then
      let p := d.get R.TONE_ARG_ARG % 256
      if pgNseg (d.progWords p) = 0 then .error 2 else .ok ((d.progSeen p).setGen n { d.gen n with cmd := some (some p) })
    else .ok (d.setGen n { d.gen n with cmd := some none }))

/-- The tone bank's pass (R337). -/
def execTonePass (w : When) (s : State) : Out := s.runMain w (·.tonePass)

/-- A group of the tone bank is abandoned (R337). -/
def execToneOverrun (w : When) (gen : Bool) (q : Nat) (s : State) : Out := s.runMain w (·.toneOverrun gen q)

/-- TONE_CMD READ detector slot (R357). -/
def execDetRead (w : When) (req : Requester) (s : State) : Out := s.runReq w req (·.toneCmd req 1)

/-- TONE_CMD READ generator slot (R357). -/
def execGenRead (w : When) (req : Requester) (s : State) : Out := s.runReq w req (·.toneCmd req 2)

/-- TONE_CMD DET_ENABLE (R357). -/
def execDetEnable (w : When) (req : Requester) (s : State) : Out := s.runReq w req (·.toneCmd req 3)

/-- TONE_CMD DET_DISABLE (R356). -/
def execDetDisable (w : When) (req : Requester) (s : State) : Out := s.runReq w req (·.toneCmd req 4)

/-- TONE_CMD GEN_START (R349). -/
def execGenStart (w : When) (req : Requester) (s : State) : Out := s.runReq w req (·.toneCmd req 5)

/-- TONE_CMD GEN_STOP (R349). -/
def execGenStop (w : When) (req : Requester) (s : State) : Out := s.runReq w req (·.toneCmd req 6)

/-- TONE_CMD slot counters into TONE_DATA (R358). -/
def execToneSlotCounters (w : When) (req : Requester) (s : State) : Out := s.runReq w req (·.toneCmd req 7)

end Sys2Proof.Machine
end

