-- ==== Sys2Proof/Machine/ImageRead.lean ====
section
/-! DEFINITION. Reading a structure image (R483 to R491): its header, its sections and its objects as a bank, and the field rules that refuse an image
with IMG_INVALID. Each rule gives the section and offset of what it refuses. -/

namespace Sys2Proof.Machine

/-- A failure of a load (R494): its code, the section TYPE and the offset. -/
structure ImgErr where
  code : Nat
  sec : Nat := 0
  ofs : Nat := 0
  deriving DecidableEq, Repr

/-- The number that `n` bytes from byte `i` hold, least significant first. -/
def leAt (l : List Byte) (i n : Nat) : Nat := leNat ((l.drop i).take n)

/-- ENTRY_BYTES of a section TYPE (R486). -/
def entryBytes (ty : Nat) : Nat :=
  [0, 16, 16, 0, 48, 36, 0, 24, 8, 0, 44, 36, 16, 0, 36, 36, 20, 8, 12, 20, 16, 12, 32, 8, 12, 12].getD ty 0

/-- The image bits of an object of a section (R486). -/
def objBits (ty : Nat) : Nat :=
  [0, 64, 78, 0, 352, 240, 0, 160, 27, 0, 320, 256, 68, 0, 256, 256, 128, 27, 64, 128, 72, 36, 224, 13, 38, 64].getD ty 0

/-- An INDEX lies in the range of its section (R486). -/
def indexOk (ty i : Nat) : Bool :=
  if ty = 1 then true
  else if ty = 23 then decide (i ≤ 3) || inR 16 i 31
  else decide (i ≤ [0, 0, 63, 0, 63, 131071, 0, 65535, 65535, 0, 16383, 16383, 31, 0, 255, 8191, 16383, 1023, 8191, 511, 3, 31, 3, 0, 1023, 63].getD ty 0)

/-- The VALID bit of an object, true in a section whose objects have none (R485). -/
def objValid (ty o : Nat) : Bool :=
  if ty = 5 then bit o 8 else if ty = 7 then bit o 24 else if ty = 12 then bit o 67
  else if ty = 10 ∨ ty = 11 ∨ ty = 14 ∨ ty = 15 ∨ ty = 16 ∨ 18 ≤ ty then bit o 0
  else true

/-! ### Sections (R483, R484) -/

/-- A section as it stands in the image: its TYPE, COUNT and bytes with its header. -/
structure SecIn where
  ty : Nat
  count : Nat
  bytes : List Byte
  deriving DecidableEq, Repr

/-- Bytes rounded up to 16. -/
def pad16N (n : Nat) : Nat := ceilDiv n 16 * 16

/-- The sections from offset `ofs`, each of a TYPE above `last`; the offset at which they end. -/
def readSecs (b : List Byte) (stop : Nat) : Nat → Nat → Nat → Except ImgErr (List SecIn × Nat)
  | 0, ofs, _ => .ok ([], ofs)
  | n + 1, ofs, last =>
    let ty := leAt b ofs 2
    let len := leAt b (ofs + 4) 4
    let cnt := leAt b (ofs + 8) 4
    let fits := if entryBytes ty = 0 then decide (16 ≤ len) else len == 16 + pad16N (cnt * entryBytes ty)
    if ofs + 16 ≤ stop && last < ty && ty ≤ 25 && leAt b (ofs + 2) 2 == entryBytes ty && len % 16 == 0 && fits && ofs + len ≤ stop then
      match readSecs b stop n (ofs + len) ty with
      | .error e => .error e
      | .ok (r, e) => .ok ({ ty := ty, count := cnt, bytes := (b.drop ofs).take len } :: r, e)
    else .error { code := 1, ofs := ofs }

/-- Step 1 of R493: the sections of an image of `b`, where STK_IMG_LEN is `len`. -/
def imgForm (b : List Byte) (len : Nat) : Except ImgErr (List SecIn) :=
  if len = 0 ∨ leAt b 0 4 ≠ 0x53494D47 then .error { code := 1 }
  else if leAt b 4 2 ≠ 1 then .error { code := 1, ofs := 4 }
  else if leAt b 20 4 ≠ len ∨ len < 256 ∨ 268435456 < len then .error { code := 1, ofs := 20 }
  else if leAt b 6 2 < 1 ∨ 25 < leAt b 6 2 then .error { code := 1, ofs := 6 }
  else match readSecs b (len - 96) (leAt b 6 2) 128 0 with
    | .error e => .error e
    | .ok (secs, e) =>
      if e ≠ len - 96 then .error { code := 1, ofs := e }
      else if [1, 2, 4].all (fun t => secs.any (fun s => s.ty == t)) then .ok secs
      else .error { code := 1, ofs := 6 }

/-! ### Objects (R485 to R489) -/

/-- The entries of a section: INDEX and image bits. -/
def SecIn.entries (s : SecIn) : Kv Nat :=
  (List.range s.count).map (fun i => (leAt s.bytes (16 + i * entryBytes s.ty) 4,
    leAt s.bytes (20 + i * entryBytes s.ty) (entryBytes s.ty - 4) % 2 ^ objBits s.ty))

/-- A run of words or coefficients: its first address, its count, where it begins in its section, and its bytes, `per` a unit. -/
structure Run where
  addr : Nat
  count : Nat
  ofs : Nat
  data : List Byte
  deriving DecidableEq, Repr

/-- The runs of a section from offset `ofs` (R489). -/
def readRuns (b : List Byte) (per : Nat) : Nat → Nat → List Run
  | 0, _ => []
  | n + 1, ofs =>
    let cnt := leAt b (ofs + 4) 4
    { addr := leAt b ofs 4, count := cnt, ofs := ofs, data := (b.drop (ofs + 8)).take (per * cnt) } :: readRuns b per n (ofs + pad16N (8 + per * cnt))

/-- A kernel pack where it stands in its section (R248). -/
structure PackIn where
  ofs : Nat
  bytes : List Byte
  deriving DecidableEq, Repr

/-- The bytes of the pack that begins at offset `ofs`. -/
def packLen (b : List Byte) (ofs : Nat) : Nat := 128 + 32 * leAt b (ofs + 6) 2 + 9 * leAt b (ofs + 20) 4 + 96

/-- The packs of a section from offset `ofs`. -/
def readPacks (b : List Byte) : Nat → Nat → List PackIn
  | 0, _ => []
  | n + 1, ofs => { ofs := ofs, bytes := (b.drop ofs).take (packLen b ofs) } :: readPacks b n (ofs + pad16N (packLen b ofs))

/-- A pack as a bank holds it. -/
def PackIn.pack (p : PackIn) : Pack :=
  let k := leAt p.bytes 6 2
  { id := leAt p.bytes 8 4, ver := leAt p.bytes 12 4, hash := sha384 p.bytes, codeWords := leAt p.bytes 20 4,
    kernels := (List.range k).map (fun i => leAt p.bytes (128 + 32 * i) 32),
    code := (List.range (leAt p.bytes 20 4)).map (fun i => BitVec.ofNat 72 (leAt p.bytes (128 + 32 * k + 9 * i) 9)) }

/-- An image read: its sections, its bank, the claims, the runs and the packs. -/
structure ImgIn where
  secs : List SecIn
  bank : Bank
  cert : Kv Nat
  presets : List Run
  coefs : List Run
  packs : List PackIn
  deriving DecidableEq, Repr

/-- The bytes of a section, none where the image has none. -/
def secBytes (secs : List SecIn) (ty : Nat) : List Byte := ((secs.find? (fun s => s.ty == ty)).map SecIn.bytes).getD []

/-- COUNT of a section, 0 where the image has none. -/
def secCount (secs : List SecIn) (ty : Nat) : Nat := ((secs.find? (fun s => s.ty == ty)).map SecIn.count).getD 0

/-- The local address entries by INDEX, each as its 24 bytes (R489). Of two with one INDEX the last stands: DESIGN CHOICE (log entry 138). -/
def laddrEntries (b : List Byte) (n : Nat) : Kv Nat :=
  (List.range n).foldl (fun m i => kvSet (leAt b (48 + 24 * i) 2) (leAt b (48 + 24 * i) 24) m) []

/-- The image that bytes and sections hold. -/
def readImg (b : List Byte) (secs : List SecIn) : ImgIn :=
  let pkt := secBytes secs 9
  let coef := secBytes secs 13
  let presets := readRuns (secBytes secs 6) 9 (secCount secs 6) 16
  let coefs := readRuns coef 3 (secCount secs 13) 32
  let packs := readPacks (secBytes secs 3) (secCount secs 3) 16
  let objs : Kv (Kv Nat) := (secs.filter (fun s => entryBytes s.ty != 0 && s.ty != 1)).map (fun s => (s.ty, s.entries))
  { secs := secs, presets := presets, coefs := coefs, packs := packs
    cert := ((secs.find? (fun s => s.ty == 1)).map SecIn.entries).getD []
    bank :=
      { id := leAt b 8 4, ver := leAt b 12 4, hash := sha384 b
        objs := if secCount secs 9 = 0 then objs else kvSet S.LADDR (laddrEntries pkt (secCount secs 9)) objs
        packs := packs.map PackIn.pack
        seed := leAt pkt 16 4
        exc := if pkt.isEmpty then [] else (List.range 5).map (fun c => (leAt pkt (20 + 4 * c) 2, leAt pkt (22 + 4 * c) 2))
        proto := if coef.isEmpty then List.replicate 4 0xFFFFFFFF else (List.range 4).map (fun k => leAt coef (16 + 4 * k) 4)
        presets := presets.map (fun r => (r.addr, r.count))
        coefs := coefs.map (fun r => (r.addr, r.count)) } }

/-- Word `a` as the image leaves it: the last of its preset runs that holds it, or the reservoir (R481). -/
def ImgIn.word (m : ImgIn) (d : Dev) (a : Nat) : Nat :=
  match m.presets.reverse.find? (fun r => decide (r.addr ≤ a ∧ a < r.addr + r.count)) with
  | some r => leAt r.data (9 * (a - r.addr)) 9
  | none => d.argWord a

/-! ### Field rules: the forms they share -/

/-- Where an image fails. -/
abbrev Bad := List (Nat × Nat)

/-- The entries of a section of which `p` holds, by INDEX, image bits and place. -/
def ImgIn.badEnts (m : ImgIn) (ty : Nat) (p : Nat → Nat → Nat → Bool) : Bad :=
  ((m.bank.sec ty).zipIdx.filter (fun (x : (Nat × Nat) × Nat) => p x.1.1 x.1.2 x.2)).map (fun x => (ty, 16 + entryBytes ty * x.2))

/-- The image bits of a VALID object of the image. -/
def ImgIn.obj (m : ImgIn) (ty i : Nat) : Option Nat := (m.bank.obj ty i).filter (objValid ty)

/-- The image bits of an object, zero where it is not VALID. -/
def ImgIn.objD (m : ImgIn) (ty i : Nat) : Nat := (m.obj ty i).getD 0

/-- The entries of a section before place `k`. -/
def ImgIn.before (m : ImgIn) (ty k : Nat) : Kv Nat := (m.bank.sec ty).take k

/-- Two spans, each a first word and a length, share a word. -/
def overlap (a b : Nat × Nat) : Bool := decide (a.1 < b.1 + b.2 ∧ b.1 < a.1 + a.2 ∧ 0 < a.2 ∧ 0 < b.2)

/-- A span lies inside another. -/
def inside (a b : Nat × Nat) : Bool := decide (b.1 ≤ a.1 ∧ a.1 + a.2 ≤ b.1 + b.2)

/-- KIND of a partition (R487). -/
def pKind (o : Nat) : Nat := bits o 1 4
/-- The words of a partition. -/
def pSpan (o : Nat) : Nat × Nat := (bits o 6 36, bits o 42 36)

/-- A reservoir span lies in one partition of a kind. -/
def ImgIn.inPart (m : ImgIn) (kind : Nat) (s : Nat × Nat) : Bool :=
  (m.bank.sec S.PARTITIONS).any (fun x => pKind x.2 == kind && !bit x.2 0 && inside s (pSpan x.2))

/-! ### Entries, partitions, packs and cells (R485, R487, R488) -/

/-- R485 and the INDEX ranges of R486. -/
def ImgIn.badIndex (m : ImgIn) (ty : Nat) : Bad :=
  m.badEnts ty (fun i o k => !indexOk ty i || !objValid ty o || (m.before ty k).any (fun x => decide (i ≤ x.1)))

/-- The same of the claims. -/
def ImgIn.badCertIndex (m : ImgIn) : Bad :=
  (m.cert.zipIdx.filter (fun (x : (Nat × Nat) × Nat) => (m.cert.take x.2).any (fun y => decide (x.1.1 ≤ y.1)))).map (fun x => (1, 16 + 16 * x.2))

/-- Words of the reservoir (R20). -/
def resWords : Nat := 16777216

/-- R487. -/
def ImgIn.badParts (m : ImgIn) : Bad :=
  m.badEnts S.PARTITIONS (fun _ o k =>
    let kind := pKind o
    !inR 1 kind 8 || (pSpan o).2 == 0 || (decide (kind ≤ 5) && bit o 0) || (kind == 7 && !bit o 0) ||
      (!bit o 0 && !inside (pSpan o) (0, resWords)) ||
      (m.before S.PARTITIONS k).any (fun x => bit x.2 0 == bit o 0 && overlap (pSpan x.2) (pSpan o)))

/-- Packs that share an identity, have none, or leave their section (R488). -/
def ImgIn.badPacks (m : ImgIn) : Bad :=
  (m.packs.zipIdx.filter (fun (x : PackIn × Nat) =>
    let id := leAt x.1.bytes 8 4
    x.1.bytes.length < 224 || x.1.bytes.length != packLen x.1.bytes 0 || id == 0 || (m.packs.take x.2).any (fun p => leAt p.bytes 8 4 == id))).map
      (fun x => (3, x.1.ofs))

/-- R245 and R488 of a cell record. -/
def ImgIn.badCells (m : ImgIn) : Bad :=
  m.badEnts S.CELLS (fun _ o _ =>
    let n := cNPack o
    8 < n || cStateBase o < 64 || cCodeBase o < cStateBase o ||
      (List.range 8).any (fun k => if k < n then cPackId o k == 0 || !m.bank.packs.any (fun p => p.id == cPackId o k) else cPackId o k != 0))

/-! ### Tasks (R57, R245, R251, R253, R461) -/

/-- R57 of one task, but for FD_SEQ. -/
def taskFieldsBad (o fd : Nat) : Bool :=
  tBudget o == 0 || (tPeriodic o && (tPeriod o == 0 || decide (tPeriod o ≤ tPhase o) || decide (tPeriod o ≤ tDlStrokes o))) ||
    (!tPeriodic o && (tDepInit o != 1 || tPeriod o != 0 || tPhase o != 0)) || decide (156249 < tDlCc o) ||
    (if tClass o = 0 then fd == 0 || decide (tFdLatest o < tFdStart o) || decide (fd ≤ tFdLatest o)
     else tFdSeq o != 0 || tFdStart o != 0 || tFdLatest o != 0)

/-- The inputs and outputs of a task as the image gives them: queue, items, local address (R253). -/
def ImgIn.args (m : ImgIn) (d : Dev) (o : Nat) : List (Nat × Nat × Nat) × List (Nat × Nat × Nat) :=
  let w := m.word d (tArg o)
  let ni := min 16 (bits w 0 8)
  let no := min 16 (bits w 8 8)
  ((List.range ni).map (fun i => argIo (m.word d (tArg o + 3 + i))), (List.range no).map (fun k => argIo (m.word d (tArg o + 3 + ni + k))))

/-- Staging, drain and local state of a task lie in the regions of its cell (R245). -/
def ImgIn.regionsOk (m : ImgIn) (d : Dev) (o ke : Nat) : Bool :=
  let c := m.objD S.CELLS (tCell o)
  let a := m.args d o
  let fits := fun (x : Nat × Nat × Nat) => x.2.1 == 0 ||
    inside (x.2.2, x.2.1 * qSlotWords (m.objD S.QUEUES x.1)) (64, cStateBase c - 64)
  a.1.all fits && a.2.all fits &&
    (kLstate ke == 0 || inside (bits (m.word d (tArg o + 1)) 48 15, kLstate ke) (cStateBase c, cCodeBase c - cStateBase c))

/-- R251, R253, R245 and R461 of one task. -/
def ImgIn.taskArgsBad (m : ImgIn) (d : Dev) (o : Nat) : Bool :=
  let w := m.word d (tArg o)
  match m.bank.kernel o with
  | none => true
  | some ke =>
    let items := ((m.args d o).1.map (fun x => x.2.1)).sum
    (tClass o == 0 && !bit ke 81) || decide (tBudget o < bits ke 128 32 + bits ke 160 32 * items) || 16 < bits w 0 8 || 16 < bits w 8 8 ||
      !m.regionsOk d o ke || (tClass o == 0 && bits (m.word d (tArg o + 2)) 36 36 != 0)

/-- R57 and the rules of a task's argument block. -/
def ImgIn.badTasks (m : ImgIn) (d : Dev) : Bad :=
  m.badEnts S.TASKS (fun _ o k =>
    taskFieldsBad o (cFdLen (m.objD S.CELLS (tCell o))) || m.taskArgsBad d o ||
      (tClass o == 0 && (m.before S.TASKS k).any (fun x => tClass x.2 == 0 && tCell x.2 == tCell o && tFdSeq x.2 == tFdSeq o)))

/-! ### Presets and tone programs (R345, R489) -/

/-- The words of program `p`, or of profile `p` - 256, none where the tone partition does not hold it. -/
def ImgIn.prog (m : ImgIn) (d : Dev) (p : Nat) : List Nat :=
  match (m.bank.sec S.PARTITIONS).find? (fun x => pKind x.2 == 5) with
  | none => []
  | some x => if 6 * p + 6 ≤ (pSpan x.2).2 then (List.range 6).map (fun k => m.word d ((pSpan x.2).1 + 6 * p + k)) else []

/-- A used program with a segment of no length, or more segments than eight (R345). -/
def progBad (g : List Nat) : Bool := pgNseg g != 0 && (decide (8 < pgNseg g) || (pgSegs g).any (fun s => s.1 == 0 && s.2.1 == 0))

/-- The preset run that holds a word: its offset, 0 where none does. -/
def ImgIn.runAt (m : ImgIn) (a : Nat) : Nat :=
  ((m.presets.find? (fun r => decide (r.addr ≤ a ∧ a < r.addr + r.count))).map Run.ofs).getD 0

/-- R489 of the runs, and R345 of the programs. -/
def ImgIn.badPresets (m : ImgIn) (d : Dev) : Bad :=
  let base := (((m.bank.sec S.PARTITIONS).find? (fun x => pKind x.2 == 5)).map (fun x => (pSpan x.2).1)).getD 0
  (m.presets.filter (fun r => r.count == 0 || 1048576 < r.count || r.data.length != 9 * r.count ||
      !(m.bank.sec S.PARTITIONS).any (fun x => !bit x.2 0 && inside (r.addr, r.count) (pSpan x.2)))).map (fun r => (6, r.ofs)) ++
    ((List.range 272).filter (fun p => progBad (m.prog d p))).map (fun p => (6, m.runAt (base + 6 * p)))

/-! ### Queues and routes (R93, R185, R337, R491, R639) -/

/-- The storage of a queue. -/
def qSpan (o : Nat) : Nat × Nat := (qBase o, qSlotsMax o * qSlotWords o)

/-- A node has the producer, or the consumer, port (R639). -/
def portOk (node port : Nat) : Bool :=
  if node = 1 then decide (port ≤ 4) else if node = 79 then decide (port ≤ 35)
  else if node = 6 ∨ inR 72 node 78 ∨ 79 < node then false else port == 0

/-- R93, R185, R337 and R639. Of two queues whose spans overlap the later is reported (log entry 130). -/
def ImgIn.badQueues (m : ImgIn) : Bad :=
  m.badEnts S.QUEUES (fun q o k =>
    let sp := m.obj S.QUEUES (qSpill o)
    qSlots o == 0 || qSlotsMax o == 0 || decide (qSlotsMax o < qSlots o) || !inR 2 (qSlotWords o) 256 || !m.inPart 1 (qSpan o) ||
      (m.before S.QUEUES k).any (fun x => overlap (qSpan x.2) (qSpan o)) || qFallback o == 3 || qOvf o == 3 ||
      (qOvf o == 2 && (qSpill o == q || (match sp with
        | none => true
        | some s => qOvf s == 2 || decide (qSlotWords s < qSlotWords o)))) ||
      (!qPosted o && ([0, 2, 3, 4, 79].contains (qProdNode o))) ||
      !portOk (qProdNode o) (qProdPort o) || !portOk (qConsNode o) (qConsPort o))

/-- R491 and the ranges of R486. Of a class-L queue that no entry names, the queue is what fails (log entry 47). -/
def ImgIn.badRoutes (m : ImgIn) : Bad :=
  m.badEnts S.ROUTES (fun _ o k =>
    5 < bits o 16 3 || bits o 19 8 == 0 || (match m.obj S.QUEUES (bits o 0 16) with
      | none => true
      | some q => qClass q != 0) || (m.before S.ROUTES k).any (fun x => bits x.2 0 16 == bits o 0 16)) ++
    m.badEnts S.QUEUES (fun q o _ => qClass o == 0 && !(m.bank.sec S.ROUTES).any (fun r => bits r.2 0 16 == q))

/-! ### The packet path (R131, R147, R169, R335) -/

/-- R131: an exception queue that is VALID has room for a frame. -/
def ImgIn.badPkt (m : ImgIn) : Bad :=
  ((m.bank.exc.zipIdx.filter (fun (x : (Nat × Nat) × Nat) => match m.obj S.QUEUES x.1.1 with
    | none => false
    | some o => decide (qSlotWords o < 175))).map (fun x => (9, 20 + 4 * x.2))) ++
  (((List.range (secCount m.secs 9)).filter (fun i => decide (4095 < leAt (secBytes m.secs 9) (48 + 24 * i) 2))).map (fun i => (9, 48 + 24 * i)))

/-- A payload type that is no linear PCM: one that RFC 3551 assigns to another encoding. Types 10 and 11 are linear, and the types without an assignment
can carry it (PRESUMED, log entry 110). -/
def notLinearPt (pt : Nat) : Bool := [0, 3, 4, 5, 6, 7, 8, 9, 12, 13, 14, 15, 16, 17, 18, 25, 26, 28, 31, 32, 33, 34].contains pt

/-- R147. -/
def ImgIn.badCis (m : ImgIn) : Bad :=
  m.badEnts S.CISTERNS (fun _ o _ =>
    let delay := bits o 64 13
    let slots := bits o 128 14
    let dd := if cAdapt o then cDelayMax o else delay
    bits o 8 3 == 7 || !inR 1 (cChannels o) 16 || cTsPer o == 0 || !inR 1 delay 8000 || !inR 1 slots 8192 || !inR 1 (cSlotsMax o) 8192 ||
      !inR 2 (cSlotWords o) 256 || !inR 1 (cReorder o) 64 || !inR 4 (cEstWin o) 12 || 8000 < cConcealMax o || !inR 1 (cGone o) 8000 ||
      cJumpTs o == 0 || decide (cSlotsMax o < slots) ||
      (cAdapt o && (!inR (cDelayMin o) delay (cDelayMax o) || cSample o)) ||
      (cSample o && (List.range 4).any (fun k => bit o (23 + 8 * k) && notLinearPt (bits o (16 + 8 * k) 7))) ||
      !m.inPart 2 (cBase o, cSlotsMax o * cSlotWords o) ||
      decide (slots < ceilDiv (dd * cRate o) (8000 * cTsPer o) + cReorder o))

/-- R169 and R335. -/
def ImgIn.badEgress (m : ImgIn) (d : Dev) : Bad :=
  m.badEnts S.EGRESS (fun _ o _ =>
    ePeriod o == 0 || decide (ePeriod o ≤ ePhase o) || decide (156249 < eLaunch o) || !inR 42 (eTemplate o false).2 128 ||
      (eDual o && !inR 42 (eTemplate o true).2 128) || [3, 5, 7].contains (bits o 10 3) ||
      (!eSuppress o && (match m.obj S.QUEUES (eInQ o) with
        | none => false
        | some q => bits (m.word d (qIdle q + 1)) 48 12 == 0)))

/-! ### Conversion (R192, R201, R208) -/

/-- Coefficients of the memory, and of a prototype (R181). -/
def coefWords : Nat := 524288
/-- The coefficients of a prototype. -/
def protoLen : Nat := 257 * 48

/-- The banks of a set. -/
def setSpans (o : Nat) : List (Nat × Nat) := [(sBank o false, sTaps o), (sBank o true, sTaps o)]

/-- The prototypes that the image holds. -/
def Bank.protoSpans (b : Bank) : List (Nat × Nat) := (b.proto.filter (· != 0xFFFFFFFF)).map (fun p => (p, protoLen))

/-- R201. -/
def ImgIn.badSets (m : ImgIn) : Bad :=
  m.badEnts S.SETS (fun _ o k =>
    !inR 1 (sTaps o) 4096 || 8 < sGain o || overlap (sBank o false, sTaps o) (sBank o true, sTaps o) ||
      (setSpans o).any (fun s => !inside s (0, coefWords) || m.bank.protoSpans.any (overlap s) ||
        (m.before S.SETS k).any (fun x => (setSpans x.2).any (overlap s))))

/-- The runs of coefficients (R489) and the prototypes (R201). -/
def ImgIn.badCoefs (m : ImgIn) : Bad :=
  ((m.bank.proto.zipIdx.filter (fun (x : Nat × Nat) => x.1 != 0xFFFFFFFF && !inside (x.1, protoLen) (0, coefWords))).map (fun x => (13, 16 + 4 * x.2))) ++
  ((m.coefs.filter (fun r => r.data.length != 3 * r.count ||
    !(m.bank.protoSpans ++ (m.bank.sec S.SETS).flatMap (fun x => setSpans x.2)).any (inside (r.addr, r.count)))).map (fun r => (13, r.ofs)))

/-- The output rates at which a chain runs its sets: set and samples per stroke. -/
def chainSets (o : Nat) : List (Nat × Nat) :=
  (if hSet1En o then [(hSet1 o, hOutN o * hM2 o)] else []) ++ (if hSet2En o then [(hSet2 o, hOutN o)] else [])

/-- FIR work of a chain in MACs per stroke (R192). -/
def ImgIn.firWork (m : ImgIn) (o : Nat) : Nat :=
  ((chainSets o).map (fun x =>
    let s := m.objD S.SETS x.1
    hMembers o * x.2 * sTaps s * (if sXfMax s = 0 then 1 else 2))).sum

/-- The input rate of a direct source: bits, or words, per stroke (R192, R452). -/
def ImgIn.srcRate (m : ImgIn) (o : Nat) : Nat :=
  if hSrc o = 1 then match m.obj S.BSD (16 + hSrcIdx o) with
    | none => 0
    | some i => bits (m.objD S.BSD (bits i 1 2)) 2 11
  else 125

/-- R192 of one chain, but for what it shares. -/
def ImgIn.chainBad (m : ImgIn) (o : Nat) : Bool :=
  let k := hCicK o
  hSrc o == 3 || (hSrc o == 2 && 3 < hSrcIdx o) || !inR 1 (hMembers o) 64 || !([0, 3, 4, 5].contains k) ||
    (k != 0 && (!inR 8 (bits o 51 9) 256 || decide (40 < (hShift o).natAbs))) ||
    (hSet1En o && !inR 1 (bits o 73 5) 16) || (hSet2En o && !inR 1 (bits o 84 5) 16) || !inR 1 (hOutN o) 96 ||
    (hSrc o != 0 && (k == 0 || hMembers o != 1 || m.srcRate o != hOutN o * hDecim o)) ||
    (hSrc o == 0 && k != 0) || (hSet2En o && !hSet1En o) || (hSettle o && (k == 0 || hOutN o % 4 != 0))

/-- R192. -/
def ImgIn.badChains (m : ImgIn) : Bad :=
  m.badEnts S.CHAINS (fun _ o k =>
    m.chainBad o ||
      (m.before S.CHAINS k).any (fun x => (chainSets x.2).any (fun a => (chainSets o).any (fun b => a.1 == b.1 && a.2 != b.2))) ||
      decide (9600000 < (((m.before S.CHAINS k).map (fun x => m.firWork x.2)).sum + m.firWork o)))

/-- R208 of one lane, but for its group. -/
def ImgIn.laneBad (m : ImgIn) (o : Nat) : Bool :=
  let c := m.obj S.CISTERNS (lCis o)
  let cb := c.getD 0
  let fi := if lFixed o then lIrate o else cRate cb
  let fo := 8000 * lN o
  let dc := if cAdapt cb then cDelayMax cb else bits cb 64 13
  let lead := ceilDiv (24 * 8000) fi
  5 < bits o 3 3 || (if lFixed o then bits o 6 3 == 7 else bits o 6 3 != 0) || !inR 1 (lLat o) 64 || !inR 8 (bits o 155 4) 13 ||
    decide (256 * lDMax o < lDInit o) || decide (2 * fo < fi) || decide (12 * fi < fo) ||
    (!lFixed o && (c.isNone || !cSample cb || cOutQ cb != lInQ o || decide (cChannels cb ≤ lCh o) || decide (lLat o < dc + lead + 1))) ||
    (lFixed o && decide (lLat o < lead + 2)) ||
    decide (lHistLen o < ceilDiv (fi * ((lLat o + 1) * lN o + lDMax o) * 513) (8000 * lN o * 512) + 48)

/-- R208. -/
def ImgIn.badLanes (m : ImgIn) : Bad :=
  m.badEnts S.LANES (fun _ o k =>
    m.laneBad o || (m.before S.LANES k).any (fun x => lOutQ x.2 == lOutQ o && (lN x.2 != lN o || lOutSlot x.2 == lOutSlot o)))

/-! ### Tones (R336, R338, R345, R346) -/

/-- Units of a slot: one at 8 kHz, two at 16 kHz, six at 48 kHz (R336). -/
def toneUnits (o : Nat) : Nat := [1, 2, 6].getD (toRate o) 6

/-- R336, R338 and R345 of detector slots. -/
def ImgIn.badDets (m : ImgIn) (d : Dev) : Bad :=
  m.badEnts S.DET (fun _ o k =>
    toRate o == 3 || (bit (tdMask o) 1 && pgNseg (m.prog d (256 + tdProf o)) == 0) ||
      (tdRepEn o && decide (qSlotWords (m.objD S.QUEUES (tdRepQ o)) < 4)) ||
      decide (16384 < ((m.before S.DET k).map (fun x => toneUnits x.2)).sum + toneUnits o))

/-- R338: a state group holds 1 to 1,024 channels. -/
def ImgIn.badGrps (m : ImgIn) : Bad := m.badEnts S.GRP (fun _ o _ => !inR 1 (bits o 16 11) 1024)

/-- R336 and R346. -/
def ImgIn.badGens (m : ImgIn) : Bad :=
  m.badEnts S.GEN (fun _ o k =>
    toRate o == 3 || (m.before S.GEN k).any (fun x => tgOutQ x.2 == tgOutQ o && (tgInNone x.2 != tgInNone o || (!tgInNone o && tgInQ x.2 != tgInQ o))) ||
      decide (8192 < ((m.before S.GEN k).map (fun x => toneUnits x.2)).sum + toneUnits o))

/-! ### Compression (R371) -/

/-- R371 of one stream's fields. -/
def cmpFieldsBad (o : Nat) : Bool :=
  !inR 1 (kCh o) 64 || 5 < kRate o || kB o == 0 || decide (16384 < kCh o * kB o * rateSpp (kRate o)) ||
    (if kDec o then kCap o != 0 || !inR 2 (kDlat o) 511 || !inR 2 (kRing o) 1023 || decide (kDlat o < kB o + 1) || decide (kRing o < kDlat o + kB o)
     else kDlat o != 0 || kRing o != 0 || (if kPolicy o then decide (kCap o < 24) else kCap o != 0))

/-- R371 of a stream's output queue. -/
def ImgIn.cmpQueueBad (m : ImgIn) (o : Nat) : Bool :=
  match m.obj S.QUEUES (kOutQ o) with
  | none => true
  | some q =>
    if kDec o then !qPosted q
    else
      let f := ceilDiv (cmpBlkBytes o) (max 1 ((qSlotWords q - 2) * 9))
      qPosted q || decide (qSlots q < f) ||
        (qConsNode q == 1 && qConsPort q == 0 && (decide (1 < f) ||
          (m.bank.sec S.EGRESS).any (fun e => eInQ e.2 == kOutQ o && (ePeriod e.2 != kB o || !eSuppress e.2))))

/-- R371. -/
def ImgIn.badCmp (m : ImgIn) : Bad :=
  m.badEnts S.CMP (fun _ o k =>
    cmpFieldsBad o || m.cmpQueueBad o || !m.inPart 4 (cmpSpan o) || (m.before S.CMP k).any (fun x => overlap (cmpSpan x.2) (cmpSpan o)))

/-! ### Ports and triggers (R406, R433, R441, R449, R452) -/

/-- R433. -/
def ImgIn.badEth (m : ImgIn) : Bad := m.badEnts S.ETH (fun _ o _ => bits o 2 2 == 3 || (!bit o 1 && bits o 2 2 == 2))

/-- R441 of a port descriptor. -/
def ImgIn.badTdm (m : ImgIn) : Bad :=
  m.badEnts S.TDM (fun _ o _ =>
    let fmt := bits o 2 2
    fmt == 3 || !inR 1 (tSlots o) 64 || decide (49152000 < tSlots o * tSlotBits o * tF o * 8000) ||
      ((fmt == 1 || fmt == 2) && tSlots o % 2 == 1) || decide (125000 ≤ tOfs o * tF o))

/-- R449. -/
def ImgIn.badMadi (m : ImgIn) : Bad := m.badEnts S.MADI (fun _ o _ => decide (20833 < bits o 4 15))

/-- R452. -/
def ImgIn.badBsd (m : ImgIn) : Bad := m.badEnts S.BSD (fun i o _ => decide (i < 4) && !inR 128 (bits o 2 11) 1536)

/-- The line that a group serves (log entry 32). -/
def ImgIn.groupLine (m : ImgIn) (o : Nat) : Bool × Nat :=
  let q := m.objD S.QUEUES (grQueue o)
  let madi := decide (32 ≤ (if grTx o then qConsPort q else qProdPort q))
  (madi, grPort madi o)

/-- R441 and R449 of a group: its slots, its law and its queue. -/
def ImgIn.groupBad (m : ImgIn) (o : Nat) : Bool :=
  let l := m.groupLine o
  let p := m.objD (if l.1 then S.MADI else S.TDM) l.2
  let n := if p = 0 then 0 else if l.1 then (if bit p 1 then 56 else 64) else tSlots p
  let q := m.objD S.QUEUES (grQueue o)
  !inR 1 (grCount o) 64 || grLaw o == 3 || decide (n < grFirst o + grCount o) || (grLaw o != 0 && (l.1 || tSlotBits p != 8)) ||
    (grTx o && !(qConsNode q == 79 && qConsPort q == (if l.1 then 32 + l.2 else l.2)))

/-- R440, R441 and R449. -/
def ImgIn.badGroups (m : ImgIn) : Bad :=
  m.badEnts S.GROUPS (fun _ o k =>
    let mates := (m.before S.GROUPS k).filter (fun x => grTx x.2 == grTx o && m.groupLine x.2 == m.groupLine o)
    m.groupBad o || mates.any (fun x => overlap (grFirst x.2, grCount x.2) (grFirst o, grCount o)) || decide (8 ≤ mates.length))

/-- The bits of [63:32] that belong to a TARGET (R406). -/
def trigMask (target : Nat) : Nat :=
  match target with
  | 1 => 2 ^ 28 - 1
  | 2 => 2 ^ 8 - 1
  | 3 => 2 ^ 18 - 1
  | 4 => 2 ^ 21 - 1
  | _ => 0

/-- R345 and R406. -/
def ImgIn.badTrigs (m : ImgIn) (d : Dev) : Bad :=
  m.badEnts S.TRIGGERS (fun _ o k =>
    let t := gTarget o
    4 < t || (t == 1 && decide (gPwNs o < 4)) || bits o 32 32 != (bits o 32 32 &&& trigMask t) ||
      (t == 1 && (m.before S.TRIGGERS k).any (fun x => gTarget x.2 == 1 && bits x.2 56 3 == bits o 56 3 && bit x.2 59 != bit o 59)) ||
      (t == 4 && pgNseg (m.prog d (bits o 45 8)) == 0))

/-- Step 5 of R493: where the image fails a field rule, in ascending section. -/
def ImgIn.invalid (m : ImgIn) (d : Dev) : Bad :=
  let at' := fun (ty : Nat) (l : Bad) => m.badIndex ty ++ l
  m.badCertIndex ++ at' 2 m.badParts ++ m.badPacks ++ at' 4 m.badCells ++ at' 5 (m.badTasks d) ++ m.badPresets d ++ at' 7 m.badQueues ++
    at' 8 m.badRoutes ++ m.badPkt ++ at' 10 m.badCis ++ at' 11 (m.badEgress d) ++ at' 12 m.badSets ++ m.badCoefs ++ at' 14 m.badChains ++
    at' 15 m.badLanes ++ at' 16 (m.badDets d) ++ at' 17 m.badGrps ++ at' 18 m.badGens ++ at' 19 m.badCmp ++ at' 20 m.badEth ++ at' 21 m.badTdm ++
    at' 22 m.badMadi ++ at' 23 m.badBsd ++ at' 24 m.badGroups ++ at' 25 (m.badTrigs d)

/-- The first failure: of one section, that of the lowest offset. -/
def firstBad (l : Bad) : Option (Nat × Nat) :=
  match l with
  | [] => none
  | x :: r => some (r.foldl (fun a b => if b.1 < a.1 ∨ (b.1 = a.1 ∧ b.2 < a.2) then b else a) x)

end Sys2Proof.Machine
end

