-- ==== Sys2Proof/Machine/EventRows.lean ====
section
/-! DEFINITION. The commands of the event controller and the global registers: MSI-X messages (R605, R607), injections (R608), doorbells and the
software event (R609, R616), PCIe configuration space as far as it holds messages (R605), and the writes of EVT registers that R604 guards. -/

namespace Sys2Proof.Machine

/-! ### MSI-X (R605) -/

/-- A due message of vector `v` goes to the PBA: its mask bit or the function mask is set. -/
def Dev.vecMasked (d : Dev) (v : Nat) : Bool := d.pcie.funcMask || d.flag (R.PCIE_MSIX_CTL_MASK v)

/-- Messages are held: MSI-X disabled, bus mastering off, the link not in L0 or L1, or EVT_CTL.MSIX_EN 0. -/
def Dev.msgHold (d : Dev) : Bool :=
  !d.pcie.msixEn || !d.pcie.busMaster || !d.flag R.PCIE_STAT_LINK_UP || !d.flag R.EVT_CTL_MSIX_EN

/-- Vector `v` is due, and nothing keeps its message back. -/
def Dev.sendable (d : Dev) (v : Nat) : Bool := (kvGet v d.msix.due).isSome && !d.vecMasked v && !d.msgHold

/-- A lower vector fell due in the same cycle and its message may go: it goes first (R607). -/
def Dev.lowerFirst (d : Dev) (v : Nat) : Bool :=
  d.msix.due.any (fun x => decide (x.1 < v) && kvGet v d.msix.due == some x.2 && d.sendable x.1)

/-- One message is sent to the vector's entry of the MSI-X table (R605); the reply shows its address and data. -/
def Dev.msixSend (d : Dev) (v : Nat) : Dev :=
  if d.sendable v && !d.lowerFirst v then
    { d with msix := { d.msix with due := kvDel v d.msix.due },
             reply := { d.reply with
               words := [R.PCIE_MSIX_LO_A v, R.PCIE_MSIX_HI_A v, R.PCIE_MSIX_DATA_D v].map (fun f => BitVec.ofNat 32 (d.get f)), flag := true } }
  else d

/-- A due vector's message (R605). -/
def execMsixSend (w : When) (vec : Nat) (s : State) : Out := s.runMain w (·.msixSend vec)

/-- EVT_STAT.MSG_HELD (R618): a due message is held. -/
def Dev.msgHeld (d : Dev) : Bool := d.msgHold && d.msix.due.any (fun x => !d.vecMasked x.1)

/-- A word of the PBA (R605, R468). -/
def Dev.pba (d : Dev) (k : Nat) : Nat :=
  d.msix.due.foldl (fun x p => if p.1 / 32 = k ∧ d.vecMasked p.1 then x + 2 ^ (p.1 % 32) else x) 0

/-- What a host writes in configuration space: MSI-X enable, function mask and bus mastering (R605), the largest payload and read request and ASPM L1 (R463). A size
that the endpoint does not support leaves the one in force: DESIGN CHOICE (unsafe, log entry 142). -/
def execPcieConfigWrite (w : When) (msixEnable funcMask : Bool) (ctl : PcieCtl) (s : State) : Out :=
  let ok := fun (n was : Nat) => if [128, 256, 512].contains n then n else was
  s.runMain w (fun d => { d with pcie := { msixEn := msixEnable, funcMask := funcMask, busMaster := ctl.busMaster, mps := ok ctl.mps d.pcie.mps, mrrs := ok ctl.mrrs d.pcie.mrrs
                                           aspmL1 := ctl.aspmL1 } })

/-- Device ID and Revision ID in configuration space (R463). -/
def pcieIds : Nat × Nat := (0x8200, 0xB1)

/-! ### Injections, doorbells and the software event (R608, R609, R616) -/

/-- A write of EVT_INJECT (R608): the event is raised without a record and without a fatal treatment. -/
def Dev.inject (d : Dev) (req : Requester) (val : Nat) : Dev :=
  if !d.oper req then d.denied
  else
    let n := bits val 0 8
    if evReserved n then d.set R.EVT_STAT_INJ_ERR 1
    else { d.count R.EVT_INJ_CNT_COUNT with evs := d.evs ++ [{ num := n, inj := true }] }

/-- A write of EVT_INJECT (R608). -/
def execEvtInject (w : When) (req : Requester) (val : Word) (s : State) : Out := s.runReq w req (·.inject req val.toNat)

/-- A write of GLB_DB_H2F, from HOST only (R609, R616). -/
def Dev.doorbellH (d : Dev) (req : Requester) (val : Nat) : Dev :=
  if req != .host || !d.oper req then d.denied else (d.set R.GLB_DB_H2F_MSG val).ev E.HOST_DOORBELL

/-- A write of GLB_DB_H2F (R616). -/
def execHostDoorbell (w : When) (req : Requester) (val : Word) (s : State) : Out := s.runReq w req (·.doorbellH req val.toNat)

/-- A write of GLB_DB_F2H, from FW only (R609, R616). -/
def Dev.doorbellF (d : Dev) (req : Requester) (val : Nat) : Dev :=
  if req != .fw then d.denied else (d.set R.GLB_DB_F2H_MSG val).ev E.FW_DOORBELL

/-- A write of GLB_DB_F2H (R616). -/
def execFwDoorbell (w : When) (req : Requester) (val : Word) (s : State) : Out := s.runReq w req (·.doorbellF req val.toNat)

/-- A write of GLB_SW_EVT (R609, R616). -/
def Dev.swEvt (d : Dev) (req : Requester) (val : Nat) : Dev :=
  if !d.oper req then d.denied else (d.set R.GLB_SW_EVT_CODE val).ev E.SW_EVENT

/-- A write of GLB_SW_EVT (R616). -/
def execSwEvent (w : When) (req : Requester) (val : Word) (s : State) : Out := s.runReq w req (·.swEvt req val.toNat)

/-! ### What EVT registers read live, and their guarded writes (R604, R606, R617, R618) -/

/-- ALERT_N is driven low (R606). -/
def Dev.alertLow (d : Dev) : Bool := d.flag R.EVT_CTL_ALERT_EN && (List.range 8).any (fun k => d.get (R.EVT_APEND_BITS k) != 0)

/-- FAULT_N is driven low (R565, R595). -/
def Dev.faultLow (d : Dev) : Bool := d.flag R.SUMP_STAT_FAULT || d.cal.tempCrit

/-- Core `c`'s machine external interrupt is asserted (R604). -/
def Dev.coreIrq (d : Dev) (c : Nat) : Bool :=
  bit (d.get R.EVT_CTL_CORE_EN) c && (List.range 8).any (fun k => d.get (R.EVT_CPEND_BITS c k) != 0)

/-- The lowest set bit of a bitmap of eight words, 256 where none is set (R604). -/
def Dev.lowestBit (d : Dev) (f : Nat → Fld) : Nat := ((List.range 256).find? (fun e => bit (d.get (f (e / 32))) (e % 32))).getD 256

/-- A field that only FW writes: a HOST write leaves it, and is counted where it would change it (R604). -/
def Dev.setFwField (d : Dev) (req : Requester) (f : Fld) (v : Nat) : Dev :=
  if req == .fw then d.set f v else if d.get f = v then d else d.denied

/-- A write of EVT_ROUTE[e] (R604, R610, R617). -/
def Dev.routeWrite (d : Dev) (req : Requester) (e val : Nat) : Dev :=
  if !d.oper req then d.denied
  else if evReserved e then d
  else
    let d := d.each [R.EVT_ROUTE_CORES e, R.EVT_ROUTE_VEC e, R.EVT_ROUTE_MSIX e, R.EVT_ROUTE_ALERT e] Dev.markOld
    let d := d.setFwField req (R.EVT_ROUTE_CORES e) (bits val 0 4)
    ((d.set (R.EVT_ROUTE_VEC e) (bits val 4 8)).set (R.EVT_ROUTE_MSIX e) (bits val 12 1)).set (R.EVT_ROUTE_ALERT e) (bits val 13 1)

/-- A write of EVT_HPEND[k]. A bit that is raised in the cycle of its clear ends set, and its vector becomes due again (R605, R612). -/
def Dev.hpendWrite (d : Dev) (req : Requester) (k val : Nat) : Dev :=
  if !d.oper req then d.denied
  else
    let d := d.clearBits (R.EVT_HPEND_BITS k) val
    d.each (List.range 32) (fun d i =>
      if bit val i && bit (d.get (R.EVT_HPEND_BITS k)) i && d.before (R.EVT_ROUTE_MSIX (32 * k + i)) == 1 then d.vecDue (d.before (R.EVT_ROUTE_VEC (32 * k + i))) else d)

/-- A write of EVT_CTL (R604, R618). -/
def Dev.evtCtlWrite (d : Dev) (req : Requester) (val : Nat) : Dev :=
  if !d.oper req then d.denied
  else
    let d := d.setFwField req R.EVT_CTL_CORE_EN (bits val 0 4)
    (d.set R.EVT_CTL_MSIX_EN (bits val 4 1)).set R.EVT_CTL_ALERT_EN (bits val 5 1)

end Sys2Proof.Machine
end

