-- ==== Sys2Proof/Machine/Pins.lean ====
section
/-! DEFINITION. The output pins: the output framers of the timing unit (R420, R421), and what each pin group drives in every state of the part (R36, R40, R454,
R455). -/

namespace Sys2Proof.Machine

/-! ### The output framers (R420, R421) -/

/-- The framers of the outputs that an image enables (R420). The sections of R486 do not say where an image holds their settings (log entry 7). -/
def outsOf (h : BitVec 384) : Kv OutRt :=
  let c := Config.outCfg h
  let all : Kv OutRt :=
    [(0, { rate := 1, wide := some (1 + c 0 % 500000), ofs := ((c 1 % 1000000001 : Nat) : Int) - 500000000 }), (1, { rate := 10000000 })] ++
      [0, 1, 2, 3].map (fun k => (2 + k, { rate := wclkRate (c (2 + k) % 9), ofs := signedOf 32 (c (6 + k)) }))
  all.filter (fun x => bit (Config.outEn h).toNat x.1)

/-- The nominal instant of edge `i`, rising or falling, in 1 / (2 rate) ns since the TAI epoch (R420). -/
def OutRt.inst (o : OutRt) (fall : Bool) (i : Int) : Int :=
  2 * (i * 10 ^ 9 + o.ofs * (o.rate : Int)) +
    (if fall then (match o.wide with
      | some w => 2 * ((o.rate * w * 1000 : Nat) : Int)
      | none => 10 ^ 9) else 0)

/-- The ideal instant of the boundary that house time numbers `k`, with phase offset `phase` in 2^-16 ns, in 1 / (131,072 rate) ns (R43). -/
def OutRt.start (o : OutRt) (phase : Nat) (k : Int) : Int := 2 * (o.rate : Int) * (k * 8192000000 + (phase : Int))

/-- The instant of edge `i` after the ideal boundary, in 1 / (131,072 rate) ns. -/
def OutRt.after (o : OutRt) (phase : Nat) (k : Int) (fall : Bool) (i : Int) : Int := 65536 * o.inst fall i - o.start phase k

/-- The edges that fall in the stroke which house time numbers `k`: the first, and how many. -/
def OutRt.edges (o : OutRt) (phase : Nat) (k : Int) (fall : Bool) : Int × Nat :=
  let c := o.after phase k fall 0
  let m : Int := 131072000000000
  let first := -(c / m)
  (first, (-((c - 2 * (o.rate : Int) * 8192000000) / m) - first).toNat)

/-- The place of edge `i` after the stroke boundary, in units of 250 ps of the DCO (R421). The nearest place is taken, the even one of two: DESIGN CHOICE (unsafe,
log entry 117). -/
def OutRt.place (o : OutRt) (phase : Nat) (k : Int) (fall : Bool) (i : Int) : Int := roundEven (4 * o.after phase k fall i) (131072 * o.rate)

/-- The number that house time gives the ideal boundary of the present stroke (R43, R641). -/
def Dev.houseNum (d : Dev) : Int := (d.org.num : Int) - signedOf 32 (d.get R.STK_NUM_BIAS_BIAS)

/-- The framers take the settings of an image (R420). -/
def Dev.outsLoad (d : Dev) (b : Bank) : Dev := d.onTim (fun x => { x with outs := outsOf b.hash })

/-- The framers find the edges of the stroke that begins (R421). They run in every state of R36, in the keep-alive domain. -/
def Dev.outsBoundary (d : Dev) : Dev :=
  let k := d.houseNum
  let ph := d.org.phase
  d.onTim (fun x => { x with outs := x.outs.map (fun (o : Nat × OutRt) => (o.1, { o.2 with rise := o.2.edges ph k false, fall := o.2.edges ph k true })) })

/-- The place of rising edge `j` of a stroke on BSD_CLK output `c`, in units of 250 ps after the boundary (R452). -/
def Dev.bsdEdge (d : Dev) (c j : Nat) : Option Int := (d.obj S.BSD c).bind (fun o =>
  if bit o 1 || decide (bits o 2 11 ≤ j) then none else some (roundEven (500000 * j : Nat) (bits o 2 11)))

/-! ### What a pin drives (R36, R40, R409, R454, R455) -/

/-- The output pin groups of R455. -/
inductive PinGroup where
  | tdmClk (p : Nat)
  | tdmOut (p : Nat)
  | madiTx (m : Nat)
  | timeOut (o : Nat)
  | conv (k : Nat)
  | bsdClk (c : Nat)
  | ethTx (p : Nat)
  deriving DecidableEq, Repr, Inhabited

/-- What a pin group does: high impedance, with its weak pull-down or without, running, idle values, a level, electrical idle, or what the boundary register says of each of its pins, `none` for
high impedance (R473); the pins of a bank that is not powered are absent (R621). -/
inductive Drive where
  | pullDown
  | hiZ
  | running
  | idle
  | level (high : Bool)
  | elecIdle
  | boundary (pins : List (Option Bool))
  | absent
  deriving DecidableEq, Repr, Inhabited

/-- POR, a cold pin reset and D3: the keep-alive domain is in reset (R512, R515, R543). -/
def Dev.pinsOff (d : Dev) : Bool := !d.rst.kaUp

/-- Warm pin reset, recovery mode and D2. -/
def Dev.pinsKeep (d : Dev) : Bool := !d.rst.mainUp || d.flag R.RST_STAT_RECOVERY

/-- The PIN units of a CONV_START pin (R406). -/
def Dev.pinUnits (d : Dev) (k : Nat) : List (Nat × Nat) := (d.bank.sec S.TRIGGERS).filter (fun x => gTarget x.2 == 1 && bits x.2 56 3 == k)

/-- The level of a CONV_START pin: active while the pulse of any of its units is (R409). -/
def Dev.convLevel (d : Dev) (k : Nat) : Bool :=
  let us := d.pinUnits k
  let low := us.any (fun x => bit x.2 59)
  xor low (us.any (fun x => (kvGet x.1 d.tim.pulses).isSome))

/-- The VDDIO bank of a pin group (R627). -/
def PinGroup.bank : PinGroup → Option Nat
  | .tdmClk p | .tdmOut p => some (p / 16)
  | .madiTx _ | .timeOut _ | .conv _ | .bsdClk _ => some 2
  | .ethTx _ => none

/-- The bank of a pin group is not powered: its pins are absent (R621, R637; log entry 125). -/
def Dev.pinAbsent (d : Dev) (g : PinGroup) : Bool := match g.bank with
  | none => false
  | some b => !bit d.rst.banks.toNat b

/-- What an output pin group of a powered bank does (R455); DOUT of a lost line is low (R447). A line is configured once it has a descriptor, a CONV_START pin once a PIN unit names it, the other groups once the
active image has their object. An Ethernet port in block reset is at electrical idle: DESIGN CHOICE (unsafe, log entry 117). -/
def Dev.driveOf (d : Dev) : PinGroup → Drive
  | .tdmClk p =>
    let l := d.line false p
    if d.pinsOff then .pullDown else if l.valid && !tSlave l.desc then .running else .hiZ
  | .tdmOut p =>
    let l := d.line false p
    if d.pinsOff then .pullDown else if !l.valid then .hiZ
    else if l.lost then .level false
    else if d.pinsKeep || l.txIdle || d.isolated (.tdm p) then .idle else .running
  | .madiTx m =>
    let l := d.line true m
    if d.pinsOff then .pullDown else if !l.valid || !l.txOn true then .hiZ
    else if d.pinsKeep || l.txIdle || d.isolated (.madi m) then .idle else .running
  | .timeOut o => if d.pinsOff then .pullDown else if (kvGet o d.tim.outs).isSome then .running else .hiZ
  | .conv k =>
    if d.pinsOff || d.pinsKeep then .pullDown else if (d.pinUnits k).isEmpty then .hiZ else .level (d.convLevel k)
  | .bsdClk c =>
    if d.pinsOff || d.pinsKeep then .pullDown
    else match d.obj S.BSD c with
      | none => .hiZ
      | some o => if bit o 1 then .hiZ else if d.isolated .bsd then .level false else .running
  | .ethTx p => if d.pinsOff || d.pinsKeep || (d.obj S.ETH p).isNone || d.isolated (.eth p) then .elecIdle else .running

/-- What an output pin group does (R455, R621). -/
def Dev.drive (d : Dev) (g : PinGroup) : Drive := if d.pinAbsent g then .absent else d.driveOf g

/-- The management pins that the part drives. -/
inductive MgmtPin where
  | alertN
  | faultN
  | wdogN
  | uartTx
  | qspi
  | i2c
  deriving DecidableEq, Repr, Inhabited

/-- What a management pin does: ALERT_N (R606), FAULT_N (R565, R595) and WDOG_N (R536, R537) are open-drain, low or released; the UART, the QSPI and the I²C run with the main
domain (R470 to R472, R513), the I²C open-drain. -/
def Dev.mgmtDriveOf (d : Dev) : MgmtPin → Drive
  | .alertN => if d.rst.mainUp && d.alertLow then .level false else .hiZ
  | .faultN => if d.faultLow then .level false else .hiZ
  | .wdogN => if d.rst.wdogN then .level false else .hiZ
  | .uartTx | .qspi => if d.pinsOff then .pullDown else if d.rst.mainUp then .running else .hiZ
  | .i2c => if d.rst.mainUp then .running else .hiZ

/-- The same, bank 3 not powered apart; WDOG_N is supplied from VBAT (R627, R628). -/
def Dev.mgmtDrive (d : Dev) (g : MgmtPin) : Drive := if g != .wdogN && !bit d.rst.banks.toNat 3 then .absent else d.mgmtDriveOf g

/-- The pins of a group, as a place among those that the boundary register covers: a number of the group and how many pins it has. -/
def PinGroup.pins : PinGroup → Nat × Nat
  | .tdmClk p => (p, 2)
  | .tdmOut p => (32 + p, 1)
  | .madiTx m => (64 + m, 1)
  | .timeOut o => (68 + o, 1)
  | .conv k => (74 + k, 1)
  | .bsdClk c => (82 + c, 1)
  | .ethTx p => (86 + p, 0)

/-- The same for a management pin. -/
def MgmtPin.pins : MgmtPin → Nat × Nat
  | .alertN => (90, 1)
  | .faultN => (91, 1)
  | .wdogN => (92, 1)
  | .uartTx => (93, 1)
  | .qspi => (94, 6)
  | .i2c => (95, 2)

/-- What the boundary register, as preloaded, says of pins: each has a cell for its level and one that enables it. Where they stand is in the BSDL file and free here (R473;
log entry 144). -/
def Jtag.pinLevels (j : Jtag) (g : Nat × Nat) : List (Option Bool) :=
  (List.range g.2).map (fun i => if j.preload.getD (Config.bsdlEnable g.1 i) false then some (j.preload.getD (Config.bsdlLevel g.1 i) false) else none)

/-- Pins that the boundary register covers while the test port may have taken them: EXTEST, CLAMP and HIGHZ put R36 and R455 aside (R473). -/
def Jtag.taken (j : Jtag) (g : Nat × Nat) (own : Drive) : Drive :=
  if own = .absent then .absent
  else match j.ir with
    | .extest | .clamp => .boundary (j.pinLevels g)
    | .highz => .hiZ
    | _ => own

/-- What an output pin group does while the test port may have taken the pins (R473): the boundary register covers every digital output, and no Ethernet lane. -/
def State.drive (s : State) (g : PinGroup) : Drive := match g with
  | .ethTx _ => s.dev.drive g
  | _ => s.jtag.taken g.pins (s.dev.drive g)

/-- What a management pin does while the test port may have taken the pins (R473). -/
def State.mgmtDrive (s : State) (g : MgmtPin) : Drive := s.jtag.taken g.pins (s.dev.mgmtDrive g)

/-- TDMn_DOUT drives a slot under the framing of `l`: a group's, or one that TRI_UNUSED leaves driven, with zero bits (R439, R455). -/
def Dev.slotDriven (d : Dev) (p slot : Nat) (l : LineRt) : Bool :=
  match d.drive (.tdmOut p) with
  | .running | .idle => (l.txGroup slot).isSome || !bit l.desc 35
  | _ => false

/-! ### The waveforms of a TDM port (R439, R442) -/

/-- BCLK periods in a frame: SLOTS × SLOT_BITS. -/
def LineRt.frameBits (l : LineRt) : Nat := l.n false * l.b false

/-- The start of BCLK period `j` of a stroke on a master port, in units of 250 ps after the boundary (R442, R421): the nearest place, the even one of two (log entry
117). -/
def LineRt.bclkEdge (l : LineRt) (j : Nat) : Int :=
  let n := max 1 (l.f false * l.frameBits)
  roundEven (4 * (l.ofs false * n + 125000 * j) : Nat) n

/-- BCLK in the first or the second half of a period: data is driven at the start of one, on the falling edge, or with BCLK_INV on the rising one (R439). -/
def LineRt.bclk (l : LineRt) (second : Bool) : Bool := xor second (bit l.desc 5)

/-- FS in BCLK period `i` of a frame: a pulse of one period for DSP, low for the first half for I2S, high for it for LJ; FS_INV inverts it (R439). -/
def LineRt.fsLevel (l : LineRt) (i : Nat) : Bool :=
  let half := decide (2 * i < l.frameBits)
  xor (bit l.desc 6) (match bits l.desc 2 2 with
    | 0 => decide (i = 0)
    | 1 => !half
    | _ => half)

/-- The nominal frame, the slot and the bit on the data lines in BCLK period `i` of nominal frame `n`: bits go most significant first, one period late for I2S and for
DSP with FS_LATE (R439). -/
def LineRt.dataAt (l : LineRt) (n i : Nat) : Nat × Nat × Nat :=
  let b := max 1 (l.b false)
  let x := n * l.frameBits + i - (if tLead l.desc then 1 else 0)
  let y := x % max 1 l.frameBits
  (x / max 1 l.frameBits, y / b, b - 1 - y % b)

/-- The framing of nominal frame `n` on a TDM port: that of the frame begun before a changeover for its own (R474). -/
def LineRt.framing (l : LineRt) (n : Nat) : LineRt := match l.tail with
  | some x => if n < l.base then { l with desc := x.desc, groups := x.groups } else l
  | none => l

/-- TDMn_DOUT in BCLK period `i` of nominal frame `n`: no level where it is not driven (R439, R445, R447). -/
def Dev.tdmDout (d : Dev) (p n i : Nat) : Option Bool :=
  let l := (d.line false p).framing n
  let (m, slot, k) := l.dataAt n i
  match d.drive (.tdmOut p) with
  | .level v => some v
  | _ => if d.slotDriven p slot l then some (bit ((d.lineFrame false p m).getD slot 0) k) else none

/-- The same while the test port may have taken the pins (R473). -/
def State.tdmDout (s : State) (p n i : Nat) : Option Bool := match s.drive (.tdmOut p) with
  | .boundary l => (l.head?).join
  | .hiZ | .absent => none
  | _ => s.dev.tdmDout p n i

end Sys2Proof.Machine
end

