-- ==== Sys2Proof/Machine/Image.lean ====
section
/-! DEFINITION. Loading a structure image and taking it over (R480 to R506): the checks of R493 after the field rules, the image commands, and the
changeover at the boundary of a named stroke. -/

namespace Sys2Proof.Machine

/-! ### Placement (R481, R252) -/

/-- The spans of the tone programs that are used, those with NSEG above 0, and of the call-progress profiles that a detector slot looks for (R341, R345, R487). -/
def Dev.progSpans (d : Dev) (b : Bank) : List (Nat × Nat) :=
  match (b.sec S.PARTITIONS).find? (fun x => pKind x.2 == 5) with
  | none => []
  | some x =>
    let at' := fun p => ((pSpan x.2).1 + 6 * p, 6)
    ((List.range 256).filter (fun p => bits (d.argWord (at' p).1) 63 4 != 0)).map at' ++
      ((List.range 16).filter (fun k => (b.sec S.DET).any (fun y => bit (tdMask y.2) 1 && tdProf y.2 == k))).map (fun k => at' (256 + k))

/-- The reservoir spans that a bank uses: queues and their idle items, cisterns, templates, argument blocks, successor lists and task windows, chain words, lane
histories, compression buffers and tone programs. -/
def Dev.usedSpans (d : Dev) (b : Bank) : List (Nat × Nat) :=
  (b.sec S.QUEUES).flatMap (fun x => [qSpan x.2, (qIdle x.2, hPlen (d.argWord (qIdle x.2)) + 1)]) ++
    (b.sec S.CISTERNS).map (fun x => (cBase x.2, cSlotsMax x.2 * cSlotWords x.2)) ++
    (b.sec S.EGRESS).flatMap (fun x => (if eDual x.2 then [eTemplate x.2 false, eTemplate x.2 true] else [eTemplate x.2 false]).map (fun t => (t.1, ceilDiv t.2 9))) ++
    (b.sec S.TASKS).flatMap (fun x =>
      [(tArg x.2, 3 + d.nIn x.2 + d.nOut x.2 + d.argWords x.2), (tSuccAddr x.2, ceilDiv (tSuccCount x.2) 4), (d.windows x.2).1]) ++
    (b.sec S.LANES).map (fun x => (lHist x.2, lHistLen x.2)) ++
    (b.sec S.CHAINS).map (fun x => d.chainSpan x.2) ++
    (b.sec S.CMP).map (fun x => cmpSpan x.2) ++
    d.progSpans b

/-- The coefficients that a bank uses. -/
def Bank.usedCoefs (b : Bank) : List (Nat × Nat) := b.protoSpans ++ (b.sec S.SETS).flatMap (fun x => setSpans x.2)

/-- The words of the preset runs as the loader stores them: tags clear, FIRST at each queue's IDLE_ADDR, LAST at IDLE_ADDR + PLEN (R489). -/
def ImgIn.presetWords (m : ImgIn) (d : Dev) (r : Run) : List (Nat × MWord) :=
  let idles := (m.bank.sec S.QUEUES).map (fun x => (qIdle x.2, qIdle x.2 + hPlen (m.word d (qIdle x.2))))
  (List.range r.count).map (fun k =>
    let a := r.addr + k
    (a, mkW (leAt r.data (9 * k) 9) (idles.any (fun i => i.1 == a)) (idles.any (fun i => i.2 == a)) false false))

/-- The coefficients of a run. -/
def Run.coefs (r : Run) : List (Nat × BitVec 24) := (List.range r.count).map (fun k => (r.addr + k, BitVec.ofNat 24 (leAt r.data (3 * k) 3)))

/-- Step 6 of R493: a run that changes words in use, or a cell whose code does not fit. -/
def ImgIn.placement (m : ImgIn) (d : Dev) : Option ImgErr :=
  let old := d.bank
  let used := if d.img.active.isSome then d.usedSpans old else []
  let coefs := if d.img.active.isSome then old.usedCoefs else []
  let badP := m.presets.find? (fun r => (m.presetWords d r).any (fun x => used.any (fun s => inside (x.1, 1) s) && kvD d.qf.res x.1 0 != x.2))
  let badC := m.coefs.find? (fun r => r.coefs.any (fun x => coefs.any (fun s => inside (x.1, 1) s) && kvD d.cnv.coef x.1 0 != x.2))
  let packsOf := fun (b : Bank) (o : Nat) => (List.range (cNPack o)).filterMap (fun k => b.packs.find? (fun p => p.id == cPackId o k))
  let full := ((m.bank.sec S.CELLS).zipIdx.find? (fun (x : (Nat × Nat) × Nat) =>
    let was := packsOf old ((old.obj S.CELLS x.1.1).getD 0)
    let new := (packsOf m.bank x.1.2).filter (fun p => !was.any (fun a => a.id == p.id && a.ver == p.ver && a.hash == p.hash))
    decide (32768 - cCodeBase x.1.2 < ((was ++ new).map Pack.codeWords).sum))).map (fun x => 16 + entryBytes 4 * x.2)
  match badP, badC, full with
  | some r, _, _ => some { code := 7, sec := 6, ofs := r.ofs }
  | none, some r, _ => some { code := 7, sec := 13, ofs := r.ofs }
  | none, none, some k => some { code := 8, sec := 4, ofs := k }
  | none, none, none => none

/-! ### Signatures, versions and packs (R250, R493) -/

/-- SIG of `l`, its last 96 bytes, verifies under a held key. -/
def sigOk (key : Option (BitVec 768)) (l : List Byte) : Bool :=
  match key with
  | none => false
  | some pub => ecdsaVerify pub (BitVec.ofNat 768 (beNat (l.drop (l.length - 96)))) (sha384 (l.take (l.length - 96)))

/-- A stepping, an ASCII letter and then a digit, is not above the device's (R493). -/
def Dev.stepOk (d : Dev) (x : Nat) : Bool :=
  decide (x % 256 * 256 + x / 256 ≤ d.get R.GLB_STEP_LETTER * 256 + d.get R.GLB_STEP_DIGIT)

/-- IMG_SVN_MIN, from the zone of the active installer key (R574). -/
def Dev.imgSvnMin (d : Dev) : Nat := (((if d.rotated then d.zone 6 else d.zone 3).map (fun c => bits c 384 16)).getD 0)

/-- KP_SVN_MIN, from zone MAKER_KEYS (R574). -/
def Dev.kpSvnMin (d : Dev) : Nat := ((d.zone 1).map (fun c => bits c 400 16)).getD 0

/-- A pack passes R250. -/
def Dev.packOk (d : Dev) (p : PackIn) : Bool :=
  let b := p.bytes
  leAt b 0 4 == 0x4B504B31 && leAt b 4 2 == 1 && inR 1 (leAt b 6 2) 1024 && inR 1 (leAt b 20 4) 24576 && sigOk d.sec.heldMaker b &&
    decide (d.kpSvnMin ≤ leAt b 18 2) && d.stepOk (leAt b 16 2)

/-- The packs that a cell record of a bank names. -/
def Bank.packsAt (b : Bank) (n : Nat) : List Pack :=
  let o := (b.obj S.CELLS n).getD 0
  (List.range (cNPack o)).filterMap (fun k => b.packs.find? (fun p => p.id == cPackId o k))

/-- The pack of an entry of a cell's code table. -/
def CodeRt.isPack (e : CodeRt) (p : Pack) : Bool := e.id == p.id && e.ver == p.ver && e.hash == p.hash

/-- The code words of a cell that no listed run holds, from `a` on, as runs: `n` words of them, or fewer where the region ends. -/
def freeRuns (used : List (Nat × Nat)) (a n : Nat) : Nat → List (Nat × Nat)
  | 0 => []
  | k + 1 =>
    if n = 0 ∨ 32768 ≤ a then []
    else match used.find? (fun r => decide (r.1 ≤ a ∧ a < r.1 + r.2)) with
      | some r => freeRuns used (r.1 + r.2) n k
      | none =>
        let e := used.foldl (fun e r => if a < r.1 then min e r.1 else e) 32768
        let m := min n (e - a)
        (a, m) :: freeRuns used (a + m) (n - m) k

/-- The code table of a cell without the packs that neither the active image uses there nor an instance that runs old code (R252, R500). -/
def Dev.codeKept (d : Dev) (n : Nat) : List CodeRt :=
  let old := d.pump.tasks.any (fun x => x.2.inst.any (fun i => i.old && tCell i.bits == n))
  (d.cell n).code.filter (fun e => old || (d.bank.packsAt n).any e.isPack)

/-- A pack is copied into the code region of each cell of the image that hosts it, unless it is resident there (R250, R252). It takes the lowest words
that are free: DESIGN CHOICE (unsafe, log entry 118). The words reach a cell that still wakes when it is ready (R269). -/
def ImgIn.packCopy (m : ImgIn) (d : Dev) (p : Pack) : Dev :=
  d.each (m.bank.sec S.CELLS) (fun d x =>
    if !(m.bank.packsAt x.1).any (fun q => q.id == p.id) then d
    else
      let kept := d.codeKept x.1 ++ (d.cell x.1).code.filter (fun e => !(d.codeKept x.1).contains e && (m.bank.packsAt x.1).any e.isPack)
      if kept.any (fun e => e.isPack p) then d
      else
        let e : CodeRt := { id := p.id, ver := p.ver, hash := p.hash, runs := freeRuns (kept.flatMap CodeRt.runs) (cCodeBase x.2) p.codeWords 32 }
        let c := { d.cell x.1 with code := kept ++ [e] }
        d.setCell x.1 (if d.get (R.CELL_STAT_PWR x.1) = 3 then c else c.putCode e.runs p.code))

/-- A pack that fails is a cause of the cells that host it; where none hosts it, only a sump record tells (R250; log entry 118). -/
def ImgIn.packFails (m : ImgIn) (d : Dev) (p : PackIn) : Dev :=
  let id := leAt p.bytes 8 4
  let hosts := (m.bank.sec S.CELLS).filter (fun x => (List.range (cNPack x.2)).any (fun k => cPackId x.2 k == id))
  if hosts.isEmpty then { d with evs := d.evs ++ [{ num := 224, code := 9, logs := true, silent := true }] }
  else d.each hosts (fun d x => d.cause x.1 0 (R.CELL_EVT_STAT_KPACK_ERR x.1) (R.CELL_EVT_EN_KPACK_ERR x.1))

/-- Step 7 of R493: the packs in their order; one that passes is copied, the first that fails ends the load. -/
def ImgIn.packStep (m : ImgIn) (d : Dev) : List PackIn → Option ImgErr × Dev
  | [] => (none, d)
  | p :: r => if d.packOk p then m.packStep (m.packCopy d p.pack) r else (some { code := 9, sec := 3, ofs := p.ofs }, m.packFails d p)

/-- Step 7 of R493. -/
def ImgIn.packCheck (m : ImgIn) (d : Dev) : Option ImgErr × Dev := m.packStep d m.packs

/-! ### The certificate (R80, R490) -/

/-- The flits of an item of a queue: four words each. -/
def ImgIn.flits (m : ImgIn) (q : Nat) : Nat := ceilDiv (qSlotWords (m.objD S.QUEUES q)) 4

/-- The cycle from which the items of a receive group are ready in the stroke that follows (R444): the one in which the last bit of its last slot in
the last frame ends, 64 cc more, for a slave half a frame later; 0 where that lies before the boundary. -/
def ImgIn.groupReady (m : ImgIn) (g : Nat) : Nat :=
  let l := m.groupLine g
  let p := m.objD (if l.1 then S.MADI else S.TDM) l.2
  let f := if l.1 then 6 else tF p
  let n := max 1 (if l.1 then (if bit p 1 then 56 else 64) else tSlots p)
  let b := if l.1 then 24 else tSlotBits p
  let ofs := if l.1 then bits p 4 15 else tOfs p
  let ext := l.1 || tSlave p
  let den := f * n * b
  let num := ofs * den + 125000 * (f - 1) * n * b + 125000 * (grFirst g + grCount g) * b + (if !l.1 && tLead p then 125000 else 0) + (if ext then 62500 * n * b else 0)
  num * 5 / (den * 4) + 64 - 156250

/-- The readiness of an input queue: that of the receive group that pushes it. -/
def ImgIn.queueReady (m : ImgIn) (q : Nat) : Nat :=
  ((m.bank.sec S.GROUPS).map (fun x => if !grTx x.2 && grQueue x.2 == q then m.groupReady x.2 else 0)).foldl max 0

/-- The successors of a task as the image gives them (R56). -/
def ImgIn.succs (m : ImgIn) (d : Dev) (o : Nat) : List Nat :=
  let es := (List.range (tSuccCount o)).map (fun k => bits (m.word d (tSuccAddr o + k / 4)) (18 * (k % 4)) 18)
  (es.filter (fun e => bit e 17)).map (fun e => e % 2 ^ 17)

/-- A class-L task in the timetable: its number, bits, its predecessors in class L, whether a task of another class precedes it, and the flits it stages and
drains. -/
structure TtTask where
  t : Nat
  o : Nat
  preds : List Nat
  outer : Bool
  stage : Nat
  drain : Nat
  ready : Nat
  deriving DecidableEq, Repr

/-- A task in a list by FD_SEQ. -/
def insTt (x : TtTask) : List TtTask → List TtTask
  | [] => [x]
  | a :: r => if tFdSeq x.o < tFdSeq a.o then x :: a :: r else a :: insTt x r

/-- The class-L tasks of each cell in ascending FD_SEQ. -/
def ImgIn.ttTasks (m : ImgIn) (d : Dev) : List (List TtTask) :=
  let edgesOf := fun (l : Bool) => ((m.bank.sec S.TASKS).filter (fun x => (tClass x.2 == 0) == l)).map (fun x => (x.1, m.succs d x.2))
  let edges := edgesOf true
  let outer := edgesOf false
  let mk := fun (x : Nat × Nat) =>
    let a := m.args d x.2
    let moved := fun (l : List (Nat × Nat × Nat)) => (l.map (fun y => y.2.1 * m.flits y.1)).sum
    { t := x.1, o := x.2, preds := (edges.filter (fun e => e.2.contains x.1)).map (·.1), outer := outer.any (fun e => e.2.contains x.1)
      stage := moved a.1, drain := moved a.2, ready := (a.1.map (fun y => m.queueReady y.1)).foldl max 0 : TtTask }
  (m.bank.sec S.CELLS).map (fun c =>
    (((m.bank.sec S.TASKS).filter (fun x => tClass x.2 == 0 && tCell x.2 == c.1)).map mk).foldl (fun l x => insTt x l) [])

/-- The worst-case release of a task, from the completions so far of its predecessors in class L; one of another class may complete in any cycle of a stroke (R63,
R80; log entry 48). -/
def TtTask.release (x : TtTask) (done : Kv Nat) : Nat :=
  if tPeriodic x.o && tDepInit x.o == 0 then 0
  else if x.outer then 156249
  else (x.preds.map (fun p => kvD done p 0)).foldl max 0

/-- One cell's sequence (R63, R80): each STAGE and DRAIN takes 384 cc a flit, each RUN BUDGET + 512 cc. -/
def ttCell (done : Kv Nat) (l : List TtTask) : Kv Nat :=
  (l.foldl (fun (s : Nat × Kv Nat) x =>
    let staged := max (max (x.release done) (tFdStart x.o)) x.ready + 384 * x.stage
    let ended := max staged s.1 + tBudget x.o + 512
    (ended, kvSet x.t (ended + 384 * x.drain) s.2)) (0, done)).2

/-- The timetable after `n` rounds over all cells. -/
def ttRun (cells : List (List TtTask)) : Nat → Kv Nat
  | 0 => []
  | n + 1 => cells.foldl ttCell (ttRun cells n)

/-- The claim of a cell holds (R490, KIND 1). -/
def ImgIn.cellClaim (m : ImgIn) (d : Dev) (cell value : Nat) : Bool :=
  let cells := m.ttTasks d
  let n := cells.flatten.length
  let done := ttRun cells (n + 1)
  let mine := (cells.flatten).filter (fun x => tCell x.o == cell)
  let v := bits value 0 18
  ttRun cells (n + 2) == done && mine.all (fun x => decide (x.release done ≤ tFdLatest x.o) && decide (kvD done x.t 0 ≤ v)) &&
    decide (v < cFdLen (m.objD S.CELLS cell))

/-- The links of a dimension-ordered route, x first (R16): the node that sends and the direction. -/
def routeLinks : Nat → Nat → Nat → List Nat
  | 0, _, _ => []
  | n + 1, a, b =>
    if a % 8 < b % 8 then linkKey a 0 0 :: routeLinks n (a + 1) b
    else if b % 8 < a % 8 then linkKey a 1 0 :: routeLinks n (a - 1) b
    else if a / 8 < b / 8 then linkKey a 2 0 :: routeLinks n (a + 8) b
    else if b / 8 < a / 8 then linkKey a 3 0 :: routeLinks n (a - 8) b
    else []

/-- The router outputs that a leg takes: its links, and at its end the output to the node itself (R113). -/
def legOutputs (a b : Nat) : List Nat := routeLinks 16 a b ++ [1280 + b]

/-- The largest sum of BURST at a router output, to a link or to a node (R113; R490, KIND 2). -/
def ImgIn.peakBurst (m : ImgIn) : Nat :=
  let sums : Kv Nat := (m.bank.sec S.ROUTES).foldl (fun s r =>
    let q := m.objD S.QUEUES (bits r.2 0 16)
    let port := 72 + bits r.2 16 3
    (legOutputs (qProdNode q) port ++ legOutputs port (qConsNode q)).foldl (fun s k => kvUpd 0 k (· + bits r.2 19 8) s) s) []
  (sums.map Prod.snd).foldl max 0

/-- Samples per stroke of the streams of a direction (R361). -/
def ImgIn.cmpLoad (m : ImgIn) (dec : Bool) : Nat :=
  (((m.bank.sec S.CMP).filter (fun x => kDec x.2 == dec)).map (fun x => kCh x.2 * rateSpp (kRate x.2))).sum

/-- Conferences and legs of the image's CONF tasks (R318, R350). -/
def ImgIn.confLoad (m : ImgIn) (d : Dev) : Nat × Nat :=
  let ps := (m.bank.sec S.TASKS).filterMap (fun x => match m.bank.kernel x.2 with
    | none => none
    | some ke =>
      let a := m.args d x.2
      if Config.isConf (bits ke 0 16) then some (m.word d (tArg x.2 + 3 + a.1.length + a.2.length)) else none)
  ((ps.map (fun w => bits w 4 11)).sum, (ps.map (fun w => bits w 25 14)).sum)

/-- The MT/s of DDR_CFG.SPEED (R477). -/
def Dev.ddrMts (d : Dev) : Nat := [3200, 3600, 4000, 4400, 4800].getD (d.get R.DDR_CFG_SPEED) 0

/-- One claim holds (R490). -/
def ImgIn.claimOk (m : ImgIn) (d : Dev) (kind obj v : Nat) : Bool :=
  match kind with
  | 1 => decide (obj ≤ 63) && m.cellClaim d obj v
  | 2 => obj == 0 && decide (m.peakBurst ≤ 17) && decide (m.peakBurst ≤ v)
  | 3 => decide (obj ≤ 4) && decide (v ≤ (if obj = 4 then 64000000 else 24000000))
  | 4 => obj == 0 && decide (bits v 0 18 ≤ 150000) && decide (bits v 18 18 ≤ 150000)
  | 5 => obj == 0 && decide (v ≤ 150000)
  | 6 => obj == 0 && decide (m.cmpLoad false ≤ bits v 0 16) && decide (m.cmpLoad true ≤ bits v 16 16) &&
      decide (bits v 0 16 ≤ 41666) && decide (bits v 16 16 ≤ 41666)
  | 7 => obj == 0 && decide (10 * bits v 0 32 ≤ 7 * 125 * d.ddrMts) && decide (10 * bits v 32 32 ≤ 7 * 125 * d.ddrMts)
  | 8 => obj == 0 && decide ((m.confLoad d).1 ≤ bits v 0 16) && decide ((m.confLoad d).2 ≤ bits v 16 16) &&
      decide (bits v 0 16 ≤ 1024) && decide (bits v 16 16 ≤ 8192)
  | _ => false

/-- Step 8 of R493: a claim that fails, or one that is missing or given twice (R490). -/
def ImgIn.certCheck (m : ImgIn) (d : Dev) : Option ImgErr :=
  let kind := fun (x : Nat × Nat) => bits x.1 16 16
  let bad := (m.cert.zipIdx.find? (fun (x : (Nat × Nat) × Nat) =>
    !m.claimOk d (kind x.1) (bits x.1.1 0 16) x.1.2 || (kind x.1 != 1 && (m.cert.take x.2).any (fun y => kind y == kind x.1)))).map (fun x => 16 + 16 * x.2)
  let lacks := (List.range 7).any (fun k => !m.cert.any (fun x => kind x == k + 2)) ||
    (m.bank.sec S.CELLS).any (fun c => cFdLen c.2 != 0 && !m.cert.any (fun x => x.1 == 2 ^ 16 + c.1))
  match bad with
  | some k => some { code := 10, sec := 1, ofs := k }
  | none => if lacks then some { code := 10, sec := 1 } else none

/-! ### The end of a load (R493 to R495) -/

/-- The data of `n` words from `w`, none where one reads POISON or is not installed (R495). -/
def Dev.imgWords (d : Dev) (w : Nat) : Nat → Option (List Nat) × Dev
  | 0 => (some [], d)
  | n + 1 =>
    let x := d.ddrRead w
    if wPoison x.1 then (none, x.2)
    else
      let r := x.2.imgWords (w + 1) n
      (r.1.map (fun l => wData x.1 :: l), r.2)

/-- Steps 1 to 8 of R493 on the bytes of an image. -/
def Dev.imgCheck (d : Dev) (b : List Byte) (len : Nat) : Except ImgErr ImgIn × Dev :=
  match imgForm b len with
  | .error e => (.error e, d)
  | .ok secs =>
    let base := leAt b 24 48
    if !sigOk d.sec.heldInst b then (.error { code := 2, ofs := len - 96 }, d)
    else if leAt b 18 2 < d.imgSvnMin then (.error { code := 3, ofs := 18 }, d)
    else if !d.stepOk (leAt b 16 2) then (.error { code := 4, ofs := 16 }, d)
    else if base ≠ 0 ∧ (d.img.active.isNone ∨ base ≠ d.getWords R.STK_IMG_ACT_HASH_H 12) then (.error { code := 5, ofs := 24 }, d)
    else
      let m := readImg b secs
      match firstBad (m.invalid d), m.placement d with
      | some x, _ => (.error { code := 6, sec := x.1, ofs := x.2 }, d)
      | none, some e => (.error e, d)
      | none, none =>
        let p := m.packCheck d
        match p.1, m.certCheck d with
        | some e, _ => (.error e, p.2)
        | none, some e => (.error e, p.2)
        | none, none => (.ok m, p.2)

/-- A hash as a register array holds it (R508). -/
def hashReg (h : BitVec 384) : Nat := leNat (hashBytes h)

/-- The registers of the shadow image; zero where there is none. -/
def Dev.setShadow (d : Dev) (b : Option Bank) : Dev :=
  let x := b.getD {}
  let d := { d with img := { d.img with shadow := b } }
  ((d.set R.STK_IMG_SHD_ID_ID x.id).set R.STK_IMG_SHD_VER_VER x.ver).setWords R.STK_IMG_SHD_HASH_H 12 (hashReg (if b.isSome then x.hash else 0))

/-! ### Power of the cells (R268, R269) -/

/-- The cell hosts a task: one of the active image, or an instance that a changeover has left on it (R268, R500). -/
def Dev.hosts (d : Dev) (n : Nat) : Bool :=
  (d.bank.sec S.TASKS).any (fun x => tCell x.2 == n) || d.pump.tasks.any (fun x => x.2.inst.any (fun i => tCell i.bits == n))

/-- The cells that the image in the DRAM names. It is looked at as the DRAM holds it; the load itself reads and checks it. -/
def Dev.imgCells (d : Dev) (src len : Nat) : List Nat :=
  let b := (wordBytes ((List.range (ceilDiv len 9)).map (fun k => wData (d.ddrCell (src + k))))).take len
  match imgForm b len with
  | .error _ => []
  | .ok secs => kvKeys ((readImg b secs).bank.sec S.CELLS)

/-- The cells that the shadow image names, while it loads and once it is loaded (R269). -/
def Dev.shadowCells (d : Dev) : List Nat := match d.get R.STK_IMG_STAT_SHADOW with
  | 1 => d.imgCells d.img.src d.img.len
  | 2 | 3 => (d.img.shadow.map (fun b => kvKeys (b.sec S.CELLS))).getD []
  | _ => []

/-- In D1 a cell that hosts no task is power-gated and its local memory is lost; one that hosts a task is not gated (R268), nor is one that the shadow image names
(R269; log entry 118). -/
def Dev.gateCells (d : Dev) : Dev :=
  let d := d.each ((List.range 64).filter (fun n => d.get (R.CELL_STAT_PWR n) == 2 && d.hosts n)) (fun d n => d.set (R.CELL_STAT_PWR n) 0)
  let idle := (List.range 64).filter (fun n => d.get (R.CELL_STAT_PWR n) != 2 && !d.hosts n)
  if idle.isEmpty then d
  else
    let named := d.shadowCells
    d.each (idle.filter (fun n => !named.contains n)) (fun d n => (d.set (R.CELL_STAT_PWR n) 2).setCell n {})

/-- What is named by an image has changed: in D1 the cells are gated anew (R268). -/
def Dev.regate (d : Dev) : Dev := if d.get R.RST_PWR_STATE = 1 then d.gateCells else d

/-- A load ends: its code, its place, its event and its audit record (R494, R589). -/
def Dev.loadEnd (d : Dev) (e : ImgErr) (id : Nat) (h : BitVec 384) : Dev :=
  let d := ((d.set R.STK_IMG_STAT_LOAD_CODE e.code).set R.STK_IMG_ERR_SECTION e.sec).set R.STK_IMG_ERR_OFS_OFS e.ofs
  let d := { d with sec := { d.sec with audRes := false } }
  let d := if e.code = 0 then (d.set R.STK_IMG_STAT_SHADOW 2).ev E.IMG_LOAD_DONE else (d.set R.STK_IMG_STAT_SHADOW 4).regate.ev E.IMG_LOAD_ERR 0 0 e.code
  d.audit 0 2 4 e.code id h

/-- A load finishes its checks (R493). -/
def Dev.imgLoadEnd (d : Dev) : Dev :=
  if d.get R.STK_IMG_STAT_SHADOW ≠ 1 then d
  else
    let len := d.img.len
    let r := d.imgWords d.img.src (ceilDiv len 9)
    match r.1 with
    | none => r.2.loadEnd { code := 11 } 0 0
    | some ws =>
      let b := (wordBytes ws).take len
      let id := leAt b 8 4
      let h := sha384 b
      let c := r.2.imgCheck b len
      match c.1 with
      | .error e => c.2.loadEnd e id h
      | .ok m =>
        let d := c.2
        let d := d.each m.presets (fun d (p : Run) => d.each (m.presetWords d p) (fun d x => d.resWrite x.1 x.2))
        let d := { d with cnv := { d.cnv with
                  coef := (m.coefs.flatMap Run.coefs).foldl (fun k (x : Nat × BitVec 24) => kvPut 0 x.1 x.2 k) d.cnv.coef } }
        (d.setShadow (some m.bank)).loadEnd { code := 0 } id h

/-- The image load finishes (R493). -/
def execImgLoadEnd (w : When) (s : State) : Out := s.runMain w (·.imgLoadEnd)

/-! ### Image commands (R492, R495, R496, R507) -/

/-- The stroke that STK_IMG_STROKE names. -/
def Dev.imgStroke (d : Dev) : Nat := d.get R.STK_IMG_STROKE_LO_N + d.get R.STK_IMG_STROKE_HI_N * 2 ^ 32

/-- The hash of the shadow image. -/
def Dev.shadowHash (d : Dev) : BitVec 384 := (d.img.shadow.map Bank.hash).getD 0

/-- A changeover is MISSED (R411, R431, R496): the shadow is READY again. -/
def Dev.imgMissed (d : Dev) (stroke : Nat) : Dev :=
  ((((d.set R.STK_IMG_STAT_SHADOW 2).set R.STK_IMG_STAT_MISSED 1).ev E.TRIG_MISSED).ev E.CHANGEOVER_MISSED).audit 0 2 6 0 (stroke % 2 ^ 32) d.shadowHash

/-- A load powers the power-gated cells that its image names (R269). -/
def Dev.imgWake (d : Dev) (src len : Nat) : Dev :=
  if !(List.range 64).any (fun n => d.get (R.CELL_STAT_PWR n) == 2) then d
  else d.each (d.imgCells src len) (fun d n => if n < 64 ∧ d.get (R.CELL_STAT_PWR n) = 2 then d.set (R.CELL_STAT_PWR n) 3 else d)

/-- A command that needs a free audit entry (R590). -/
def Dev.needAud (d : Dev) (f : Dev → Dev) : Except Nat Dev := if d.audFree then .ok (f d) else .error 1

/-- STK_IMG_CMD OP 1 to 5. -/
def Dev.imgCmd (d : Dev) (req : Requester) (op : Nat) : Dev :=
  let st := d.get R.STK_IMG_STAT_SHADOW
  let aud := (op == 1 && (st == 0 || st == 4) && !d.flag R.RST_STAT_RECOVERY) || (op == 5 && (st == 2 || st == 4))
  let full := aud && !d.audFree && d.may req .oper && !d.busy C.img
  let d' := d.command C.img req .oper (fun d =>
    match op with
    | 1 =>
      if (st ≠ 0 ∧ st ≠ 4) ∨ d.flag R.RST_STAT_RECOVERY then .error 1
      else d.needAud (fun d =>
        let src := d.get R.STK_IMG_SRC_LO_A + d.get R.STK_IMG_SRC_HI_A * 2 ^ 32
        let len := d.get R.STK_IMG_LEN_BYTES
        { (d.set R.STK_IMG_STAT_SHADOW 1).imgWake src len with
          img := { d.img with src := src, len := len }, sec := { d.sec with audRes := true } })
    | 2 => if st = 1 then .ok (d.loadEnd { code := 12 } 0 0) else .error 1
    | 3 =>
      if st ≠ 2 then .error 1
      else if !d.flag R.STK_STAT_RUNNING then .error 2
      else if d.imgStroke ≤ d.org.num then .ok (d.imgMissed d.imgStroke)
      else .ok { d.set R.STK_IMG_STAT_SHADOW 3 with img := { d.img with stroke := d.imgStroke } }
    | 4 => if st = 3 then .ok (d.set R.STK_IMG_STAT_SHADOW 2) else .error 1
    | 5 =>
      if st ≠ 2 ∧ st ≠ 4 then .error 1
      else d.needAud (fun d => ((d.setShadow none).set R.STK_IMG_STAT_SHADOW 0).regate.audit 0 (reqNum req) 7 0 0 d.shadowHash)
    | _ => .error 2)
  if full then d'.ev E.AUDIT_FULL else d'

/-- STK_IMG_CMD LOAD (R492). -/
def execImgLoad (w : When) (req : Requester) (s : State) : Out := s.runReq w req (·.imgCmd req 1)

/-- STK_IMG_CMD ABORT (R495). -/
def execImgAbort (w : When) (req : Requester) (s : State) : Out := s.runReq w req (·.imgCmd req 2)

/-- STK_IMG_CMD CHANGEOVER (R496). -/
def execChangeover (w : When) (req : Requester) (s : State) : Out := s.runReq w req (·.imgCmd req 3)

/-- STK_IMG_CMD DISARM (R496). -/
def execImgDisarm (w : When) (req : Requester) (s : State) : Out := s.runReq w req (·.imgCmd req 4)

/-- STK_IMG_CMD DISCARD (R507). -/
def execImgDiscard (w : When) (req : Requester) (s : State) : Out := s.runReq w req (·.imgCmd req 5)

/-- A read of STK_IMG_LAST_LO latches HI (R508). -/
def Dev.imgLast (d : Dev) : Word × Dev :=
  (BitVec.ofNat 32 (d.get R.STK_IMG_LAST_LO_N),
    { d with img := { d.img with lastLatch := some (BitVec.ofNat 32 (d.get R.STK_IMG_LAST_HI_N)) } })

/-- STK_IMG_LAST_LO is read (R508). -/
def execImgLastRead (w : When) (req : Requester) (s : State) : Out := s.runReq w req (fun d => Dev.replyWord d.imgLast)

/-! ### What becomes of an object (R497) -/

/-- The image bits of an object without the fields that commands change at run time (R497). -/
def fixedBits (ty o : Nat) : Nat :=
  if ty = 7 then setBits o 32 16 0
  else if ty = 10 then setBits (setBits (setBits (setBits o 16 32 0) 64 13 0) 128 14 0) 242 32 0
  else if ty = 15 then setBits o 160 48 0
  else o

/-- The cell of a task is unchanged: its record, and the hashes of its packs (R497). -/
def cellSame (a b : Bank) (n : Nat) : Bool :=
  let o := (b.obj S.CELLS n).getD 0
  a.obj S.CELLS n == b.obj S.CELLS n && (List.range (cNPack o)).all (fun k =>
    (a.packs.find? (fun p => p.id == cPackId o k)).map Pack.hash == (b.packs.find? (fun p => p.id == cPackId o k)).map Pack.hash)

/-- The object survives from bank `a` to bank `b` (R497). -/
def survives (a b : Bank) (ty i : Nat) : Bool :=
  match a.obj ty i, b.obj ty i with
  | some x, some y => fixedBits ty x == fixedBits ty y && (ty != 5 || cellSame a b (tCell y))
  | _, _ => false

/-- The objects of a section of `a` that do not survive into `b`. -/
def gone (a b : Bank) (ty : Nat) : List Nat := (kvKeys (a.sec ty)).filter (fun i => !survives a b ty i)

/-- The objects of a section of `b` that are new or changed. -/
def fresh (a b : Bank) (ty : Nat) : Kv Nat := (b.sec ty).filter (fun x => !survives a b ty x.1)

/-- A map without the entries of a list of keys. -/
def kvDrop {α : Type} (l : List Nat) (m : Kv α) : Kv α := m.filter (fun x => !l.contains x.1)

/-! ### The boundary (R499) -/

/-- Step 1: commands and trigger actions due on objects that do not survive are discarded. Their run-time state is cleared in step 6, so what is left
to discard is the actions handed over by triggers: those whose target is gone, and those that have not fired yet of a unit that is (R499, R503). A chain or slot that is
new takes them (R505). -/
def Dev.coDiscard (d : Dev) (b : Bank) : Dev :=
  let a := d.bank
  let keeps := fun (h : Handed) =>
    (survives a b S.TRIGGERS h.unit || decide (h.time ≤ d.nowNs)) &&
      (if gTarget h.bits = 3 then (b.obj S.SETS (bits h.bits 32 5)).isSome && survives a b S.SETS (bits h.bits 32 5)
       else if gTarget h.bits = 4 then (b.obj S.GEN (bits h.bits 32 13)).isSome
       else true)
  d.onTim (fun t => { t with handed := t.handed.filter keeps })

/-- Step 2: pending flushes apply; a pending STOP is applied with them (R167). -/
def Dev.coFlush (d : Dev) : Dev :=
  let d := d.each (d.idxs S.QUEUES) (fun d q => if (d.q q).flushPend then d.qFlushNow q else d)
  if d.isolated .cis then d else d.each (d.idxs S.CISTERNS) Dev.cisApplyFlush

/-- Step 3: removed and changed queues and cisterns are flushed, those queues apart that step 2 has flushed (R505); encode streams drop their blocks, a job ends
ABORTED. A cistern's flush is here no command and fires no CIS_FLUSH_DONE (R167, R180). -/
def Dev.coRemove (d : Dev) (b : Bank) (flushed : List Nat) : Dev :=
  let a := d.bank
  let d := d.each ((gone a b S.QUEUES).filter (fun q => !flushed.contains q)) (fun d q => d.qFlushNow q)
  let d := d.each (gone a b S.CISTERNS) (fun d c => d.cisEmpty c 0)
  let d := d.each (gone a b S.CMP) (fun d n =>
    let r := d.cmpS n
    d.cmpCnt 3 (b2n r.asm.isSome + b2n r.wait.isSome))
  d.jobStop

/-- Step 4: the resizes and delay changes of survivors, with the image's value where the images differ in it (R498), and the other fields that R497
leaves aside. -/
def Dev.coResize (d : Dev) (b : Bank) : Dev :=
  let a := d.bank
  let d := d.each (b.sec S.QUEUES) (fun d x =>
    if survives a b S.QUEUES x.1 then
      let o := (a.obj S.QUEUES x.1).getD 0
      let r := d.q x.1
      let d := if qSlots o = qSlots x.2 then d else d.setQ x.1 { r with resizePend := some (BitVec.ofNat 16 (qSlots x.2)) }
      match (d.q x.1).resizePend with
      | some n => d.qResizeNow x.1 n.toNat
      | none => d
    else d)
  d.each (b.sec S.CISTERNS) (fun d x =>
    if survives a b S.CISTERNS x.1 then
      let o := (a.obj S.CISTERNS x.1).getD 0
      let c := d.cistern x.1
      let c := if bits o 128 14 = bits x.2 128 14 then c else { c with resizePend := some (bits x.2 128 14) }
      let c := if bits o 64 13 = bits x.2 64 13 then c else { c with delayPend := some (bits x.2 64 13) }
      let pts := (List.range 4).foldl (fun p k => if bits o (16 + 8 * k) 8 = bits x.2 (16 + 8 * k) 8 then p else setBits p (8 * k) 8 (bits x.2 (16 + 8 * k) 8)) c.pts.toNat
      let c := { c with pts := BitVec.ofNat 32 pts }
      let c := if bits o 242 32 = bits x.2 242 32 then c else { c with tsOfs := BitVec.ofNat 32 (bits x.2 242 32) }
      let d := d.setCis x.1 c
      if d.isolated .cis then d else d.cisApplyRest x.1 x.2
    else d)

/-- A lane that survives takes a new RATIO_F from the image; otherwise its own stays, with a command that waits (R498). -/
def Dev.coLanes (d : Dev) (a b : Bank) : Dev :=
  d.each (b.sec S.LANES) (fun d x =>
    if survives a b S.LANES x.1 && lRatioF ((a.obj S.LANES x.1).getD 0) != lRatioF x.2 then
      d.setLane x.1 ((d.lane x.1).reRatio x.2 d.org.num (lRatioF x.2))
    else d)

/-- Step 6 for tasks (R500): what a changed or removed task has in flight. A RUNNING instance of a removed task enters STOPPING (R71); a release of a changed task that
back-pressure held is listed under the new bits. -/
def Dev.coTask (d : Dev) (a b : Bank) (t : Nat) : Dev :=
  let r := d.task t
  if survives a b S.TASKS t then d
  else
    let new := b.obj S.TASKS t
    let removed := new.isNone
    let waiting := r.st == .ready || r.st == .staged
    -- a removed task keeps only what is in flight; its release held in PEND goes with it
    let d := if removed then d.setTask t { r with pend := none } else d
    let d := match (d.task t).inst with
      | none => d
      | some i =>
        if waiting && (removed || tClass i.bits == 0) then Dev.pump' (d.retire t i.bits .cancelled)
        else
          let stop := removed && !i.drain && r.st == .running
          d.setTask t { d.task t with
            st := if stop then .stopping else r.st, inst := some { i with
              removed := removed, old := true, kern := if i.old then i.kern else (a.kernel i.bits).getD 0, cancel := i.cancel || stop } }
    match new with
    | none => d
    | some o =>
      let r := d.task t
      let held := if r.inst.isNone then r.pend else none
      let d := d.setTask t { r with
        dep := BitVec.ofNat 8 (if tPeriodic o then tDepInit o else 1), disabled := false, cancelReq := false, clearSt := false, firstRun := true
        pend := if held.isSome then none else r.pend }
      match held with
      | none => d
      | some s => Dev.pump' (d, [.rel t s true])

/-- A generator that survives stops without a ramp where no program of the new image has the words that sound (R356). -/
def Dev.coGens (d : Dev) : Dev :=
  let progs := (List.range 256).map d.progWords
  { d with tone := { d.tone with gens := d.tone.gens.map (fun (x : Nat × GenRt) => match x.2.play with
      | none => x
      | some p => if progs.contains p.prog then x else (x.1, { x.2 with play := none, tails := [] })) } }

/-- Step 6: run-time state of what is new or changed begins, of what is removed ends. The words still to come of an item that its flush discarded go on being
swallowed (R105, R120), and what is counted of them then counts in the queue's new counters (log entry 131); no queue has popped an item since the image became active (R100). -/
def Dev.coFresh (d : Dev) (a b : Bank) : Dev :=
  let d := d.each (gone a b S.QUEUES) (fun d q =>
    if (b.obj S.QUEUES q).isNone then d.setQ q { d.q q with resizePend := none, flushPend := false, baseC := 0, baseF := 0 } else d)
  let d := d.each (fresh a b S.QUEUES) (fun d x => d.setQ x.1 { qFresh x.2 with swallow := (d.q x.1).swallow })
  let d := d.each (kvKeys (b.sec S.QUEUES)) (fun d q => d.setQ q { d.q q with last := none })
  let d := { d with cis := kvDrop (gone a b S.CISTERNS) d.cis }
  let d := d.each (fresh a b S.CISTERNS) (fun d x => d.setCis x.1 (cisFresh x.2))
  let d := { d with pkt := { d.pkt with eg := kvDrop (gone a b S.EGRESS) d.pkt.eg } }
  let d := d.each (fresh a b S.EGRESS) (fun d x =>
    let s := d.takeFree 16
    let i := s.2.takeFree 16
    i.2.setEg x.1 { seq := BitVec.ofNat 16 s.1, ipId := BitVec.ofNat 16 i.1 })
  let d := { d with cnv := { d.cnv with
            chains := kvDrop (gone a b S.CHAINS) d.cnv.chains, sets := kvDrop (gone a b S.SETS) d.cnv.sets, lanes := kvDrop (gone a b S.LANES) d.cnv.lanes } }
  let d := d.each (fresh a b S.CHAINS) (fun d x => d.chainStart x.1 x.2)
  let d := d.each (fresh a b S.LANES) (fun d x => (d.setLane x.1 (laneFresh x.2 d.org.num)).laneClear x.1 x.2)
  let d := { d with tone := { d.tone with dets := kvDrop (gone a b S.DET) d.tone.dets, gens := kvDrop (gone a b S.GEN) d.tone.gens } }
  let d := d.each (fresh a b S.DET) (fun d x => d.setDet x.1 { en := tdEnInit x.2 })
  let d := d.coGens
  let d := { d with cmp := { d.cmp with streams := kvDrop (gone a b S.CMP) d.cmp.streams } }
  let d := d.each (fresh a b S.CMP) (fun d x => d.setCmpS x.1 (cmpFresh x.2))
  let d := d.onTim (fun t => { t with trigs := kvDrop (gone a b S.TRIGGERS) t.trigs, pulses := t.pulses.filter (fun x => survives a b S.TRIGGERS x.1) })
  let ts := (kvKeys d.pump.tasks).foldl (fun l t => insNat t l) (kvKeys (b.sec S.TASKS))
  let d := d.each ts (fun d t => d.coTask a b t)
  let gt := (gone a b S.TASKS).filter (fun t => (d.task t).inst.isNone)
  { d with kern := { d.kern with
      begun := kvDrop gt d.kern.begun, ec := kvDrop gt d.kern.ec, dec := kvDrop gt d.kern.dec, enc := kvDrop gt d.kern.enc
      conf := kvDrop gt d.kern.conf, mat := kvDrop gt d.kern.mat } }

/-- The registers of cell `n` that read the image `b` (R273); in block reset they hold their Reset values (R13). -/
def Dev.cellRegs (d : Dev) (b : Bank) (n : Nat) : Dev :=
  if d.isolated (.cell n) then d
  else
    let o := (b.obj S.CELLS n).getD 0
    let d := (d.set (R.CELL_LM_CODE_BASE n) (cCodeBase o)).set (R.CELL_LM_STATE_BASE n) (cStateBase o)
    d.each (List.range 8) (fun d k =>
      let id := if k < cNPack o then cPackId o k else 0
      (d.set (R.CELL_PACK_ID n k) id).set (R.CELL_PACKV_VER n k) (if id = 0 then 0 else ((b.packs.find? (fun p => p.id == id)).map Pack.ver).getD 0))

/-- The registers that read the active image (R86, R273, R508). -/
def Dev.setActiveRegs (d : Dev) (b : Bank) : Dev :=
  let d := ((d.set R.STK_IMG_ACT_ID_ID b.id).set R.STK_IMG_ACT_VER_VER b.ver).setWords R.STK_IMG_ACT_HASH_H 12 (hashReg b.hash)
  let d := d.set R.STK_IMG_STAT_ACTIVE 1
  d.each (List.range 64) (fun d n =>
    (d.set (R.STK_CELL_FD_LEN n) (cFdLen ((b.obj S.CELLS n).getD 0))).cellRegs b n)

/-- R502: a cell whose first draw has come up from zero opens it in the next stroke; one without a first draw has no close to wait for (R67). -/
def Dev.coFirstDraw (d : Dev) (a b : Bank) : Dev :=
  let len := fun (x : Bank) n => cFdLen ((x.obj S.CELLS n).getD 0)
  d.each (List.range 64) (fun d n =>
    if len b n = 0 then (if (d.cell n).parked then d.setCell n { d.cell n with parked := false } else d)
    else if len a n = 0 then d.setCell n { d.cell n with fdFrom := d.org.num + 1 } else d)

/-- The changeover at the boundary that begins stroke `org.num` (R499). -/
def Dev.changeoverNow (d : Dev) : Dev :=
  match d.img.shadow with
  | none => d
  | some b =>
    let a := d.bank
    let flushed := (d.idxs S.QUEUES).filter (fun q => (d.q q).flushPend)
    let d := (((d.coDiscard b).coFlush).coRemove b flushed).coResize b
    let d := { d with img := { d.img with active := some b, was := some (d.org.num, d.img.active.map Bank.measure) } }
    let d := ((d.coLanes a b).coFresh a b).coFirstDraw a b
    let d := (d.setActiveRegs b).each (List.range 32) (fun d p => d.lineLoad false p)
    let d := (d.each (List.range 4) (fun d m => d.lineLoad true m)).bsdStat.outsLoad b
    let d := (d.set R.STK_IMG_LAST_LO_N (d.org.num % 2 ^ 32)).set R.STK_IMG_LAST_HI_N (d.org.num / 2 ^ 32)
    let d := ((d.setShadow none).set R.STK_IMG_STAT_SHADOW 0).regate.ev E.CHANGEOVER_DONE
    d.audit 0 2 5 0 (d.org.num % 2 ^ 32) b.hash

/-- A changeover is due at the boundary that begins stroke `n`. -/
def Dev.coDue (d : Dev) (n : Nat) : Bool := d.get R.STK_IMG_STAT_SHADOW == 3 && d.flag R.STK_STAT_RUNNING && d.img.stroke == n

/-- The changeover boundary (R499). The step falls at the boundary of the stroke that the next STROKE_BOUNDARY counts, and counts as in that stroke. -/
def Dev.changeoverBoundary (d : Dev) : Dev :=
  let n := d.org.num
  if d.coDue (n + 1) then
    let d := ({ d with org := { d.org with num := n + 1 } } : Dev).changeoverNow.settle
    { d with org := { d.org with num := n } }
  else d

/-- The changeover boundary (R499). -/
def execChangeoverBoundary (w : When) (s : State) : Out := s.runMain w (·.changeoverBoundary)

end Sys2Proof.Machine
end

