-- ==== Sys2Proof/Machine/Ports.lean ====
section
/-! DEFINITION. The Ethernet ports (R432 to R438), the PCIe link and the host's data window (R463 to R469), I²C and JTAG (R471, R473). -/

namespace Sys2Proof.Machine

/-! ### Ethernet: receive (R432 to R435) -/

/-- MAC of an Ethernet port descriptor, first byte first. -/
def ethMac (o : Nat) : List Byte := leBytes 6 (bits o 8 48)
/-- CTX_Q -/
def ethCtxQ (o : Nat) : Nat := bits o 56 16
/-- AN_EN -/
def ethAn (o : Nat) : Bool := bit o 4

/-- ETH_CNT[p][k] counts one. -/
def Dev.ethCnt (d : Dev) (p k : Nat) : Dev := d.count (R.ETH_CNT_COUNT p k)

/-- Port `p` runs: it is in use, up, and not in block reset. -/
def Dev.ethUp (d : Dev) (p : Nat) : Bool := (d.obj S.ETH p).isSome && d.flag (R.ETH_STAT_LINK p) && !d.isolated (.eth p)

/-- The bytes in a port's receive buffer, FCS counted. -/
def Dev.rxFill (d : Dev) (p : Nat) : Nat := ((kvD d.pkt.rx p []).map (fun f => f.1.length + 4)).sum

/-- A PAUSE or PFC frame (R432): a MAC control frame with one of their opcodes, those of IEEE 802.3: PRESUMED (unsafe, log entry 143). -/
def isPause (f : List Byte) : Bool := beAt f 12 2 == 0x8808 && (beAt f 14 2 == 0x0001 || beAt f 14 2 == 0x0101)

/-- A frame is received whole (R434): the checks in their order; PAUSE and PFC frames are counted and discarded (R432); a frame that passes goes
with its corrected timestamp (R401) to the receive buffer of 256 KiB, if it fits (R174); while PKT is in block reset it is dropped uncounted (R539). Counter 0 counts
the frames that pass (log entry 103). -/
def Dev.ethRx (d : Dev) (p : Nat) (f : EthFrame) : Dev :=
  if !d.ethUp p then d
  else
    let dst := f.bytes.take 6
    if !f.fcsOk || f.codeError then d.ethCnt p 1
    else if f.bytes.length + 4 < 64 then d.ethCnt p 2
    else if !(dst == ethMac (d.objD S.ETH p) || bit (byteAt f.bytes 0) 0) then d.ethCnt p 3
    else if isPause f.bytes then d.ethCnt p 4
    else
      let d := d.ethCnt p 0
      let st := stampOf16 (stampSub16 (quarter (d.readAgo f.age)) - d.get (R.TIME_PORT_RXLAT_LAT p))
      if d.isolated .pkt then d
      else if 262144 < d.rxFill p + f.bytes.length + 4 then d.rxFifoDrop
      else { d with pkt := { d.pkt with rx := kvSet p (kvD d.pkt.rx p [] ++ [(f.bytes, st)]) d.pkt.rx } }

/-- LOOP of a port: 1 PCS near-end, 2 PMA far-end loopback (R475). -/
def Dev.ethLoop (d : Dev) (p : Nat) : Nat := d.get (R.ETH_CTL_LOOP p)

/-- A frame comes whole from the line: in near-end loopback the port does not hear it; in far-end loopback it also goes back on the line, which the reply shows (R475; log
entry 143). -/
def Dev.ethLine (d : Dev) (p : Nat) (f : EthFrame) : Dev :=
  if d.ethLoop p = 1 then d
  else
    let d := d.ethRx p f
    if d.ethLoop p = 2 ∧ d.ethUp p then { d with reply := { d.reply with bytes := f.bytes } } else d

/-- A frame is received whole at a MAC (R434). -/
def execEthFrameRx (w : When) (port : Nat) (frame : EthFrame) (s : State) : Out := s.runMain w (·.ethLine port frame)

/-- The errors of the links in the stroke that ends: uncorrected FEC code words, on a port that is up with FEC (R475, R479), and correctable errors of a PCIe link that is
up (R478). -/
def Dev.upsetPorts (d : Dev) (u : Upsets) : Dev :=
  let d := d.each u.fecUe (fun d x =>
    if decide (x.1 < 4 ∧ x.2 ≠ 0) && d.ethUp x.1 && bits (d.objD S.ETH x.1) 2 2 != 0 then (d.count (R.ETH_CNT_COUNT x.1 11) x.2).evOnce E.ETH_FEC_UE x.1 x.1 else d)
  if d.flag R.PCIE_STAT_LINK_UP then d.count (R.PCIE_CNT_COUNT 3) u.aerCe else d

/-! ### Ethernet: transmit (R436 to R438, R403) -/

/-- A control frame of R436: its bytes, TS_REQ and TS_ID. -/
structure CtlFrame where
  bytes : List Byte
  tsReq : Bool
  tsId : Nat
  deriving DecidableEq, Repr

/-- What an item of CTX_Q holds: BYTES, TS_REQ and TS_ID, and the frame where the item is good (R436). -/
def ctlItem (it : List MWord) : Nat × Bool × Nat × Option CtlFrame :=
  let w := wData (it.getD 1 0)
  let n := bits w 0 16
  let bs := (wordBytes ((it.drop 2).map wData)).take n
  let ok := decide (14 ≤ n ∧ n ≤ 1522 ∧ hPlen (itemHdr it) = 1 + ceilDiv n 9)
  (n, bit w 16, bits w 17 16, if ok then some ⟨bs, bit w 16, bits w 17 16⟩ else none)

/-- A control frame is discarded before its timestamp point (R438). -/
def Dev.txTsLost (d : Dev) (p : Nat) (req : Bool) (id : Nat) : Dev :=
  if req then ((d.ethCnt p 10).set (R.ETH_LAST_TS_TS_ID p) id).ev E.ETH_TX_TS_LOST p id else d

/-- Where the PTP message of a frame begins, with the UDP header's place and whether it is IPv6, for one that travels in UDP (R403, R426). -/
def ptpAt (f : List Byte) : Option (Nat × Option (Nat × Bool)) :=
  let at' := (tags f).1
  let et := beAt f at' 2
  if et = 0x88F7 then some (at' + 2, none)
  else if et = 0x0800 ∧ byteAt f (at' + 2 + 9) = 17 then
    let u := at' + 2 + 4 * (byteAt f (at' + 2) % 16)
    if beAt f (u + 2) 2 = 319 then some (u + 8, some (u, false)) else none
  else if et = 0x86DD ∧ byteAt f (at' + 2 + 6) = 17 then
    let u := at' + 2 + 40
    if beAt f (u + 2) 2 = 319 then some (u + 8, some (u, true)) else none
  else none

/-- The UDP checksum of an IPv6 frame, computed anew. -/
def udp6 (f : List Byte) (u : Nat) : List Byte :=
  let ip := u - 40
  let g := putBytes f (u + 6) [0, 0]
  let len := beAt g (u + 4) 2
  let body := (g.drop u).take len
  let s := fold16 (sum16 (body.length / 2 + 1) body + sum16 16 ((g.drop (ip + 8)).take 32) + len + 17)
  let c := 65535 - s
  putBytes g (u + 6) (beBytes 2 (if c = 0 then 65535 else c))

/-- One-step insertion (R403): none where the frame is no PTP Sync or Delay_Req. -/
def oneStep (f : List Byte) (t : Stamp) : Option (List Byte) :=
  match ptpAt f with
  | none => none
  | some (m, u) =>
    if 1 < byteAt f m % 16 ∨ f.length < m + 44 then none
    else
      let g := putBytes f (m + 34) (beBytes 6 t.sec.toNat ++ beBytes 4 t.ns.toNat)
      let g := putBytes g (m + 8) (beBytes 8 ((beAt f (m + 8) 8 + t.sub.toNat) % 2 ^ 64))
      some (match u with
        | none => g
        | some (u, false) => putBytes g (u + 6) [0, 0]
        | some (u, true) => udp6 g u)

/-- A frame is padded to 60 bytes (R436). -/
def padFrame (b : List Byte) : List Byte := b ++ List.replicate (60 - b.length) 0

/-- A frame goes on the wire; it ends after its bytes, preamble and FCS at the port's rate, 0.8 ns or 0.32 ns a byte. In near-end loopback
the port receives it; in far-end loopback the line carries what comes from it, and not this frame (R475; log entry 143). -/
def Dev.ethSend (d : Dev) (p : Nat) (b : List Byte) (ctl : Bool) : Dev :=
  let n := b.length + 12
  let x : EthTx := { bytes := b, ctl := ctl, endNs := d.xoNs + (if bit (d.objD S.ETH p) 1 then ceilDiv (n * 8) 25 else ceilDiv (n * 4) 5) }
  let d := { d with ports := { d.ports with ethTx := kvSet p x d.ports.ethTx }, reply := { d.reply with bytes := if d.ethLoop p = 0 ∨ d.ethLoop p = 3 then b else [] } }
  let d := if d.ethLoop p = 1 then d.ethRx p ⟨b, true, false, 0⟩ else d
  d.ethCnt p 6

/-- A control frame is sent (R436, R438, R403, R405). -/
def Dev.ctlSend (d : Dev) (p : Nat) (f : CtlFrame) (sub : Nat) (popped : Bool) : Dev :=
  let t := stampOf16 (stampSub16 (quarter (d.readAt sub)) + d.get (R.TIME_PORT_TXLAT_LAT p))
  let b := padFrame f.bytes
  let one := if f.tsReq && bit (d.get R.TIME_CTL_ONESTEP) p then oneStep b t else none
  let d := (d.ethSend p (one.getD b) true).ethCnt p 7
  if f.tsReq then d.tsqPush p (tsEntry t f.tsId p one.isSome) popped else d

/-- The oldest item of CTX_Q is taken (R436). -/
def Dev.ctlPop (d : Dev) (p sub : Nat) (popped : Bool) : Dev :=
  let q := ethCtxQ (d.objD S.ETH p)
  if (d.q q).depth = 0 then d
  else
    let (it, d) := d.qPop q true
    match ctlItem it with
    | (_, _, _, some f) => d.ctlSend p f sub popped
    | (n, req, id, none) => if n = 0 then d else (d.ethCnt p 9).txTsLost p req id

/-- At a frame boundary (R437): a media packet whose launch cycle has passed, or else the oldest control frame. A frame that has begun is sent whole: while one is, there
is no frame boundary. -/
def Dev.launch (d : Dev) (p sub : Nat) (popped : Bool) : Dev :=
  if !d.ethUp p || decide (d.xoNs < (kvD d.ports.ethTx p {}).endNs) then d
  else
    match kvD d.pkt.tx p [] with
    | [] => d.ctlPop p sub popped
    | x :: r =>
      if x.stroke < d.org.num ∨ (x.stroke = d.org.num ∧ x.cc ≤ d.org.cc) then
        ((({ d with pkt := { d.pkt with tx := kvSet p r d.pkt.tx } }).egSent x).egCnt x.stream 0).ethSend p (padFrame x.bytes) false
      else d.ctlPop p sub popped

/-- A frame boundary of a port (R437): what it sends has its timestamp point `sub` units of 250 ps after the tick (R400). The reply holds the frame. -/
def execPacketLaunch (w : When) (port sub : Nat) (s : State) : Out :=
  let popped := s.beside w (fun i => match i with
    | .tsqPop v _ p => if p = port then some v else none
    | _ => none)
  s.runMain w (·.launch port sub popped)

/-! ### Ethernet: the link (R435, R438, R474) -/

/-- Control frames still queued for the port are discarded, `n` of them at most (R435, R438). -/
def Dev.ctlDrop (d : Dev) (p q : Nat) : Nat → Dev
  | 0 => d
  | n + 1 =>
    if (d.q q).depth = 0 then d
    else
      let (it, d) := d.qPop q true
      let (b, req, id, _) := ctlItem it
      let d := if b = 0 then d else (d.ethCnt p 8).txTsLost p req id
      d.ctlDrop p q n

/-- The port goes down (R435). A control frame that is still being sent ends with an invalid FCS (R474). -/
def Dev.ethDown (d : Dev) (p : Nat) (inReception : Bool) : Dev :=
  if !d.flag (R.ETH_STAT_LINK p) then d
  else
    let d := ((d.set (R.ETH_STAT_LINK p) 0).set (R.ETH_STAT_LINK_CHG p) 1).ev E.ETH_LINK_DOWN p
    let d := if inReception then d.ethCnt p 5 else d
    let x := kvD d.ports.ethTx p {}
    let d := if d.xoNs < x.endNs then
        let d := { d with ports := { d.ports with ethTx := kvSet p { x with fcsOk := false, endNs := d.xoNs } d.ports.ethTx } }
        if x.ctl then d.ethCnt p 8 else d
      else d
    let q := ethCtxQ (d.objD S.ETH p)
    let d := if (d.obj S.ETH p).isSome && d.qValid q then d.ctlDrop p q (d.q q).depth else d
    let pk := kvD d.pkt.tx p []
    let d := { d with pkt := { d.pkt with tx := kvPut [] p [] d.pkt.tx } }
    d.each pk (fun d x => d.egCnt x.stream 1)

/-- A port goes down (R435). -/
def execEthLinkDown (w : When) (port : Nat) (inReception : Bool) (s : State) : Out := s.runMain w (·.ethDown port inReception)

/-- A port comes up (R435). -/
def Dev.ethLinkUp (d : Dev) (p : Nat) : Dev :=
  match d.obj S.ETH p with
  | none => d
  | some o =>
    if d.flag (R.ETH_STAT_LINK p) || d.isolated (.eth p) then d
    else
      let d := (d.set (R.ETH_STAT_LINK p) 1).set (R.ETH_STAT_LINK_CHG p) 1
      ((d.set (R.ETH_STAT_FEC p) (bits o 2 2)).set (R.ETH_STAT_RATE p) (bits o 1 1)).ev E.ETH_LINK_UP p

/-- A port comes up (R435). -/
def execEthLinkUp (w : When) (port : Nat) (s : State) : Out := s.runMain w (·.ethLinkUp port)

/-- AN_RESTART is written 1: auto-negotiation restarts where the image enables it, and the port is down (R435, R475). -/
def Dev.anRestart (d : Dev) (req : Requester) (p : Nat) (inReception : Bool) : Dev :=
  if !d.oper req then d.denied
  else if (d.obj S.ETH p).any ethAn && !d.isolated (.eth p) then d.ethDown p inReception
  else d

/-- A write of 1 to ETH_CTL[p].AN_RESTART (R475). -/
def execAnRestart (w : When) (req : Requester) (port : EthPort) (s : State) : Out := s.runReq w req (·.anRestart req port.port port.inReception)

/-! ### The PCIe link (R469) -/

/-- The vectors that have an HPEND bit set for an event routed to them, ascending (R605). -/
def Dev.hostVecs (d : Dev) : List Nat :=
  (List.range 256).foldl (fun l e =>
    if bit (d.get (R.EVT_HPEND_BITS (e / 32))) (e % 32) && d.flag (R.EVT_ROUTE_MSIX e) then insNat (d.get (R.EVT_ROUTE_VEC e)) l else l) []

/-- PCIE_PERST_N and FLR reset the configuration space, the MSI-X table and PCIE_DDR_BASE (R469). Held messages and the PBA are discarded, and each
vector with a pending event becomes due again, in this cycle (R605, R607). -/
def Dev.pcieReset (d : Dev) : Dev :=
  let d := d.vecCycle true
  let d := { d with pcie := {}, msix := { d.msix with due := d.hostVecs.map (fun v => (v, d.msix.cyc)) } }
  let d := d.set R.PCIE_DDR_BASE_BASE 0
  d.each (List.range 256) (fun d v =>
    (((d.set (R.PCIE_MSIX_LO_A v) 0).set (R.PCIE_MSIX_HI_A v) 0).set (R.PCIE_MSIX_DATA_D v) 0).set (R.PCIE_MSIX_CTL_MASK v) 1)

/-- The link goes down (R469). -/
def Dev.pcieDown (d : Dev) : Dev :=
  if d.flag R.PCIE_STAT_LINK_UP then
    (((d.set R.PCIE_STAT_LINK_UP 0).set R.PCIE_STAT_SPEED 0).set R.PCIE_STAT_WIDTH 0).ev E.PCIE_LINK_DOWN
  else d

/-- PCIE_PERST_N is asserted (R469). -/
def execPciePerst (w : When) (s : State) : Out := s.runMain w (fun d => d.pcieReset.pcieDown)

/-- A function-level reset (R469). -/
def execFlr (w : When) (s : State) : Out := s.runMain w Dev.pcieReset

/-- The link comes up while LTSSM_EN is 1 (R469), and the port is not held for its clock (R520). -/
def execPcieLinkUp (w : When) (speed width : Nat) (s : State) : Out :=
  s.runMain w (fun d => Dev.when (d.flag R.PCIE_CTL_LTSSM_EN && !d.flag R.PCIE_STAT_LINK_UP && !d.rst.unitBad.contains .pcie) (fun d =>
    (((d.set R.PCIE_STAT_LINK_UP 1).set R.PCIE_STAT_SPEED speed).set R.PCIE_STAT_WIDTH width).ev E.PCIE_LINK_UP) d)

/-- The link goes down (R469). -/
def execPcieLinkDown (w : When) (s : State) : Out := s.runMain w Dev.pcieDown

/-! ### The host's data window (R464 to R467) -/

/-- Where a byte of BAR2 lies: reservoir or DDR, the word and the byte in it; `none` where reads give zero and writes are ignored (R466). -/
def Dev.bar2At (d : Dev) (off : Nat) : Option (Bool × Nat × Nat) :=
  if off < 0x10000000 then (if off % 16 < 9 then some (false, off / 16, off % 16) else none)
  else if off < 0x19000000 then some (false, (off - 0x10000000) / 9, (off - 0x10000000) % 9)
  else if 0x20000000 ≤ off ∧ off < 0x40000000 then
    (if off % 16 < 9 then some (true, d.get R.PCIE_DDR_BASE_BASE * 2 ^ 25 + (off - 0x20000000) / 16, off % 16) else none)
  else none

/-- A partition's SPACE, HOSTW, BASE and WORDS (R487). -/
def partOf (o : Nat) : Bool × Bool × Nat × Nat := (bit o 0, bit o 5, bits o 6 36, bits o 42 36)

/-- The image marks a word host-writable (R467, R487). -/
def Dev.hostWritable (d : Dev) (ddr : Bool) (w : Nat) : Bool :=
  (d.bank.sec S.PARTITIONS).any (fun x =>
    let p := partOf x.2
    p.1 == ddr && p.2.1 && decide (p.2.2.1 ≤ w ∧ w < p.2.2.1 + p.2.2.2))

/-- The bytes that fall in one word, with their places, gathered over consecutive offsets. -/
def gatherWord (x : (Bool × Nat) × List (Nat × Byte)) (l : List ((Bool × Nat) × List (Nat × Byte))) : List ((Bool × Nat) × List (Nat × Byte)) :=
  match l with
  | [] => [x]
  | y :: r => if x.1 == y.1 then (y.1, x.2 ++ y.2) :: r else x :: l

/-- A write's words, in order, each with the bytes that change it. -/
def Dev.bar2Words (d : Dev) (off : Nat) (data : List Byte) : List ((Bool × Nat) × List (Nat × Byte)) :=
  (data.zipIdx.filterMap (fun x => (d.bar2At (off + x.2)).map (fun a => ((a.1, a.2.1), [(a.2.2, x.1)])))).foldr gatherWord []

/-- A word's data with some bytes replaced. -/
def mergeBytes (x : Nat) (bs : List (Nat × Byte)) : Nat := bs.foldl (fun x b => setBits x (8 * b.1) 8 b.2.toNat) x

/-- One word of a host write: merged, and stored with its tags clear (R467). -/
def Dev.hostPut (d : Dev) (w : (Bool × Nat) × List (Nat × Byte)) : Dev :=
  if w.1.1 then
    let (x, d) := if d.ddrTotal ≤ w.1.2 ∨ 9 ≤ w.2.length then (0, d) else
      let (x, d) := d.ddrRead w.1.2
      (wData x, d)
    d.ddrWrite w.1.2 (mkW (mergeBytes x w.2) false false false false)
  else
    let (x, d) := if 9 ≤ w.2.length then (0, d) else
      let (x, d) := d.resRead w.1.2
      (wData x, d)
    d.resWrite w.1.2 (mkW (mergeBytes x w.2) false false false false)

/-- A host write through BAR2 (R466, R467). Words outside the host-writable regions are dropped, and the write counts once. -/
def Dev.hostWrite (d : Dev) (off : Nat) (data : List Byte) : Dev :=
  let ws := d.bar2Words off data
  let ok := fun (w : (Bool × Nat) × List (Nat × Byte)) => d.hostWritable w.1.1 w.1.2
  let d' := d.each (ws.filter ok) Dev.hostPut
  if ws.all ok then d' else ((d'.set R.PCIE_STAT_DENIED 1).count (R.PCIE_CNT_COUNT 1)).ev E.PCIE_HOST_DENIED

/-- A host write (R467). -/
def execHostDataWrite (w : When) (off : Nat) (data : List Byte) (s : State) : Out := s.runReq w .host (·.hostWrite off data)

/-- One word as a host read finds it. -/
def Dev.hostGet (d : Dev) (ddr : Bool) (w : Nat) : MWord × Dev := if ddr then d.ddrRead w else d.resRead w

/-- A read of `len` bytes through the data windows: the words are read once each in order, and the reply says whether one of them was POISON (R466). -/
def Dev.winRead (d : Dev) (off len : Nat) : Dev :=
  let places := (List.range len).map (fun k => d.bar2At (off + k))
  let keys := places.foldl (fun (l : List (Bool × Nat)) p => match p with
    | none => l
    | some (b, w, _) => if l.contains (b, w) then l else l ++ [(b, w)]) []
  let (vals, d) := keys.foldl (fun (a : List ((Bool × Nat) × MWord) × Dev) k =>
    let (x, d) := a.2.hostGet k.1 k.2
    (a.1 ++ [(k, x)], d)) ([], d)
  let val := fun b w => ((vals.find? (fun v => v.1 == (b, w))).map Prod.snd).getD 0
  let bytes : List Byte := places.map (fun p => match p with
    | none => 0
    | some (b, w, i) => BitVec.ofNat 8 (bits (wData (val b w)) (8 * i) 8))
  let pois := vals.any (fun v => wPoison v.2)
  { d with reply := { d.reply with bytes := bytes, poison := pois } }

/-- A host read through BAR2 (R466, R467). -/
def Dev.hostRead (d : Dev) (off len : Nat) : Dev :=
  let d := d.winRead off len
  if d.reply.poison then ((d.set R.PCIE_STAT_POISON_RD 1).count (R.PCIE_CNT_COUNT 2)).ev E.PCIE_POISON_READ else d

/-- A host read (R467). -/
def execHostDataRead (w : When) (off len : Nat) (s : State) : Out := s.runReq w .host (·.hostRead off len)

/-! ### I²C and JTAG (R471, R473) -/

/-- A stretched clock is given up after 25 ms: nine clocks and a STOP recover the bus (R471). -/
def execI2cStretchTimeout (w : When) (s : State) : Out :=
  s.runMain w (fun d => { d with i2c := { recoveries := d.i2c.recoveries + 1, bus := List.replicate 9 .clock ++ [.stop] } })

/-- A JTAG instruction: the test port stands outside every reset of the device. -/
def State.runJtag (s : State) (w : When) (f : Jtag → Jtag) : Out := { s with jtag := f s.jtag }.run w id

/-- IDCODE (R473): version 0x1, part number 0x8200, the manufacturer identity, and the 1 of IEEE 1149.1. -/
def idcodeValue : Word := BitVec.ofNat 32 (0x1 * 2 ^ 28 + 0x8200 * 2 ^ 12 + Config.jtagMaker.toNat * 2 + 1)

/-- BYPASS (R473): the data register is one zero bit. -/
def execBypass (w : When) (s : State) : Out := s.runJtag w (fun j => { j with ir := .bypass, dr := 0 })

/-- IDCODE (R473). -/
def execIdcode (w : When) (s : State) : Out := s.runJtag w (fun j => { j with ir := .idcode, dr := idcodeValue })

/-- SAMPLE/PRELOAD (R473): the pins are sampled and the boundary register takes the values preloaded. -/
def execSamplePreload (w : When) (pins preload : List Bool) (s : State) : Out :=
  s.runJtag w (fun j => { j with ir := .samplePreload, sample := pins, preload := preload })

/-- EXTEST (R473): the pins follow the boundary register. -/
def execExtest (w : When) (s : State) : Out := s.runJtag w (fun j => { j with ir := .extest })

/-- CLAMP (R473): the pins follow the boundary register, and the data register is the bypass bit. -/
def execClamp (w : When) (s : State) : Out := s.runJtag w (fun j => { j with ir := .clamp, dr := 0 })

/-- HIGHZ (R473): the pins float, and the data register is the bypass bit. -/
def execHighz (w : When) (s : State) : Out := s.runJtag w (fun j => { j with ir := .highz, dr := 0 })

end Sys2Proof.Machine
end

