-- ==== Sys2Proof/Machine/Reset.lean ====
section
/-! DEFINITION. Reset, power, boot and recovery (R510 to R548), and block resets through the isolation wrappers (R35, R121, R267, R538, R539). -/

namespace Sys2Proof.Machine

/-- `f` on the reset state. -/
def Dev.onRst (d : Dev) (f : Rst → Rst) : Dev := { d with rst := f d.rst }

/-! ### What a reset clears (R11, R518, R543) -/

/-- A line that has lost the main domain sends idle values (R455). -/
def LineRt.idleNow (l : LineRt) : LineRt := { l with txIdle := true, tx := [], txOld := [] }

/-- The timing unit after a warm pin reset: the clock, the DCO, the output framers and what waits for their adjustment points stay; triggers are disarmed, queues
and latches of the main domain end (R427, R543). -/
def Tim.warm (t : Tim) : Tim :=
  { locked := t.locked, t := t.t, t0 := t.t0, c0 := t.c0, c := t.c, f := t.f, s := t.s, a := t.a, adjC := t.adjC, pre := t.pre, lockC := t.lockC, cmds := t.cmds, modePend := t.modePend,
    dcoD := t.dcoD, dcoF := t.dcoF, hoAvg := t.hoAvg, dHist := t.dHist, holdAuto := t.holdAuto, dHold := t.dHold, phiBuild := t.phiBuild,
    outs := t.outs }

/-- The blocks that run on the DCO output, a keep-alive clock: the cells (R390, R644). -/
def blkOnDco : Blk → Bool
  | .cell _ => true
  | _ => false

/-- The blocks that run on the DCO output. -/
def dcoBlks : List Blk := (List.range 64).map .cell

/-- The reset state of a main domain held in reset, the pins and the keep-alive domain as they were. -/
def Rst.mainGone (r : Rst) : Rst :=
  { vdd := r.vdd, por := r.por, pin := r.pin, kaUp := r.kaUp, warm := r.warm, d2 := r.d2, opt := r.opt, wdogN := r.wdogN, wdogLeft := r.wdogLeft, banks := r.banks, xoUs := r.xoUs, xoSub := r.xoSub,
    clkBad := r.clkBad.filter blkOnDco, unitBad := r.unitBad.filter (· != .pcie) }

/-- The main domain is reset: what lies in the backup and keep-alive domains stays, the reservoir unverified (R482, R523, R543). -/
def Dev.mainClear (d : Dev) : Dev :=
  let d' : Dev :=
    { regs := { d.regs with main := [], busy := [] }
      evs := d.evs
      sump := d.sump
      sec := { audQ := d.sec.audQ, audLatch := d.sec.audLatch, head := d.sec.head, seq := d.sec.seq }
      rst := d.rst.mainGone
      cal := { recs := d.cal.recs }
      tim := d.tim.warm
      org := { d.org with numLatch := none }
      qf := { res := d.qf.res, resUe := d.qf.resUe, resCe := d.qf.resCe }
      ports := { tdm := d.ports.tdm.map (fun (x : Nat × LineRt) => (x.1, x.2.idleNow))
                 madi := d.ports.madi.map (fun (x : Nat × LineRt) => (x.1, x.2.idleNow)) }
      ddr := { d.ddr with hiLatch := none }
      reply := d.reply
      free := d.free }
  d'.set R.RST_STAT_RES_UNVER 1

/-- The keep-alive and main domains are reset: the backup domain stays, the reservoir is zeroed, the content of the DRAM is lost (R522, R543). The cell clock is
not valid until the DCO first locks (R644). -/
def Dev.allClear (d : Dev) : Dev :=
  { regs := { d.regs with keep := [], main := [], busy := [] }
    evs := d.evs
    sump := d.sump
    sec := { head := d.sec.head, seq := d.sec.seq }
    rst := { d.rst.mainGone with kaUp := false, d2 := false, xoUs := 0, xoSub := 0, clkBad := dcoBlks, unitBad := [] }
    ddr := { epoch := d.ddr.epoch + 1 }
    reply := d.reply
    free := d.free }

/-! ### Assertion (R514 to R518, R537, R596) -/

/-- A WRITE_OTP that a reset cuts short leaves its zone failing (R583, R598). -/
def Dev.otpCut (d : Dev) (o : Otp) : Otp := match d.sec.otpWr with
  | none => o
  | some x => o.program x false (d.takeFree 512).1

/-- A load that runs ends with IMG_ABORTED (R495); a changeover that waits does not take place and is MISSED where `missed` says so (R41, R503). -/
def Dev.imgCut (d : Dev) (missed : Bool) : Dev :=
  let d := if d.sec.otpWr.isSome then (d.takeFree 512).2 else d
  if d.get R.STK_IMG_STAT_SHADOW = 1 then d.loadEnd { code := 12 } 0 0
  else if missed && d.get R.STK_IMG_STAT_SHADOW == 3 then d.imgMissed d.img.stroke
  else d

/-- The sump log freezes with the stroke and the time latched at the last stroke boundary (R596); where the clock was not valid, with the µs count
reached (R648). -/
def Dev.resetFreeze (d : Dev) (cause : Nat) : Dev :=
  let ok := d.sump.latchValid && d.clkValid
  d.freeze { cause := cause, stroke := d.sump.latchStroke.toNat, ns := if ok then d.sump.latchNs.toNat else d.rst.xoUs, noclk := !ok }

/-- RST_CAUSE is written (R546). -/
def Dev.resetCause (d : Dev) (kind : Nat) (wdog denied d2 : Bool) : Dev :=
  (((d.set R.RST_CAUSE_KIND kind).set R.RST_CAUSE_WDOG (b2n wdog)).set R.RST_CAUSE_KEEP_DENIED (b2n denied)).set R.RST_CAUSE_D2_EXIT (b2n d2)

/-- A START_OK whose apply cycle has not passed leaves the count as it was when a reset asserts (R544). -/
def Dev.startUndo (d : Dev) : Dev := match d.rst.startWas with
  | none => d
  | some (n, b) => if d.busy C.rst && kvGet R.RST_CMD_OP.addr d.regs.busy == some b then d.set R.RST_COUNT_COUNT n else d

/-- POR asserts (R514). What happened in the same cycle settles first (R598). -/
def Dev.porAssert (d : Dev) : Dev :=
  let d := ((d.startUndo.imgCut false).settle.resetFreeze 1).allClear
  { d with regs := { d.regs with backupC := [] } }.onRst (fun r => { r with vdd := false, por := true, warm := false })

/-- RST_N falls (R515 to R517). -/
def Dev.pinAssert (d : Dev) (keep : Bool) : Dev :=
  if d.rst.por || d.rst.pin then d.onRst (fun r => { r with pin := true })
  else
    let warm := keep && d.flag R.RST_STAT_KA_VALID
    let wd := d.rst.wdogN
    let fromD2 := d.rst.d2
    let d := (d.startUndo.imgCut warm).settle.resetFreeze (if warm then 3 else 2)
    let d := if warm then d.mainClear.dcoHold false else d.allClear
    (d.resetCause (if warm then 2 else 1) wd (keep && !warm) (fromD2 && warm)).onRst (fun r => { r with pin := true, warm := warm, d2 := false })

/-- VBAT rises through 1.5 V (R512). -/
def Dev.vbatPor (d : Dev) : Dev :=
  let d := { d with regs := { d.regs with backup := [], backupC := [] }, sump := {}, sec := { d.sec with head := 0, seq := 0 } }.onCyc
    (fun c => { c with snap := [], recs := [], fzs := [] })
  let d := d.onRst (fun r => { r with wdogN := false, wdogLeft := 0 })
  if d.rst.vdd then d.ev E.BKUP_LOST else d

/-! ### The start sequence (R520 to R531) -/

/-- A zone fails its option load (R524, R525). -/
def zoneFails (otp : Otp) (boot : BootIn) (z : Nat) : Bool :=
  let c := (otp.zones.getD z 0).toNat
  bit boot.zoneUe.toNat z || otp.cut.contains z || (c != 0 && bits c 480 32 != crc32 (leBytes 60 c))

/-- A mask of the zones for which `f` holds. -/
def zoneMask (f : Nat → Bool) : Nat := (List.range 8).foldl (fun a z => a + b2n (f z) * 2 ^ z) 0

/-- The option load (R525). -/
def Dev.optionLoad (d : Dev) (otp : Otp) (boot : BootIn) : Dev :=
  let fails := zoneMask (zoneFails otp boot)
  let d := d.onRst (fun r => { r with opt := otp.zones })
  let d := (List.range 8).foldl (fun d z => d.setWords (fun k => R.RST_OPT_B (16 * z + k)) 16 (otp.zones.getD z 0).toNat) d
  let d := d.set R.RST_OPT_STAT_FAIL fails
  let d := d.set R.RST_OPT_STAT_BLANK (zoneMask (fun z => otp.zones.getD z 0 == 0 && !zoneFails otp boot z))
  let d := d.set R.RST_OPT_STAT_CE (min boot.otpCe 65535)
  if fails = 0 then d else (d.set R.RST_STAT_OPT_FAULT 1).ev E.OPT_FAULT

/-- Byte `i` of zone INST_CFG, `x` where it is blank or failed (R526, R527). -/
def Dev.instCfg (d : Dev) (i x : Nat) : Nat := match d.zone 4 with
  | none => x
  | some c => zByte c i

/-- FAIL_THRESH -/
def Dev.failThresh (d : Dev) : Nat :=
  let x := d.instCfg 0 4 % 16
  if x < 2 then 4 else x

/-- WDOG_BOOT in s -/
def Dev.wdogBoot (d : Dev) : Nat := min 60 (d.instCfg 2 10)

/-- WDOG_PULSE in ms; 0 acts as 20 -/
def Dev.wdogPulse (d : Dev) : Nat :=
  let x := d.instCfg 1 20
  if x = 0 then 20 else x

/-- QSPI_QUAD -/
def Dev.qspiQuad (d : Dev) : Bool := bit (d.instCfg 3 8) 3

/-- The identity public key of a private key, X then Y (R584). -/
def idPubOf (priv : Nat) : BitVec 768 :=
  let p := (JPoint.mk bpG.1 bpG.2 1).mul 384 priv
  let zi := powMod bpP 384 p.z (bpP - 2)
  let z2 := zi * zi % bpP
  BitVec.ofNat 768 (p.x * z2 % bpP * 2 ^ 384 + p.y * (z2 * zi % bpP) % bpP)

/-- The identity key: generated where the key store is blank, a private key that the spec leaves open (R584; log entry 1). `ue` says that the key store fails its ECC
check (R585). -/
def Dev.identity (d : Dev) (otp : Otp) (ue : Bool) : Dev × Otp :=
  let otp := { otp with keyOk := otp.keyOk && !(ue && otp.keyStore.isSome) }
  let x := d.takeFree 384
  let (d, otp) := match otp.keyStore with
    | some _ => (d, otp)
    | none => (x.2, { otp with keyStore := some (BitVec.ofNat 384 (1 + x.1 % (bpN - 1))), keyOk := true })
  let pub := if otp.keyOk then (otp.keyStore.map (fun k => idPubOf k.toNat)).getD 0 else 0
  ({ d with sec := { d.sec with idPub := pub, idOk := otp.keyOk } }, otp)

/-- The bytes of a firmware slot, SIG included (R577). -/
def slotBytes (l : List Byte) : List Byte := l.take (320 + leAt l 16 4)

/-- MAKER_PUB -/
def slotPub (l : List Byte) : BitVec 768 := BitVec.ofNat 768 (beNat ((l.drop 128).take 96))

/-- MAGIC, FORMAT, CODE_LEN and the Reserved bytes of a slot (R577, R578). -/
def slotForm (l : List Byte) : Bool :=
  leAt l 0 4 == 0x46573031 && leAt l 4 2 == 1 && inR 1 (leAt l 16 4) 3145728 && leAt l 10 2 == 0 && ((l.drop 24).take 104).all (· == 0)

/-- The number of the first check of R578 that fails, 0 where the slot verifies. -/
def Dev.slotCheck (d : Dev) (l : List Byte) : Nat :=
  let svnMin := ((d.zone 1).map (fun c => bits c 384 16)).getD 0
  if !slotForm l then 1
  else if d.makerHash ≠ some (keyHash (slotPub l)) then 2
  else if !sigOk (some (slotPub l)) (slotBytes l) then 3
  else if leAt l 6 2 < svnMin then 4
  else if !d.stepOk (leAt l 8 2) then 5
  else 0

/-- The nonzero bytes of a list by their place: what the management SRAM holds of it. -/
def sramOf (l : List Byte) : Kv Byte := (l.zipIdx.filter (fun x => x.1 != 0)).map (fun x => (x.2, x.1))

/-- A BOOT record (R589). -/
def Dev.bootRecord (d : Dev) (cause : Nat) (measure : BitVec 384) : Dev :=
  let c := d.get R.RST_CAUSE_KIND + d.get R.RST_CAUSE_WDOG * 4 + d.get R.RST_CAUSE_KEEP_DENIED * 8 + d.get R.RST_CAUSE_D2_EXIT * 16
  d.audit 0 2 1 cause c measure

/-- A slot runs: its code goes to the management SRAM, the watchdog starts, core 0 starts at its entry and the other cores follow (R19, R529, R535). -/
def Dev.runSlot (d : Dev) (slot : Nat) (l : List Byte) : Dev :=
  let m := sha384 (slotBytes l)
  let fw : FwInfo := { slot := slot, ver := BitVec.ofNat 32 (leAt l 12 4), svn := BitVec.ofNat 16 (leAt l 6 2), measure := m, pub := slotPub l }
  let ms := d.wdogBoot * 1000
  let d := { d with sec := { d.sec with fwInfo := some fw, heldMaker := some (slotPub l) }
                    cores := { sram := sramOf ((l.drop 224).take (leAt l 16 4)), started := 0b1111 } }
  let d := if ms = 0 then d else
    ((d.set R.RST_WDOG_CTL_TIMEOUT ms).set R.RST_WDOG_CTL_EN 1).onRst (fun r => { r with wdogMs := ms, wdogAt := r.xoUs * 1000 + r.xoSub, wdogWarned := false })
  (d.onRst (fun r => { r with fwUp := true })).bootRecord 0 m

/-- The blocks that stay held in recovery mode: the cells, the media blocks and the Ethernet ports (R532). -/
def heldBlks : List Blk := (List.range 64).map .cell ++ [.pkt, .cis, .cnv, .tone, .cmp] ++ (List.range 4).map .eth ++ [.bsd]

/-- Recovery mode (R531 to R533): the boot ROM's service runs on core 0 and enables link training. -/
def Dev.recovery (d : Dev) (cause : Nat) : Dev :=
  let d := ((d.set R.RST_STAT_RECOVERY 1).set R.RST_RECOV_CAUSE cause).ev E.RECOVERY
  let d := if d.get R.TIME_DCO_CTL_MODE = 2 then (d.onTim (fun x => { x with holdAuto := false })).ev E.DCO_HOLDOVER else d.dcoHold false
  let d := { d.set R.PCIE_CTL_LTSSM_EN 1 with cores := { rom := true } }
  (d.onRst (fun r => { r with fwUp := true, inRst := heldBlks })).bootRecord cause 0

/-- A slot is verified; one that fails raises FW_VERIFY_FAIL (R578). -/
def Dev.trySlot (d : Dev) (slot : Nat) (l : List Byte) : Bool × Dev :=
  let c := d.slotCheck l
  if c = 0 then (true, d) else (false, d.ev E.FW_VERIFY_FAIL c slot)

/-- Core 0 makes its boot decision (R529). -/
def Dev.bootDecision (d : Dev) (boot : BootIn) : Dev :=
  let cfg := d.instCfg 3 8
  let s := cfg % 2
  let slot := fun i => if i = 0 then boot.slotA else boot.slotB
  if d.flag R.RST_STAT_OPT_FAULT then d.recovery 2
  else if d.get R.RST_COUNT_THRESH ≤ d.get R.RST_COUNT_COUNT then d.recovery 1
  else if d.flag R.RST_STAT_RECOV_NEXT then (d.set R.RST_STAT_RECOV_NEXT 0).recovery 4
  else
    let (ok, d) := d.trySlot s (slot s)
    if ok then d.runSlot s (slot s)
    else if bit cfg 1 then d.recovery 3
    else
      let (ok, d) := d.trySlot (1 - s) (slot (1 - s))
      if ok then d.runSlot (1 - s) (slot (1 - s)) else d.recovery 3

/-- The keep-alive domain is released: the µs count restarts (R528, R648). -/
def Dev.kaRelease (d : Dev) : Dev :=
  (d.onRst (fun r => { r with kaUp := true, xoUs := 0, xoSub := 0 })).set R.RST_STAT_KA_VALID 1

/-- Units whose clock is not valid at a device-level release stay held (R520): a block as by a block reset whose release waits, a cell without a clock, and the others by
themselves; the DDR and the tick PLL are not reset by a warm reset. -/
def Dev.holdUnits (d : Dev) (us : List HoldUnit) (warm : Bool) : Dev :=
  d.each us (fun d u => match u with
    | .blk (.cell n) => d.onRst (fun r => { r with clkBad := if r.clkBad.contains (.cell n) then r.clkBad else r.clkBad ++ [.cell n] })
    | .blk b => if d.rst.inRst.contains b then d else d.onRst (fun r => { r with inRst := r.inRst ++ [b], relPend := r.relPend ++ [b], clkBad := r.clkBad ++ [b] })
    | .pcie => d.onRst (fun r => { r with unitBad := if r.unitBad.contains u then r.unitBad else r.unitBad ++ [u] })
    | u => if warm then d else d.onRst (fun r => { r with unitBad := if r.unitBad.contains u then r.unitBad else r.unitBad ++ [u] }))

/-- The start sequence (R528): keep-alive domain, option load, memories, reset counter, boot decision. After a warm pin reset the keep-alive domain runs
on, the DRAM leaves self-refresh, and a calibration window ends without a commit (R541, R566). -/
def Dev.start (d : Dev) (otp : Otp) (boot : BootIn) : Dev × Otp :=
  let warm := d.rst.kaUp
  let d := if warm then d else d.kaRelease
  let d := (d.onRst (fun r => { r with mainUp := true })).holdUnits boot.noClk warm
  let d := d.optionLoad otp boot
  let d := d.onRst (fun r => { r with quad := d.qspiQuad })
  let d := if warm then ((d.set R.DDR_STAT_SR_A 0).set R.DDR_STAT_SR_B 0).calClose else d.calDefaults
  let d := (d.set R.RST_COUNT_THRESH d.failThresh).count R.RST_COUNT_COUNT
  let (d, otp) := d.identity otp boot.keyUe
  (d.bootDecision boot, otp)

/-- A step of the device that may program the OTP. -/
def State.runOtp (s : State) (w : When) (f : Dev → Otp → Dev × Otp) : Out :=
  let r := f (s.dev.at w) s.otp
  .next { s with dev := (r.1.mediaEv s.dev.media).settle, otp := r.2 }

/-- A supply has lain below its POR threshold for 1 µs or longer (R514, R621); a bank that is not powered is not in use. -/
def Dev.porDip (d : Dev) (x : SupplyDip) : Bool := decide (1000 ≤ x.ns) && (match x.supply with
  | .core => decide (x.level < 660)
  | .sram => decide (x.level < 700)
  | .serdes => decide (x.level < 900)
  | .vddio b => bit d.rst.banks.toNat b && decide (x.level < 1550))

/-- A VDD supply falls below its threshold (R514). -/
def execPorAssert (dip : SupplyDip) (s : State) : Out :=
  s.runOtp dip.time (fun d o => if d.porDip dip then (d.porAssert, d.otpCut o) else (d, o))

/-- POR releases, with the VDDIO banks that are powered; bank 3 has to be (R621, R627). Where RST_N is low, the start waits for it (R517, R528). -/
def execPorRelease (w : When) (boot : BootIn) (s : State) : Out :=
  s.runOtp w (fun d o =>
    if !d.rst.por || !bit boot.banks.toNat 3 then (d, o)
    else
      let d := d.onRst (fun r => { r with por := false, vdd := true, banks := boot.banks })
      if d.rst.pin then (d, o) else d.start o boot)

/-- RST_N falls (R515). -/
def execRstNAssert (w : When) (rstkeep : Bool) (s : State) : Out := s.runOtp w (fun d o => (d.pinAssert rstkeep, d.otpCut o))

/-- RST_N rises (R528). -/
def execRstNRelease (w : When) (boot : BootIn) (s : State) : Out :=
  s.runOtp w (fun d o =>
    if !d.rst.pin then (d, o)
    else
      let d := d.onRst (fun r => { r with pin := false })
      if d.rst.por then (d, o) else d.start o boot)

/-- VBAT rises through 1.5 V (R512). -/
def execVbatPor (w : When) (s : State) : Out := s.run w Dev.vbatPor

/-! ### The watchdog (R535 to R537) -/

/-- A write to RST_WDOG_KICK, from FW only (R535, R573). -/
def Dev.wdogKick (d : Dev) (req : Requester) (val : Nat) : Dev :=
  if req != .fw then d.denied
  else if bits val 0 16 = 0xA5C3 then
    (d.set R.RST_WDOG_CTL_WARNED 0).onRst (fun r => { r with wdogMs := max 1 (d.get R.RST_WDOG_CTL_TIMEOUT), wdogAt := r.xoUs * 1000 + r.xoSub, wdogWarned := false })
  else d

/-- A write to RST_WDOG_KICK (R535). -/
def execWdogKick (w : When) (req : Requester) (val : Word) (s : State) : Out := s.runReq w req (·.wdogKick req val.toNat)

/-- The watchdog's count: whole ms since it was started, kicked or expired (R535, R536). -/
def Dev.wdogCount (d : Dev) : Nat := (d.xoNs - d.rst.wdogAt) / 10 ^ 6

/-- Three quarters of the timeout have passed without a kick, for the first time in this count (R535). -/
def Dev.wdogWarns (d : Dev) : Bool := d.flag R.RST_WDOG_CTL_EN && !d.rst.wdogWarned && decide (3 * d.rst.wdogMs ≤ 4 * d.wdogCount)

/-- The timeout has passed (R536). -/
def Dev.wdogOver (d : Dev) : Bool := d.flag R.RST_WDOG_CTL_EN && decide (d.rst.wdogMs ≤ d.wdogCount)

/-- Three quarters of the timeout have passed (R535). -/
def execWdogWarn (w : When) (s : State) : Out :=
  s.runMain w (fun d => Dev.when d.wdogWarns (fun d => ((d.set R.RST_WDOG_CTL_WARNED 1).onRst (fun r => { r with wdogWarned := true })).ev E.WDOG_WARN) d)

/-- The watchdog expires: WDOG_N goes low for WDOG_PULSE ms, a pulse that stands starts anew, and the count restarts with the same timeout (R536). -/
def execWdogExpire (w : When) (s : State) : Out :=
  s.runMain w (fun d => Dev.when d.wdogOver (fun d => (d.ev E.WDOG_EXPIRE).onRst (fun r =>
    { r with wdogN := true, wdogLeft := d.wdogPulse * 10 ^ 6, wdogAt := d.xoNs, wdogWarned := false })) d)

/-- The pulse reaches WDOG_PULSE ms (R536). The stretcher stands outside every reset (R537). -/
def execWdogPulseEnd (w : When) (s : State) : Out :=
  s.run w (fun d => Dev.when (d.rst.wdogLeft == 0) (·.onRst (fun r => { r with wdogN := false })) d)

/-! ### RST_CMD (R523, R530, R531, R540 to R545) -/

/-- A D-state command; of those written before one boundary the last applies (R541, R542, R545). -/
def Dev.pwrCmd (d : Dev) (st : BitVec 2) : Except Nat Dev :=
  let sh := d.get R.STK_IMG_STAT_SHADOW
  if d.flag R.RST_STAT_RECOVERY ∨ (st = 2 ∧ (sh = 1 ∨ sh = 3)) then .error 1
  else .ok ((d.set R.RST_PWR_PEND 1).onRst (fun r => { r with pwrPend := some st }))

/-- RST_CMD (R545). OP 1 to 3 are taken from FW only (R573). -/
def Dev.rstCmd (d : Dev) (req : Requester) (op : Nat) : Dev :=
  let full := req == .fw && op == 3 && !d.audFree && !d.busy C.rst
  let d' := d.command C.rst req (if op = 1 ∨ op = 2 ∨ op = 3 then .fwOnly else .oper) (fun d =>
    match op with
    | 1 => .ok ((d.set R.RST_COUNT_COUNT 0).onRst (fun r => { r with startWas := some (d.get R.RST_COUNT_COUNT, d.busyStamp) }))
    | 2 => if d.flag R.RST_STAT_SCRUB_BUSY then .error 1 else .ok (d.set R.RST_STAT_SCRUB_BUSY 1)
    | 3 => if !d.audFree then .error 1 else .ok ((d.set R.RST_STAT_RECOV_NEXT 1).audit 0 (reqNum req) 9 0 0 0)
    | 4 => d.pwrCmd 0
    | 5 => d.pwrCmd 1
    | 6 => d.pwrCmd 2
    | _ => .error 2)
  if full then d'.ev E.AUDIT_FULL else d'

/-- START_OK (R531). -/
def execStartOk (w : When) (req : Requester) (s : State) : Out := s.runReq w req (·.rstCmd req 1)

/-- RES_SCRUB (R523). -/
def execResScrub (w : When) (req : Requester) (s : State) : Out := s.runReq w req (·.rstCmd req 2)

/-- RECOVER_NEXT (R531). -/
def execRecoverNext (w : When) (req : Requester) (s : State) : Out := s.runReq w req (·.rstCmd req 3)

/-- D0 (R540). -/
def execPwrD0 (w : When) (req : Requester) (s : State) : Out := s.runReq w req (·.rstCmd req 4)

/-- D1 (R540). -/
def execPwrD1 (w : When) (req : Requester) (s : State) : Out := s.runReq w req (·.rstCmd req 5)

/-- D2 (R541). -/
def execPwrD2 (w : When) (req : Requester) (s : State) : Out := s.runReq w req (·.rstCmd req 6)

/-- The scrub completes (R523): every word has been read once, single-bit errors are corrected, uncorrectable words are left to read as POISON. `ce` and
`ue` are errors found beside those the state lists. -/
def Dev.scrubDone (d : Dev) (ce ue : List Nat) : Dev :=
  if !d.flag R.RST_STAT_SCRUB_BUSY then d
  else
    let ues := (ue.foldl (fun l a => insNat a l) d.qf.resUe)
    let ces := (ce.foldl (fun l a => insNat a l) d.qf.resCe).filter (fun a => !ues.contains a)
    let d := { d with qf := { d.qf with resUe := ues, resCe := ces } }
    let d := d.each ces (fun d a => (d.resRead a).2)
    let d := d.each ues (fun d a => (d.resRead a).2)
    let d := { d with qf := { d.qf with resCe := [] } }
    ((d.set R.RST_STAT_SCRUB_BUSY 0).set R.RST_STAT_RES_UNVER 0).ev E.RES_SCRUB_DONE

/-- RES_SCRUB_DONE (R523). -/
def execResScrubDone (w : When) (ce ue : List Nat) (s : State) : Out := s.runMain w (·.scrubDone ce ue)

/-! ### Power states (R12, R268, R540, R541) -/

/-- A register of the option bytes or their state (R546). -/
def optKey (k : Nat) : Bool :=
  let a := k / 32
  decide ((R.RST_OPT_B 0).addr ≤ a ∧ a < (R.RST_OPT_B 0).addr + 512) || a == R.RST_OPT_STAT_FAIL.addr

/-- The option bytes and RST_OPT as they stood before the main domain was reset (R543). -/
def Dev.keepOpt (d was : Dev) : Dev :=
  { d with regs := { d.regs with main := (was.regs.main.filter (fun x => optKey x.1)).foldl (fun m x => kvSet x.1 x.2 m) d.regs.main } }

/-- D2 is entered: the main domain is reset but for the option bytes, the DRAM goes to self-refresh, the DCO to holdover (R419, R541). -/
def Dev.enterD2 (d : Dev) : Dev :=
  let d := ((((d.imgCut true).settle.mainClear).keepOpt d).dcoHold false)
  let d := d.set R.DDR_STAT_SR_A (d.get R.DDR_CFG_A_EN)
  (d.set R.DDR_STAT_SR_B (d.get R.DDR_CFG_B_EN)).onRst (fun r => { r with d2 := true })

/-- The D-state command that waits applies at the boundary (R540, R542); in D1 a cell whose last instance has retired is gated there (R268). -/
def Dev.pwrBoundary (d : Dev) : Dev := match d.rst.pwrPend with
  | none => d.regate
  | some st =>
    let d := (d.set R.RST_PWR_PEND 0).onRst (fun r => { r with pwrPend := none })
    if st = 2 then d.enterD2
    else if st = 1 then ((d.set R.RST_PWR_STATE 1).gateCells).ev E.PWR_DONE
    else
      let d := d.each (List.range 64) (fun d n => if d.get (R.CELL_STAT_PWR n) = 2 then d.set (R.CELL_STAT_PWR n) 0 else d)
      (d.set R.RST_PWR_STATE 0).ev E.PWR_DONE

/-! ### Block resets (R35, R121, R267, R520, R521, R538, R539) -/

/-- The block exists (R538). -/
def blkOk : Blk → Bool
  | .cell n => decide (n < 64)
  | .tdm n => decide (n < 32)
  | .madi m => decide (m < 4)
  | .eth p => decide (p < 4)
  | _ => true

/-- The block's bit in RST_BRST, where it is reset there (R547). -/
def brstIdx : Blk → Option Nat
  | .pkt => some 0
  | .cis => some 1
  | .cnv => some 2
  | .tone => some 3
  | .cmp => some 4
  | .eth p => some (5 + p)
  | .bsd => some 13
  | _ => none

/-- The blocks of RST_BRST. -/
def brstBlks : List Blk := [.pkt, .cis, .cnv, .tone, .cmp, .eth 0, .eth 1, .eth 2, .eth 3, .bsd]

/-- The block's reset is requested in its register. -/
def Dev.brstBit (d : Dev) (b : Blk) : Bool := match b with
  | .cell n => d.flag (R.CELL_CTL_BRST n)
  | .tdm n => d.flag (R.TDM_CTL_BRST n)
  | .madi m => d.flag (R.MADI_CTL_BRST m)
  | _ => bit (d.get R.RST_BRST_BRST) ((brstIdx b).getD 31)

/-- The block's request bit is written. -/
def Dev.setBrst (d : Dev) (b : Blk) (on : Bool) : Dev := match b with
  | .cell n => d.set (R.CELL_CTL_BRST n) (b2n on)
  | .tdm n => d.set (R.TDM_CTL_BRST n) (b2n on)
  | .madi m => d.set (R.MADI_CTL_BRST m) (b2n on)
  | _ => d.set R.RST_BRST_BRST (setBits (d.get R.RST_BRST_BRST) ((brstIdx b).getD 31) 1 (b2n on))

/-- The registers of a block: first and past the last address (R613). -/
def blkRange : Blk → Nat × Nat
  | .cell n => (0x01C00000 + n * 0x10000, 0x01C00000 + (n + 1) * 0x10000)
  | .tdm n => (0x02380000 + n * 0x100, 0x02380000 + (n + 1) * 0x100)
  | .madi m => (0x02384000 + m * 0x100, 0x02384000 + (m + 1) * 0x100)
  | .pkt => (0x01000000, 0x01400000)
  | .cis => (0x01400000, 0x01800000)
  | .cnv => (0x01800000, 0x01C00000)
  | .tone => (0x02000000, 0x02100000)
  | .cmp => (0x02100000, 0x02200000)
  | .eth p => (0x02300000 + p * 0x1000, 0x02300000 + (p + 1) * 0x1000)
  | .bsd => (0x02386000, 0x02800000)

/-- The key of CELL_STAT.PWR: whether a cell is powered, or wakes, is no matter of its block reset (R268, R269). -/
def cellPwrKey (k : Nat) : Bool := (List.range 64).any (fun n => k == (R.CELL_STAT_PWR n).key)

/-- The block's fields with Kept code — return to their Reset values (R13). -/
def Dev.blkFields (d : Dev) (b : Blk) : Dev :=
  let r := blkRange b
  { d with regs := { d.regs with
      main := d.regs.main.filter (fun x => !(decide (r.1 ≤ x.1 / 32) && decide (x.1 / 32 < r.2)) || cellPwrKey x.1)
      busy := d.regs.busy.filter (fun x => !(decide (r.1 ≤ x.1) && decide (x.1 < r.2))) } }

/-- The tasks whose instance runs or waits on cell `n`, with the bits they run under. -/
def Dev.cellInsts (d : Dev) (n : Nat) : List (Nat × Nat) :=
  d.pump.tasks.filterMap (fun x => x.2.inst.bind (fun i => if tCell i.bits = n then some (x.1, i.bits) else none))

/-- The run-time state of a block's objects is cleared (R539, R543). Instances on a cell retire CANCELLED (R266). -/
def Dev.blkState (d : Dev) (b : Blk) : Dev := match b with
  | .cell n =>
    let d := match d.inRun n with
      | some (_, i) =>
        let (outs, d) := d.runOuts i false
        d.flushOpen outs
      | none => d
    let d := d.runEnds n
    let d := d.each (d.cellInsts n) (fun d x => Dev.pump' (d.retire x.1 x.2 .cancelled))
    let c := d.cell n
    d.setCell n { lm := c.lm, lmUe := c.lmUe, lmCe := c.lmCe, code := c.code }
  | .pkt => { d with pkt := {} }
  | .cis => { d with cis := [] }
  | .cnv => { d with cnv := { coef := d.cnv.coef, coefUe := d.cnv.coefUe, coefCe := d.cnv.coefCe } }
  | .tone => { d with tone := {} }
  | .cmp => { d.jobStop with cmp := {} }
  | .eth p =>
    let d := d.ethDown p false
    { d with ports := { d.ports with ethTx := kvDel p d.ports.ethTx } }
  | .bsd => { d with ports := { d.ports with bsdGood := [], bsdBad := [] } }
  | .tdm n => d.lineHold false n
  | .madi m => d.lineHold true m

/-- The block's flits leave the router's input buffers; the link credits of those that came over a link are in return (R121). -/
def Dev.isoFlits (d : Dev) (flits : List (Nat × Nat)) : Dev :=
  d.each flits (fun d x =>
    let l := d.link x.1
    let m := min x.2 l.buf
    let d := if m = 0 then d else d.setLink x.1 { l with buf := l.buf - m, ret := l.ret + m }
    { d with qf := { d.qf with isoFlits := d.qf.isoFlits + BitVec.ofNat 32 x.2 } })

/-- The run-time copies of what the image gives a block's objects: they start at the image's values, which a block reset leaves in place (R499,
R539; log entry 105). -/
def Dev.blkCopies (d : Dev) (b : Blk) : Dev :=
  let bk := d.bank
  match b with
  | .cis => d.each (bk.sec S.CISTERNS) (fun d x => d.setCis x.1 (cisFresh x.2))
  | .cnv =>
    let d := d.each (bk.sec S.CHAINS) (fun d x => d.chainStart x.1 x.2)
    d.each (bk.sec S.LANES) (fun d x => d.setLane x.1 (laneFresh x.2 d.org.num))
  | .tone => d.each (bk.sec S.DET) (fun d x => d.setDet x.1 { en := tdEnInit x.2 })
  | .cmp => d.each (bk.sec S.CMP) (fun d x => d.setCmpS x.1 (cmpFresh x.2))
  | _ => d

/-- The isolation cycle of a block whose reset is requested (R35, R121). -/
def Dev.isolate (d : Dev) (b : Blk) (flits : List (Nat × Nat)) : Dev :=
  if !blkOk b || !d.brstBit b || d.isolated b then d
  else
    let d := d.onRst (fun r => { r with inRst := r.inRst ++ [b] })
    let d := (d.isoFlits flits).isoQueues b
    let d := (((d.blkState b).blkCopies b).blkFields b).setBrst b true
    d.chainsWatch

/-- The isolation cycle (R121): the `reqs` requests outstanding at the wrapper complete with ISO_ERR, which the reply says with their number (R35). -/
def execIsolation (w : When) (blk : Blk) (flits : List (Nat × Nat)) (reqs : Nat) (s : State) : Out :=
  s.runMain w (fun d => Dev.when (blkOk blk && d.brstBit blk && !d.isolated blk) (fun d =>
    { d.isolate blk flits with reply := { d.reply with flag := decide (0 < reqs), value := reqs } }) d)

/-- The credit return is complete (R121). -/
def Dev.isoDone (d : Dev) (b : Blk) : Dev :=
  if !d.isolated b || d.rst.isoDone.contains b || d.flag R.RST_STAT_RECOVERY then d
  else
    let d := d.onRst (fun r => { r with isoDone := r.isoDone ++ [b] })
    (match b with
      | .cell n => d.set (R.CELL_STAT_ISO_DONE n) 1
      | _ => d).ev E.ISO_RETURN_DONE

/-- ISO_RETURN_DONE (R121). -/
def execIsoReturnDone (w : When) (blk : Blk) (s : State) : Out := s.runMain w (·.isoDone blk)

/-- The staging, drain and state regions of a cell are cleared; its code region stays (R229, R267). -/
def Dev.cellRegions (d : Dev) (n : Nat) : Dev :=
  let base := cCodeBase (d.objD S.CELLS n)
  let c := d.cell n
  let out := fun a => decide (a < 64 ∨ base ≤ a)
  d.setCell n { c with lm := c.lm.filter (fun x => out x.1), lmUe := c.lmUe.filter out, lmCe := c.lmCe.filter out }

/-- A block-reset bit is written: 1 requests the reset, and cancels a release that waits; 0 requests the release (R267, R521). A request that is
withdrawn before its isolation cycle leaves the block as it runs. In recovery mode the blocks stay held (R532). -/
def Dev.brst (d : Dev) (b : Blk) (on : Bool) : Dev :=
  if on then (d.setBrst b true).onRst (fun r => { r with relPend := r.relPend.filter (· != b) })
  else if !d.isolated b then d.setBrst b false
  else if d.flag R.RST_STAT_RECOVERY || !d.brstBit b then d
  else
    let d := d.onRst (fun r => { r with relPend := r.relPend.filter (· != b) ++ [b] })
    match b with
    | .cell n => (d.cellRegions n).setBrst b false
    | _ => if (brstIdx b).isSome then d else d.setBrst b false

/-- A write of RST_BRST (R538, R547). -/
def Dev.rstBrst (d : Dev) (req : Requester) (val : Nat) : Dev :=
  if !d.oper req then d.denied
  else d.each brstBlks (fun d b => d.brst b (bit val ((brstIdx b).getD 31)))

/-- A write of RST_BRST (R538). -/
def execRstBrstWrite (w : When) (req : Requester) (val : Word) (s : State) : Out := s.runReq w req (·.rstBrst req val.toNat)

/-- A block-reset register of one block is written (R267, R456, R572). -/
def Dev.brstReg (d : Dev) (req : Requester) (b : Blk) (on : Bool) : Dev :=
  if !blkOk b then d else if !d.oper req then d.denied else d.brst b on

/-- CELL_CTL.BRST is written 1 (R267). -/
def execCellBrstSet (w : When) (req : Requester) (n : Nat) (s : State) : Out := s.runReq w req (·.brstReg req (.cell n) true)

/-- CELL_CTL.BRST is written 0 (R267). -/
def execCellBrstRelease (w : When) (req : Requester) (n : Nat) (s : State) : Out := s.runReq w req (·.brstReg req (.cell n) false)

/-- TDM_CTL.BRST or MADI_CTL.BRST is written (R456). -/
def execTdmBrst (w : When) (req : Requester) (madi : Bool) (port : Nat) (val : Word) (s : State) : Out :=
  s.runReq w req (·.brstReg req (if madi then .madi port else .tdm port) (bit val.toNat 0))

/-- The block's objects start as at the changeover that brought them in (R499, R539). -/
def Dev.blkStart (d : Dev) (b : Blk) : Dev :=
  let bk := d.bank
  match b with
  | .cell n =>
    let d := d.each ((bk.sec S.TASKS).filter (fun x => tCell x.2 == n)) (fun d x => d.setTask x.1 { d.task x.1 with firstRun := true })
    match d.img.active with
    | none => d
    | some i => d.cellRegs i n
  | .pkt => d.each (bk.sec S.EGRESS) (fun d x =>
      let s := d.takeFree 16
      let i := s.2.takeFree 16
      i.2.setEg x.1 { seq := BitVec.ofNat 16 s.1, ipId := BitVec.ofNat 16 i.1 })
  | .cnv => (d.blkCopies .cnv).each (bk.sec S.LANES) (fun d x => d.laneClear x.1 x.2)
  | .tdm n => d.lineStart false n
  | .madi m => d.lineStart true m
  | _ => d.blkCopies b

/-- A bit of RST_HELD (R547). -/
def Dev.heldBit (d : Dev) (b : Blk) (on : Bool) : Dev := match b with
  | .cell _ => d.set R.RST_HELD_CELL (b2n on)
  | .tdm _ => d.set R.RST_HELD_TDM (b2n on)
  | .madi m => d.set R.RST_HELD_BLK (setBits (d.get R.RST_HELD_BLK) (9 + m) 1 (b2n on))
  | _ => d.set R.RST_HELD_BLK (setBits (d.get R.RST_HELD_BLK) ((brstIdx b).getD 31) 1 (b2n on))

/-- Another cell, or another TDM port, is held beside `b`. -/
def Dev.heldToo (d : Dev) (b : Blk) : Bool :=
  let same := fun (x : Blk) => match b, x with
    | .cell n, .cell m => n != m
    | .tdm n, .tdm m => n != m
    | _, _ => false
  d.rst.clkBad.any same

/-- A block leaves reset on the fourth edge of its clock after its request has ended and its clock is valid (R520, R521, R644). A block that was only held
for its clock runs on. -/
def Dev.blkRelease (d : Dev) (b : Blk) : Dev :=
  let pend := d.rst.relPend.contains b
  if !pend && !d.rst.clkBad.contains b then d
  else
    let d := d.onRst (fun r => { r with clkBad := r.clkBad.filter (· != b) })
    let d := if d.heldToo b then d else d.heldBit b false
    if !pend then d
    else
      let d := d.onRst (fun r => { r with
          relPend := r.relPend.filter (· != b), inRst := r.inRst.filter (· != b), isoDone := r.isoDone.filter (· != b) })
      let d := match b with
        | .cell n => d.set (R.CELL_STAT_ISO_DONE n) 0
        | _ => if (brstIdx b).isSome then d.setBrst b false else d
      d.blkStart b

/-- The bit of RST_HELD of a DDR channel, PCIe or the tick PLL (R547). -/
def unitFld : HoldUnit → Fld
  | .ddr false => R.RST_HELD_DDR_A
  | .ddr true => R.RST_HELD_DDR_B
  | .pcie => R.RST_HELD_PCIE
  | _ => R.RST_HELD_TICK

/-- What R520 holds leaves reset. -/
def Dev.unitRelease (d : Dev) : HoldUnit → Dev
  | .blk b => d.blkRelease b
  | u => (d.onRst (fun r => { r with unitBad := r.unitBad.filter (· != u) })).set (unitFld u) 0

/-- A block leaves reset (R520). -/
def execBlockRelease (w : When) (u : HoldUnit) (s : State) : Out := s.runMain w (·.unitRelease u)

/-- A block has been held 100 µs for a clock that is not valid (R520, R521). -/
def Dev.blkHeld (d : Dev) (b : Blk) : Dev :=
  if blkOk b && (d.rst.relPend.contains b || d.rst.clkBad.contains b) then
    ((d.onRst (fun r => { r with clkBad := if r.clkBad.contains b then r.clkBad else r.clkBad ++ [b] })).heldBit b true).ev E.BLOCK_HELD
  else d

/-- What R520 holds has been held 100 µs for a clock that is not valid. -/
def Dev.unitHeld (d : Dev) : HoldUnit → Dev
  | .blk b => d.blkHeld b
  | u => if d.rst.unitBad.contains u then (d.set (unitFld u) 1).ev E.BLOCK_HELD else d

/-- BLOCK_HELD (R520). -/
def execBlockHeld (w : When) (u : HoldUnit) (s : State) : Out := s.runMain w (·.unitHeld u)

/-- The DCO synthesiser loses lock: the cell clock is not valid, and the cells, all of which run on it, are held (R227, R644). -/
def Dev.dcoUnlock (d : Dev) : Dev := d.onRst (fun r => { r with clkBad := dcoBlks ++ r.clkBad.filter (fun b => !blkOnDco b) })

/-- The DCO synthesiser loses lock (R644). -/
def execDcoLossOfLock (w : When) (s : State) : Out := s.runKa w Dev.dcoUnlock

end Sys2Proof.Machine
end

