-- ==== Sys2Proof/Machine/Cores.lean ====
section
/-! DEFINITION. The management cores beside their memory map: privilege modes and physical memory protection (R18), which of them run (R19), and the console
UART of core 0 (R472). The arithmetic of a protection entry is that of the RISC-V privileged architecture, which R18 names: PRESUMED (log entry 107). -/

namespace Sys2Proof.Machine

/-- Core `c` as it stands. -/
def Dev.core (d : Dev) (c : Nat) : CoreRt := kvD d.cores.cores c {}

/-- Core `c` is replaced. -/
def Dev.setCore (d : Dev) (c : Nat) (r : CoreRt) : Dev := { d with cores := { d.cores with cores := kvPut {} c r d.cores.cores } }

/-- Core `c` runs: core 0 from its boot, the others once core 0 has verified the firmware (R19); in recovery mode core 0 alone (R532). -/
def Dev.coreRuns (d : Dev) (c : Nat) : Bool := decide (c < 4) && bit d.cores.started.toNat c && (c == 0 || !d.flag R.RST_STAT_RECOVERY)

/-! ### Physical memory protection -/

/-- Protection entry `i`: its configuration byte and its address, in units of four bytes. -/
def CoreRt.entry (r : CoreRt) (i : Nat) : PmpEntry := kvD r.pmp i {}

/-- The number of one bits at the low end. -/
def trailingOnes : Nat → Nat → Nat
  | 0, _ => 0
  | n + 1, x => if x % 2 = 1 then trailingOnes n (x / 2) + 1 else 0

/-- The byte range of entry `i`, from the first address to past the last; none where the entry is off. -/
def CoreRt.range (r : CoreRt) (i : Nat) : Option (Nat × Nat) :=
  let e := r.entry i
  let a := e.addr.toNat
  match bits e.cfg.toNat 3 2 with
  | 1 => some (if i = 0 then 0 else (r.entry (i - 1)).addr.toNat * 4, a * 4)
  | 2 => some (a * 4, a * 4 + 4)
  | 3 =>
    let n := trailingOnes 54 a
    let lo := (a - (2 ^ n - 1)) * 4
    some (lo, lo + 2 ^ (n + 3))
  | _ => none

/-- The lowest entry that matches a byte of the access decides; it must match all of them and give the right. Machine mode is bound by a locked entry only, and
user mode needs an entry. -/
def CoreRt.allows (r : CoreRt) (a n : Nat) (write : Bool) : Bool :=
  match (List.range 16).findSome? (fun i => match r.range i with
    | some (lo, hi) => if a < hi ∧ lo < a + n then some (i, decide (lo ≤ a ∧ a + n ≤ hi)) else none
    | none => none) with
  | none => !r.user
  | some (i, whole) =>
    let c := (r.entry i).cfg.toNat
    whole && ((!r.user && !bit c 7) || bit c (if write then 1 else 0))

/-- A write of an entry from machine mode; a locked entry, and the address below a locked entry that reads it, hold what they have. -/
def CoreRt.setPmp (r : CoreRt) (i : Nat) (cfg : BitVec 8) (addr : BitVec 54) : CoreRt :=
  let next := (r.entry (i + 1)).cfg.toNat
  if r.user || decide (16 ≤ i) || bit (r.entry i).cfg.toNat 7 then r
  else
    let addr := if bit next 7 && bits next 3 2 == 1 then (r.entry i).addr else addr
    { r with pmp := kvPut {} i ⟨cfg, addr⟩ r.pmp }

/-! ### The UART (R472) -/

/-- The line bits of one character in 8N1: a start bit, eight data bits from the least significant, a stop bit. -/
def uartBits (b : Byte) : List Bool := false :: (List.range 8).map (bit b.toNat) ++ [true]

/-- One bit time in ns, rounded down. -/
def Uart.bitNs (u : Uart) : Nat := 1000000000 / max 1 u.baud

/-- The firmware sets the rate: up to 3 Mbaud. -/
def Uart.setBaud (u : Uart) (n : Nat) : Uart := if 1 ≤ n ∧ n ≤ 3000000 then { u with baud := n } else u

/-- Option bit UART_OFF: the UART is silent outside recovery mode (R527). -/
def Dev.uartOff (d : Dev) : Bool := !d.flag R.RST_STAT_RECOVERY && (match d.zone 4 with
  | none => false
  | some z => bit (zByte z 3) 2)

/-- A write of the flash that the recovery service is given is accepted: only bytes that verify as firmware (R532, R578). -/
def Dev.flashTakes (d : Dev) (l : List Byte) : Bool := d.flag R.RST_STAT_RECOVERY && d.slotCheck l == 0

/-- What a core's instructions do between two accesses. The UART is the console of core 0. -/
def Dev.coreAct (d : Dev) (c : Nat) : CoreAct → Dev
  | .mode user => d.setCore c { d.core c with user := user }
  | .pmp i cfg addr => d.setCore c ((d.core c).setPmp i cfg addr)
  | .baud n => if c = 0 then { d with cores := { d.cores with uart := d.cores.uart.setBaud n } } else d
  | .print l => if c = 0 then { d with cores := { d.cores with uart := { d.cores.uart with tx := if d.uartOff then [] else l.flatMap uartBits } } } else d
  | .typed l => if c = 0 then { d with cores := { d.cores with uart := { d.cores.uart with rx := d.cores.uart.rx ++ l } } } else d
  | .flash l => if c = 0 then { d with reply := { d.reply with value := b2n (d.flashTakes l) } } else d
  | .take => if c = 0 then { d with cores := { d.cores with uart := { d.cores.uart with rx := d.cores.uart.rx.drop 1 } } } else d

end Sys2Proof.Machine
end

