-- ==== Sys2Proof/Machine/Stroke.lean ====
section
/-! DEFINITION. The stroke origin (R43 to R53, R641) and the stroke boundary with all that falls on it. -/

namespace Sys2Proof.Machine

/-- `f` on the origin. -/
def Dev.onOrg (d : Dev) (f : Origin → Origin) : Dev := { d with org := f d.org }

/-- 125,000 ns in 2^-48 ns. -/
def strokeT48 : Nat := 125000 * 2 ^ 48

/-- The error e of R49 at a boundary, in 2^-48 ns, and the number that R43 gives the ideal boundary it is measured against. -/
def strokeErr (now48 phase : Nat) : Int × Int :=
  let x : Int := (now48 : Int) - ((phase * 2 ^ 32 : Nat) : Int)
  let y := x % (strokeT48 : Int)
  let e := if y < ((strokeT48 / 2 : Nat) : Int) then y else y - (strokeT48 : Int)
  (e, (x - e) / (strokeT48 : Int))

/-- SLEW as it acts, in ppm (R84). -/
def Dev.slewPpm (d : Dev) : Nat := min 200 (d.get R.STK_ALIGN_SLEW)

/-- The steering term of R50 in 2^-48, as it adds to the DCO's frequency word: the size of e / 125,000 ns, clamped to ±SLEW × 10^-6, rounded
convergently. DESIGN CHOICE (unsafe, log entry 42): its sign is the one that reduces the error, as the rule says it does; the minus of the rule's
formula then stands for the way the boundary moves. -/
def Dev.steerOf (d : Dev) (e : Int) : Int :=
  let lim : Int := ((d.slewPpm * 2 ^ 45 : Nat) : Int)
  roundEven (clampInt (-lim) lim e) 125000

/-- 10 ns in 2^-48 ns (R50, R52). -/
def tenNs48 : Nat := 10 * 2 ^ 48

/-- e lies in the window (R50). While VALID is 0 it never does (R391). -/
def Dev.inWindow (d : Dev) (e : Int) : Bool := d.clkValid && decide (e.natAbs ≤ d.get R.STK_ALIGN_WINDOW * 2 ^ 48)

/-- What the origin does at a boundary: it measures e, sets STK_NUM_BIAS, and steers, is lost, or ends a REORIGIN (R49 to R52, R641). DESIGN CHOICE: ALIGNED reads 0
while VALID is 0, also where |e| is at most 10 ns (R50; log entry 115), and a difference beyond 32 bits stands in BIAS modulo 2^32 (R641; log entry 116). -/
def Dev.originMeasure (d : Dev) : Dev :=
  let d := d.onOrg (fun o => { o with phase := d.phaseReg })
  let x := strokeErr d.now48 d.org.phase
  let e := x.1
  let near := d.clkValid && decide (e.natAbs ≤ tenNs48)
  let d := (d.onOrg (fun o => { o with err := e })).set R.STK_ALIGN_ERR_ERR (fieldOf 32 (roundEven e (2 ^ 44)))
  let d := d.set R.STK_STAT_ALIGNED (b2n near)
  let d := if d.clkValid then d.set R.STK_NUM_BIAS_BIAS (fieldOf 32 ((d.org.num : Int) - x.2)) else d
  if d.org.reorg && d.clkValid then
    let d := d.onOrg (fun o => { o with steer := d.steerOf e, lost := false, reorg := !near })
    if near then d.ev E.ALIGNED else d
  else if d.inWindow e then d.onOrg (fun o => { o with steer := d.steerOf e, lost := false })
  else if d.org.lost then d.onOrg (fun o => { o with steer := 0 })
  else ((d.onOrg (fun o => { o with steer := 0, lost := true })).set R.STK_STAT_ALIGN_LOST 1).ev E.ALIGN_LOST

/-- The keep-alive part of a boundary that begins stroke `org.num`: the adjustment point, the origin, the DCO's new stroke, the latches of the backup
domain (R49, R395, R417, R596). -/
def Dev.boundaryKa (d : Dev) (env : Option BoundaryIn) : Dev :=
  let d := { d with once := [] }
  let d := match env with
    | some x => d.upsetDdr x.upsets
    | none => d
  let held := d.calCovers 5
  let d := (d.dcoRecord.adjust true).originMeasure
  let d := if env.isSome then d.tdcBoundary else d.onTim (fun x => { x with tdc := [] })
  let d := match env with
    | some x => Dev.when d.rst.mainUp (·.runStrokeEnds.calBoundary x) d
    | none => d
  let d := d.dcoBoundary held
  { d with sump := { d.sump with
            latchStroke := BitVec.ofNat 32 d.org.num, latchNs := BitVec.ofNat 32 (d.nowNs % 10 ^ 9), latchValid := d.clkValid } }

/-- The main-domain part (R41, R59, R107, R149 to R170, R445, R499, R542): what a pass that did not come leaves of the stroke that ends, changeover and D-state, then the blocks. A flush that applies here takes also
what a cistern releases at this boundary (R41, R105). -/
def Dev.boundaryMain (d : Dev) (env : Option BoundaryIn) : Dev :=
  let d := match env with
    | some x => (d.upsetMain x.upsets).upsetPorts x.upsets
    | none => d
  let d := d.cnvAdvance.toneAdvance
  let d := if d.coDue d.org.num then d.changeoverNow else d
  let d := d.pwrBoundary
  if !d.rst.mainUp then d
  else
    let d := d.handTriggers
    let flushed := (d.idxs S.QUEUES).filter (fun q => (d.q q).flushPend)
    let d := d.each ((d.idxs S.QUEUES).filter (fun q => !flushed.contains q)) Dev.qBoundary
    let d := d.pumpBoundary
    let d := d.cisBoundary
    let d := d.each flushed Dev.qBoundary
    let d := match env with
      | some x => d.bsdBoundary x.bsdExact.toNat
      | none => d
    let d := ((d.cnvBoundary).toneBoundary).cmpBoundary
    d.egBoundary

/-- STK_TICK fires every 2^TICK_DIV strokes (R82, R88). -/
def Dev.strokeTick (d : Dev) : Dev := if d.org.num % 2 ^ d.get R.STK_CTL_TICK_DIV = 0 then d.ev E.STK_TICK else d

/-- A stroke begins (R43). The census samples after everything else at its cycle 0 (R114, R117). -/
def Dev.boundary (d : Dev) (env : Option BoundaryIn) : Dev :=
  let d := d.boundaryKa env
  let d := Dev.when d.rst.mainUp (·.boundaryMain env) d
  let d := d.linesBoundary.outsBoundary
  Dev.when d.rst.mainUp (fun d => d.strokeTick.censusSample) d

/-- A stroke boundary while the origin runs: the number counts on (R44, R45, R48). Entry to D2 there cuts a WRITE_OTP short (R541, R583). -/
def execStrokeBoundary (w : When) (env : BoundaryIn) (s : State) : Out :=
  s.runOtp w (fun d o =>
    if d.rst.kaUp && d.flag R.STK_STAT_RUNNING then
      let d := d.onOrg (fun o => { o with num := o.num + 1, cc := 0 })
      let d' := d.boundary (some env)
      (d', if d'.rst.d2 && !d.rst.d2 then d.otpCut o else o)
    else (d, o))

/-- STK_CTL.EN is written 1 (R46, R47). -/
def Dev.stkEn (d : Dev) : Dev :=
  if d.flag R.STK_CTL_EN then d
  else
    let d := d.set R.STK_CTL_EN 1
    if d.clkValid then d.onOrg (fun o => { o with enReq := some d.xoNs }) else d.set R.STK_STAT_CLK_INVALID 1

/-- STK_CTL.EN is written 1 (R46). -/
def execStkEn (w : When) (req : Requester) (s : State) : Out :=
  s.runReq w req (fun d => if d.oper req then d.stkEn else d.denied)

/-- The origin starts at a boundary, 1 ms or more after its request (R46, R47): its first stroke takes the number of R43. DESIGN CHOICE: where VALID falls to 0 between
an EN that was accepted and the start, the start is held with the time of that EN and CLK_INVALID stays 0; it may follow at once when VALID returns (log entry 113). -/
def Dev.originStart (d : Dev) : Dev :=
  match d.org.enReq with
  | none => d
  | some r =>
    if d.flag R.STK_STAT_RUNNING || !d.clkValid || decide (d.xoNs < r + 1000000) then d
    else
      let k := (strokeErr d.now48 d.phaseReg).2
      let d := d.onOrg (fun o => { o with num := k.toNat, cc := 0, enReq := none, lost := false })
      let d := ((d.set R.STK_STAT_RUNNING 1).set R.STK_NUM_BIAS_BIAS 0).ev E.ORIGIN_START
      d.boundary none

/-- ORIGIN_START (R46). -/
def execOriginStart (w : When) (s : State) : Out := s.runKa w Dev.originStart

/-- STK_CTL.REORIGIN is written 1 (R51, R52). DESIGN CHOICE: written while the origin is stopped it has no effect, and none is kept for the start (R52, R82; log
entry 114). -/
def Dev.reorigin (d : Dev) : Dev :=
  if d.flag R.STK_STAT_RUNNING then d.onOrg (fun o => { o with reorg := true, lost := false }) else d

/-- STK_CTL.REORIGIN is written 1 (R52). -/
def execReorigin (w : When) (req : Requester) (s : State) : Out :=
  s.runReq w req (fun d => if d.oper req then d.reorigin else d.denied)

/-- A read of STK_NUM_LO latches STK_NUM_HI (R53). -/
def Dev.numLo (d : Dev) : Word × Dev :=
  (BitVec.ofNat 32 d.org.num, d.onOrg (fun o => { o with numLatch := some (BitVec.ofNat 32 (d.org.num / 2 ^ 32)) }))

/-- A read of STK_NUM_LO (R53). -/
def execStkNumLoRead (w : When) (req : Requester) (s : State) : Out :=
  s.runReq w req (fun d => let x := d.numLo; { x.2 with reply := { words := [x.1] } })

end Sys2Proof.Machine
end

