-- ==== Sys2Proof/Machine/Bus.lean ====
section
/-! DEFINITION. The control space as its requesters meet it: what a register reads (R5, R53, R92, R398), the rights and the effect of a write
(R572, R573, R647), and the accesses of the host and of the management cores (R465, R615). -/

namespace Sys2Proof.Machine

/-! ### Values that follow from the state -/

/-- Bytes `4 * k` to `4 * k + 3` of a list as a register word. -/
def wordOfBytes (l : List Byte) (k : Nat) : Nat := leNat ((l.drop (4 * k)).take 4)

/-- Word `k` of a number. -/
def wordOf (x k : Nat) : Nat := bits x (32 * k) 32

/-- The word a field of an array lies in, counted from the array's first address. -/
def Fld.idx (f g : Fld) : Nat := (f.addr - g.addr) / 4

/-- The field lies in one of the `n` words that begin with that of `g`. -/
def Fld.within (f g : Fld) (n : Nat) : Bool := decide (g.addr ≤ f.addr ∧ f.addr < g.addr + 4 * n)

/-- The first field of a list of pairs that is `f`. -/
def pick (f : Fld) (l : List (Fld × Nat)) : Option Nat := (l.find? (fun x => x.1 == f)).map Prod.snd

/-- GLB and RST (R546, R616). -/
def Dev.liveGlb (d : Dev) (req : Requester) (f : Fld) : Option Nat :=
  if f.within (R.GLB_SERIAL_B 0) 4 then some (wordOf d.serial (f.idx (R.GLB_SERIAL_B 0)))
  else pick f [
    (R.GLB_STAT_MEDIA, b2n d.media), (R.GLB_STAT_IMG_ACTIVE, d.get R.STK_IMG_STAT_ACTIVE), (R.GLB_STAT_RECOVERY, d.get R.RST_STAT_RECOVERY),
    (R.GLB_STAT_TIME_VALID, d.get R.TIME_STAT_VALID), (R.GLB_STAT_ORIGIN, d.get R.STK_STAT_RUNNING), (R.GLB_STAT_FAULT, b2n d.faultLow),
    (R.GLB_STAT_ALERT, b2n d.alertLow), (R.GLB_STAT_DEBUG, d.get R.SEC_STAT_DEBUG), (R.GLB_STAT_PSTATE, d.get R.RST_PWR_STATE),
    (R.GLB_STAT_CAL_DEFAULTS, d.get R.CAL_STAT_DEFAULTS), (R.GLB_STAT_OPT_FAULT, d.get R.RST_STAT_OPT_FAULT),
    (R.GLB_REQ_FW, b2n (req == .fw)), (R.RST_STAT_WDOG_N, b2n d.rst.wdogN)]

/-- SEC, with the bank of the reader (R570, R600), and SUMP. -/
def Dev.liveSec (d : Dev) (req : Requester) (f : Fld) : Option Nat :=
  let b := d.secBank req
  if f.within (R.SEC_CHAL_D 0) 12 then some (wordOf b.chalReg.toNat (f.idx (R.SEC_CHAL_D 0)))
  else if f.within (R.SEC_KEY_D 0) 24 then some (wordOf b.key.toNat (f.idx (R.SEC_KEY_D 0)))
  else if f.within (R.SEC_TOKEN_D 0) 80 then some (wordOf b.token.toNat (f.idx (R.SEC_TOKEN_D 0)))
  else if f.within (R.SEC_ARG_D 0) 17 then some (wordOf b.arg.toNat (f.idx (R.SEC_ARG_D 0)))
  else if f.within (R.SEC_NONCE_D 0) 12 then some (wordOf b.nonce.toNat (f.idx (R.SEC_NONCE_D 0)))
  else if f.within (R.SEC_REPORT_D 0) 108 then some (wordOf b.report.toNat (f.idx (R.SEC_REPORT_D 0)))
  else if f.within (R.SEC_ID_PUB_D 0) 24 then some (wordOfBytes (beBytes 96 d.sec.idPub.toNat) (f.idx (R.SEC_ID_PUB_D 0)))
  else if f.within (R.SEC_AUD_D_D 0) 56 then some (wordOfBytes d.sec.audLatch (f.idx (R.SEC_AUD_D_D 0)))
  else if f.within (R.SEC_AUD_HEAD_D 0) 12 then some (wordOfBytes (hashBytes d.sec.head) (f.idx (R.SEC_AUD_HEAD_D 0)))
  else if f.within (R.SUMP_D_D 0) 4 then some (wordOf d.sumpCur (f.idx (R.SUMP_D_D 0)))
  else pick f [
    (R.SEC_STAT_HOST_OPER, b2n d.hostOper), (R.SEC_STAT_ID_VALID, b2n d.sec.idOk), (R.SEC_STAT_ROTATED, b2n d.rotated),
    (R.SEC_STAT_TOK_RESULT, b.tok.toNat), (R.SEC_STAT_HELD, d.heldBits), (R.SEC_SESSION_LEFT, d.sessLeft),
    (R.SEC_AUD_STAT_LEVEL, d.sec.audQ.length)]

/-- EVT and PCIE (R604, R605, R618). -/
def Dev.liveEvt (d : Dev) (f : Fld) : Option Nat :=
  if f.within (R.EVT_CORE_NEXT_EVENT 0) 4 then some (d.lowestBit (R.EVT_CPEND_BITS (f.idx (R.EVT_CORE_NEXT_EVENT 0))))
  else if f.within (R.PCIE_PBA_PEND 0) 8 then some (d.pba (f.idx (R.PCIE_PBA_PEND 0)))
  else pick f [
    (R.EVT_HOST_NEXT_EVENT, d.lowestBit R.EVT_HPEND_BITS),
    (R.EVT_STAT_CORE_IRQ, (List.range 4).foldl (fun x c => x + b2n (d.coreIrq c) * 2 ^ c) 0),
    (R.EVT_STAT_ALERT, b2n d.alertLow), (R.EVT_STAT_MSG_HELD, b2n d.msgHeld)]

/-- STK (R82, R83, R86), and the image's values in PKT (R177). -/
def Dev.liveStk (d : Dev) (f : Fld) : Option Nat :=
  if f.within (R.STK_CELL_RL_OCC 0) 64 then
    let n := f.idx (R.STK_CELL_RL_OCC 0)
    some (d.occ n (f.lo != 0))
  else if f.within (R.PKT_EXC_LIM_LIM 0) 5 then some (if d.isolated .pkt then 0 else (d.bank.exc.getD (f.idx (R.PKT_EXC_LIM_LIM 0)) (0, 0)).2)
  else pick f [
    (R.STK_CTL_MEDIA, b2n d.media), (R.STK_STAT_BP, b2n (d.pump.cells.any (fun x => x.2.bp))),
    (R.STK_NUM_LO_NUM, wordOf d.org.num 0), (R.STK_NUM_HI_NUM, wordOf d.org.num 1), (R.STK_CC_CC, d.org.cc),
    (R.PKT_HASH_SEED_SEED, if d.isolated .pkt then 0 else d.bank.seed)]

/-- CELL_STAT[n].PWR (R268, R269, R271). While no image is active no cell is gated (log entry 43). -/
def Dev.cellPwr (d : Dev) (n : Nat) : Nat :=
  let p := d.get (R.CELL_STAT_PWR n)
  if 2 ≤ p then p else b2n (d.img.active.isSome && d.get R.RST_PWR_STATE == 0 && !d.hosts n)

/-- CELL_STAT, and the keys of a context, which read zero (R142, R177, R271). -/
def Dev.liveCell (d : Dev) (f : Fld) : Option Nat :=
  let n := (f.addr - 0x01C00000) / 0x10000
  let c := d.cell n
  if f.within (R.PKT_SC_DATA_D 8) 16 then some 0
  else if f = R.PKT_SC_DATA_D 24 then some (bits (d.get f) 16 16 * 2 ^ 16)
  else if n < 64 ∧ 0x01C00000 ≤ f.addr then pick f [
    (R.CELL_STAT_PWR n, d.cellPwr n), (R.CELL_STAT_IN_RESET n, b2n (d.halted (.cell n))),
    (R.CELL_STAT_RUN n, b2n c.running.isSome), (R.CELL_STAT_FD n, b2n c.fdOpen), (R.CELL_STAT_TASK n, c.running.getD 0)]
  else none

/-- The slew remainder in 1/16 ns, limited to 32 bits (R430). It is rounded half to even: DESIGN CHOICE (unsafe, log entry 44). -/
def Dev.slewRem (d : Dev) : Nat := fieldOf 32 (clampInt (-(2 ^ 31)) (2 ^ 31 - 1) (roundEven d.tim.a (2 ^ 44)))

/-- TIME (R398, R404, R429, R430), and IN_RESET of the TDM ports and MADI framers (R476). -/
def Dev.liveTime (d : Dev) (f : Fld) : Option Nat :=
  let t := stampOf d.now48
  let q := f.idx (R.TIME_TSQ_D_D 0 0)
  if f.within (R.TIME_TSQ_D_D 0 0) 16 then some (wordOf (kvD d.tim.tsqLatch (q / 4) 0).toNat (q % 4))
  else if f.within (R.TIME_TSQ_HEAD_LEVEL 0) 4 && f.lo == 0 then some (d.tsq (f.idx (R.TIME_TSQ_HEAD_LEVEL 0))).length
  else if f.within (R.TIME_CAP_D_D 0) 4 then some (wordOf d.tim.capLatch.toNat (f.idx (R.TIME_CAP_D_D 0)))
  else if f = R.ETH_STAT_TRAINING ((f.addr - 0x02300004) / 0x1000) then some (b2n (d.ethTrains ((f.addr - 0x02300004) / 0x1000)))
  else if f = R.TDM_STAT_IN_RESET ((f.addr - 0x02380000) / 0x100) then some (b2n (d.isolated (.tdm ((f.addr - 0x02380000) / 0x100))))
  else if f = R.MADI_STAT_IN_RESET ((f.addr - 0x02384000) / 0x100) then some (b2n (d.isolated (.madi ((f.addr - 0x02384000) / 0x100))))
  else pick f [
    (R.TIME_STAT_SLEWING, b2n (d.tim.a != 0)), (R.TIME_NOW0_NS, t.ns.toNat), (R.TIME_NOW1_SEC, t.sec.toNat % 2 ^ 32),
    (R.TIME_NOW2_SEC, t.sec.toNat / 2 ^ 32), (R.TIME_NOW2_SUB, t.sub.toNat), (R.TIME_RAW_LO_C, wordOf d.tim.c.toNat 0),
    (R.TIME_RAW_HI_C, wordOf d.tim.c.toNat 1), (R.TIME_FREQ_LO_F, wordOf (fieldOf 38 d.tim.f) 0), (R.TIME_FREQ_HI_F, wordOf (fieldOf 38 d.tim.f) 1),
    (R.TIME_SLEW_REM_A, d.slewRem), (R.TIME_OUT_CFG_EN, (d.img.active.map (fun b => (Config.outEn b.hash).toNat)).getD 0)]

/-- The command registers with a BUSY field (R640). -/
def cmdRegs : List CmdReg := [C.task, C.qf, C.fs, C.sc, C.eg, C.cis, C.cnv, C.tone, C.cmp, C.time, C.img, C.rst, C.cal, C.sec, C.sump]

/-- The value of a field that is computed from the rest of the state, by the block its address lies in (R613). -/
def Dev.live (d : Dev) (req : Requester) (f : Fld) : Option Nat :=
  if let some c := cmdRegs.find? (fun c => c.busy == some f) then some (b2n (d.busy c))
  else if f.addr < 0x20000 then d.liveGlb req f
  else if f.addr < 0x40000 then d.liveSec req f
  else if f.addr < 0x50000 then d.liveEvt f
  else if f.addr < 0x60000 then d.liveSec req f
  else if f.addr < 0x01000080 then d.liveStk f
  else if f.addr < 0x01000100 then d.liveCell f
  else if f.addr < 0x01400000 then d.liveStk f
  else if f.addr < 0x02000000 then d.liveCell f
  else if f.addr < 0x02800000 then d.liveTime f
  else d.liveEvt f

/-- What a field reads (R5). -/
def Dev.fieldVal (d : Dev) (req : Requester) (f : Fld) : Nat := if f.ty = .wo then 0 else (d.live req f).getD (d.get f)

/-! ### Reads -/

/-- A latched word is read once (log entry 15). -/
def tookLatch (x : Option Word) (d : Dev) : Option (Word × Dev) := x.map (fun v => (v, d))

/-- The reads that pop, latch or take what was latched (R53, R398, R405, R412, R430, R477, R508, R591, R600). -/
def Dev.readPop (d : Dev) (a : Nat) : Option (Word × Dev) :=
  if a = R.TIME_NOW0_NS.addr then some d.nowRead
  else if a = R.TIME_NOW1_SEC.addr then tookLatch d.tim.nowLatch1 (d.onTim (fun x => { x with nowLatch1 := none }))
  else if a = R.TIME_NOW2_SEC.addr then tookLatch d.tim.nowLatch2 (d.onTim (fun x => { x with nowLatch2 := none }))
  else if a = R.TIME_RAW_LO_C.addr then some d.rawRead
  else if a = R.TIME_RAW_HI_C.addr then tookLatch d.tim.rawLatch (d.onTim (fun x => { x with rawLatch := none }))
  else if a = R.TIME_PPS_TS0_NS.addr then some d.ppsRead
  else if a = R.TIME_PPS_TS1_SEC.addr then tookLatch d.tim.ppsLatch1 (d.onTim (fun x => { x with ppsLatch1 := none }))
  else if a = R.TIME_PPS_TS2_SEC.addr then tookLatch d.tim.ppsLatch2 (d.onTim (fun x => { x with ppsLatch2 := none }))
  else if a = (R.TIME_TSQ_D_D 0 0).addr then some (d.tsqRead 0)
  else if a = (R.TIME_TSQ_D_D 1 0).addr then some (d.tsqRead 1)
  else if a = (R.TIME_TSQ_D_D 2 0).addr then some (d.tsqRead 2)
  else if a = (R.TIME_TSQ_D_D 3 0).addr then some (d.tsqRead 3)
  else if a = (R.TIME_CAP_D_D 0).addr then some d.capRead
  else if a = R.DDR_ECC_ADDR_LO_A.addr then some d.ddrEccLo
  else if a = R.DDR_ECC_ADDR_HI_A.addr then tookLatch d.ddr.hiLatch { d with ddr := { d.ddr with hiLatch := none } }
  else if a = R.STK_IMG_LAST_LO_N.addr then some d.imgLast
  else if a = R.STK_IMG_LAST_HI_N.addr then tookLatch d.img.lastLatch { d with img := { d.img with lastLatch := none } }
  else if a = R.STK_NUM_LO_NUM.addr then some d.numLo
  else if a = R.STK_NUM_HI_NUM.addr then tookLatch d.org.numLatch (d.onOrg (fun o => { o with numLatch := none }))
  else if a = (R.SEC_AUD_D_D 0).addr then some d.audPop
  else if a = (R.SUMP_D_D 3).addr then
    some (BitVec.ofNat 32 (wordOf d.sumpCur 3), d.set R.SUMP_RD_IDX_IDX (d.get R.SUMP_RD_IDX_IDX + 1))
  else none

/-- The queue descriptors in the control space (R613). -/
def isDesc (a : Nat) : Bool := decide (0x00400000 ≤ a ∧ a < 0x00600000)

/-- A register as its fields stand; RC fields clear, but for what they count in this cycle, which the value read does not hold (R5, R7). -/
def Dev.readFlds (d : Dev) (req : Requester) (fl : List Fld) : Word × Dev :=
  (BitVec.ofNat 32 (fl.foldl (fun x f => x + (if f.ty = .rc then (d.readClear f).1 else d.fieldVal req f) * 2 ^ f.lo) 0),
    (fl.filter (fun f => f.ty == .rc)).foldl (fun d f => (d.readClear f).2) d)

/-- A 32-bit read of the control space at `a` (R5, R465). -/
def Dev.readReg (d : Dev) (req : Requester) (a : Nat) : Word × Dev :=
  if a % 4 ≠ 0 then (0, d)
  else if isDesc a then d.qDescRead ((a - 0x00400000) / 32) (a / 4 % 8)
  else match d.readPop a with
    | some x => x
    | none => match fieldsAt a with
      | none => (0, d)
      | some fl => d.readFlds req fl

/-! ### Writes -/

/-- The index and selector registers of R647. -/
def freeRegs : List Nat :=
  [R.STK_TASK_IDX_IDX.addr, R.PKT_FS_IDX_IDX.addr, R.PKT_SC_IDX_IDX.addr, R.PKT_EG_IDX_IDX.addr, R.CIS_IDX_IDX.addr, R.CNV_IDX_IDX.addr,
   R.TONE_IDX_IDX.addr, R.CMP_IDX_IDX.addr, R.TIME_IDX_IDX.addr, R.CAL_IDX_TGT.addr, R.TIME_CAP_SEL_UNIT.addr, R.SUMP_RD_IDX_IDX.addr]

/-- A write of the register needs operator rights (R572, R647). -/
def needsOper (a : Nat) (fl : List Fld) : Bool :=
  !(decide (0x30000 ≤ a ∧ a < 0x40000)) && !freeRegs.contains a &&
    fl.any (fun f => f.ty == .rw || f.ty == .wo || f.ty == .w1s || f.ty == .w1c)

/-- The effect of a write on one field (R5). What hardware sets in this cycle stays set under a clear (R6). Reserved bits have no field (R9). -/
def Dev.writeFld (d : Dev) (f : Fld) (val : Nat) : Dev :=
  let v := bits val f.lo f.width
  match f.ty with
  | .rw => d.set f v
  | .w1c => d.clearBits f v
  | .rws => d.clearBits f v
  | .w1s => d.set f (d.get f ||| v)
  | _ => d

/-- A register without a rule of its own is written (R5, R572). -/
def Dev.writeFlds (d : Dev) (req : Requester) (a : Nat) (fl : List Fld) (val : Nat) : Dev :=
  if needsOper a fl && !d.oper req then d.denied else fl.foldl (fun d f => d.writeFld f val) d

/-- SEC_CMD (R573, R599). -/
def Dev.secCmd (d : Dev) (otp : Otp) (req : Requester) (op : Nat) : Dev :=
  match op with
  | 1 => d.command C.sec req .none (fun d => .ok (d.challengeNow req))
  | 2 => d.command C.sec req .none (fun d => .ok (d.present otp req)) false
  | 3 => d.keyLoadCmd req
  | 4 => d.sessionEnd req
  | 5 => d.attestCmd req
  | _ => d.command C.sec req .none (fun _ => .error 2)

/-- A write of 1 to ERR clears ERR and ERR_CODE, unless a refusal has set them in this same cycle (R6, R640). -/
def Dev.clrErr (d : Dev) (c : CmdReg) (val : Nat) : Dev :=
  if bit val c.err.lo then
    let d := d.clearBits c.err 1
    if d.flag c.err then d else d.set c.code 0
  else d

/-- A write of a command register: ERR is cleared where its bit is 1, and the command in OP is accepted or refused (R640; log entry 45). -/
def Dev.writeCmd (d : Dev) (otp : Otp) (req : Requester) (a val : Nat) : Option Dev :=
  let op := bits val 0 4
  if a = C.task.err.addr then some ((d.clrErr C.task val).taskCmd req op)
  else if a = C.qf.err.addr then some ((d.clrErr C.qf val).qCmd req (bits val 0 16) (bits val 16 4))
  else if a = C.fs.err.addr then some ((d.clrErr C.fs val).fsCmd req op)
  else if a = C.sc.err.addr then some ((d.clrErr C.sc val).scCmd req op)
  else if a = C.eg.err.addr then some ((d.clrErr C.eg val).egCmd req op)
  else if a = C.cis.err.addr then some ((d.clrErr C.cis val).cisCmd req op)
  else if a = C.cnv.err.addr then some ((d.clrErr C.cnv val).cnvCmd req op)
  else if a = C.tone.err.addr then some ((d.clrErr C.tone val).toneCmd req op)
  else if a = C.cmp.err.addr then some ((d.clrErr C.cmp val).cmpCmd req op)
  else if a = C.job.err.addr then some ((d.clrErr C.job val).jobCmd req op)
  else if a = C.time.err.addr then some ((d.clrErr C.time val).timeCmd req op)
  else if a = C.img.err.addr then some ((d.clrErr C.img val).imgCmd req op)
  else if a = C.rst.err.addr then some ((d.clrErr C.rst val).rstCmd req op)
  else if a = C.cal.err.addr then some ((d.clrErr C.cal val).calCmd req op)
  else if a = C.sec.err.addr then some ((d.clrErr C.sec val).secCmd otp req op)
  else if a = C.sump.err.addr then some ((d.clrErr C.sump val).sumpCmd req op)
  else none

/-- A word of a banked SEC register is written (R570, R600). -/
def Dev.writeBank (d : Dev) (req : Requester) (a val : Nat) : Option Dev :=
  let b := d.secBank req
  let put := fun (x k : Nat) => setBits x (32 * k) 32 val
  let at' := fun (g : Fld) (n : Nat) => if g.addr ≤ a ∧ a < g.addr + 4 * n then some ((a - g.addr) / 4) else none
  match at' (R.SEC_KEY_D 0) 24, at' (R.SEC_TOKEN_D 0) 80, at' (R.SEC_ARG_D 0) 17, at' (R.SEC_NONCE_D 0) 12 with
  | some k, _, _, _ => some (d.setSecBank req { b with key := BitVec.ofNat 768 (put b.key.toNat k) })
  | _, some k, _, _ => some (d.setSecBank req { b with token := BitVec.ofNat 2560 (put b.token.toNat k) })
  | _, _, some k, _ => some (d.setSecBank req { b with arg := BitVec.ofNat 544 (put b.arg.toNat k) })
  | _, _, _, some k => some (d.setSecBank req { b with nonce := BitVec.ofNat 384 (put b.nonce.toNat k) })
  | _, _, _, _ => none

/-- A write of STK_CTL (R46, R52, R82). -/
def Dev.stkCtl (d : Dev) (req : Requester) (val : Nat) : Dev :=
  if !d.oper req then d.denied
  else
    let d := d.set R.STK_CTL_TICK_DIV (bits val 4 4)
    let d := if bit val 0 then d.stkEn else d
    if bit val 8 then d.reorigin else d

/-- A write of ETH_CTL[p] (R475). Whether a frame is in reception when it restarts auto-negotiation is a free value here (log entry 1). -/
def Dev.ethCtl (d : Dev) (req : Requester) (p val : Nat) : Dev :=
  if !d.oper req then d.denied
  else
    let d := d.set (R.ETH_CTL_LOOP p) (bits val 1 2)
    if bit val 0 then
      let (x, d) := d.takeFree 1
      d.anRestart req p (x == 1)
    else d

/-- A write of RST_WDOG_CTL, from FW only (R535, R573). -/
def Dev.wdogCtl (d : Dev) (req : Requester) (val : Nat) : Dev :=
  if req != .fw then d.denied else d.set R.RST_WDOG_CTL_TIMEOUT (bits val 4 16)

/-- The registers whose writes have a rule of their own. -/
def Dev.writeOwn (d : Dev) (req : Requester) (a val : Nat) : Option Dev :=
  if a = R.STK_CTL_EN.addr then some (d.stkCtl req val)
  else if a = R.STK_RL_HW_HW.addr then some (if d.oper req then d.rlHwWrite (bits val R.STK_RL_HW_HW.lo R.STK_RL_HW_HW.width) else d.denied)
  else if a = R.GLB_SW_EVT_CODE.addr then some (d.swEvt req val)
  else if a = R.GLB_DB_H2F_MSG.addr then some (d.doorbellH req val)
  else if a = R.GLB_DB_F2H_MSG.addr then some (d.doorbellF req val)
  else if a = R.RST_WDOG_CTL_EN.addr then some (d.wdogCtl req val)
  else if a = R.RST_WDOG_KICK_KEY.addr then some (d.wdogKick req val)
  else if a = R.RST_BRST_BRST.addr then some (d.rstBrst req val)
  else if a = R.EVT_CTL_CORE_EN.addr then some (d.evtCtlWrite req val)
  else if a = R.EVT_INJECT_EVENT.addr then some (d.inject req val)
  else if a = R.CNV_COEF_DATA_C.addr then some (d.coefWrite req val)
  else if a = R.TIME_DCO_FREQ_HI_D.addr then some (d.dcoCommit req val)
  else if (R.EVT_ROUTE_CORES 0).addr ≤ a ∧ a < (R.EVT_ROUTE_CORES 256).addr then
    some (d.routeWrite req ((a - (R.EVT_ROUTE_CORES 0).addr) / 4) val)
  else if (R.EVT_CPEND_BITS 0 0).addr ≤ a ∧ a < (R.EVT_CPEND_BITS 4 0).addr ∧ req = .host then some d.denied
  else if (R.EVT_HPEND_BITS 0).addr ≤ a ∧ a < (R.EVT_HPEND_BITS 8).addr then some (d.hpendWrite req ((a - (R.EVT_HPEND_BITS 0).addr) / 4) val)
  else if a = R.DDR_CFG_A_EN.addr ∧ d.flag R.DDR_STAT_INIT_DONE then some (if d.oper req then d else d.denied)
  else if a = (R.SUMP_FATAL_MASK 0).addr then
    some (if d.oper req then d.set (R.SUMP_FATAL_MASK 0) (setBits val 27 2 0) else d.denied)
  else if 0x01C00000 ≤ a ∧ a < 0x02000000 ∧ a % 0x10000 = 0 then some (d.brstReg req (.cell ((a - 0x01C00000) / 0x10000)) (bit val 0))
  else if 0x02300000 ≤ a ∧ a < 0x02304000 ∧ a % 0x1000 = 0 then some (d.ethCtl req ((a - 0x02300000) / 0x1000) val)
  else if 0x02380000 ≤ a ∧ a < 0x02382000 ∧ a % 0x100 = 0 then some (d.brstReg req (.tdm ((a - 0x02380000) / 0x100)) (bit val 0))
  else if 0x02384000 ≤ a ∧ a < 0x02384400 ∧ a % 0x100 = 0 then some (d.brstReg req (.madi ((a - 0x02384000) / 0x100)) (bit val 0))
  else none

/-- A 32-bit write of the control space at `a` (R5, R465, R572). A write to descriptor space is ignored, also while no image is active (R91; log entry 129). -/
def Dev.writeReg (d : Dev) (otp : Otp) (req : Requester) (a val : Nat) : Dev :=
  match fieldsAt a with
  | none => d
  | some fl => match d.writeCmd otp req a val, d.writeOwn req a val, d.writeBank req a val with
    | some d', _, _ => d'
    | none, some d', _ => d'
    | none, none, some d' => d'
    | none, none, none => d.writeFlds req a fl val

/-- A register is written (R5, R572). -/
def execRegisterWrite (w : When) (req : Requester) (addr : Nat) (val : Word) (s : State) : Out :=
  s.runReq w req (·.writeReg s.otp req addr val.toNat)

/-- A register is read; its word is the reply (R5). -/
def execRcRead (w : When) (req : Requester) (addr : Nat) (s : State) : Out := s.runReq w req (fun d => Dev.replyWord (d.readReg req addr))

/-- A DW of a TLP that is misaligned or has partial byte enables (R465): a read gives zero, a write is discarded. -/
def Dev.badAccess (d : Dev) (write : Bool) : Dev :=
  let d := ((d.set R.PCIE_STAT_BAD_ACC 1).count (R.PCIE_CNT_COUNT 0)).ev E.PCIE_BAD_ACC
  if write then d else { d with reply := { d.reply with words := [0] } }

/-- A bad access of BAR0 (R465). -/
def execBadAccess (w : When) (write : Bool) (_addr : Nat) (s : State) : Out := s.runReq w .host (·.badAccess write)

/-! ### The management cores (R615) -/

/-- The access raised a load or store access fault in the core, or did not. -/
def Dev.coreFault (d : Dev) (core : Nat) (on : Bool) : Dev :=
  { d with cores := { d.cores with accessFault := BitVec.ofNat 4 (setBits d.cores.accessFault.toNat core 1 (b2n on)) },
           reply := { d.reply with flag := on } }

/-- The access of `n` bytes at `a` lies in the row from `base` of `size` bytes. -/
def inRow (base size a n : Nat) : Bool := decide (base ≤ a ∧ a + n ≤ base + size)

/-- A load of `n` bytes: an access that is not a 32-bit aligned one faults, and so does one of a POISON word, which R467 counts (R615). -/
def Dev.coreLoad (d : Dev) (core a n : Nat) : Dev :=
  let ok := fun (d : Dev) (l : List Byte) => { d.coreFault core false with reply := { d.reply with bytes := l } }
  if a % 4 ≠ 0 ∨ n ≠ 4 then d.coreFault core true
  else if inRow 0 0x40000 a n then ok d ((List.range n).map (fun i => Config.bootRom (a + i)))
  else if inRow 0x40000000 0x4000000 a n then
    let x := d.readReg .fw (a - 0x40000000)
    ok x.2 (leBytes 4 x.1.toNat)
  else if inRow 0x80000000 0x400000 a n then ok d ((List.range n).map (fun i => kvD d.cores.sram (a - 0x80000000 + i) 0))
  else if inRow 0x100000000 0x40000000 a n then
    let d := d.hostRead (a - 0x100000000) n
    d.coreFault core d.reply.poison
  else d.coreFault core true

/-- A store. -/
def Dev.coreStore (d : Dev) (otp : Otp) (core a : Nat) (data : List Byte) : Dev :=
  let n := data.length
  if a % 4 ≠ 0 ∨ n ≠ 4 then d.coreFault core true
  else if inRow 0x40000000 0x4000000 a n then (d.writeReg otp .fw (a - 0x40000000) (leNat data)).coreFault core false
  else if inRow 0x80000000 0x400000 a n then
    { d.coreFault core false with
      cores := { (d.coreFault core false).cores with
        sram := data.zipIdx.foldl (fun m x => kvPut 0 (a - 0x80000000 + x.2) x.1 m) d.cores.sram } }
  else if inRow 0x100000000 0x40000000 a n then (d.hostWrite (a - 0x100000000) data).coreFault core false
  else d.coreFault core true

/-- An access of core `core` that its protection entries allow takes place; one that they do not raises an access fault in it (R18, R615). -/
def Dev.coreAccess (d : Dev) (otp : Otp) (core a size : Nat) (data : List Byte) : Dev :=
  let n := if data.isEmpty then size else data.length
  if !(d.core core).allows a n (!data.isEmpty) then d.coreFault core true
  else if data.isEmpty then d.coreLoad core a size
  else d.coreStore otp core a data

/-- A management core makes an access (R615), after what it did since the one before. Only a core that runs makes one (R19, R532). -/
def execCoreAccess (w : When) (core : Nat) (acts : List CoreAct) (addr : Nat) (size : Nat) (data : List Byte) (s : State) : Out :=
  s.runReq w .fw (fun d =>
    Dev.when (d.coreRuns core) (fun d => (d.each acts (fun d a => d.coreAct core a)).coreAccess s.otp core addr size data) d)

end Sys2Proof.Machine
end

