-- ==== Sys2Proof/Machine/Dispatch.lean ====
section
/-! DEFINITION. The dispatcher: one arm for each command. -/

namespace Sys2Proof.Machine

/-- What a command does to the machine; the queue of commands is left as it is. -/
def exec (i : Instr) (s : State) : Host.Outcome State Fault Refusal :=
  match i with
  | .registerWrite w req addr val => Sys2Proof.Machine.execRegisterWrite w req addr val s
  | .rcRead w req addr => Sys2Proof.Machine.execRcRead w req addr s
  | .badAccess w write addr => Sys2Proof.Machine.execBadAccess w write addr s
  | .coreAccess w core acts addr size data => Sys2Proof.Machine.execCoreAccess w core acts addr size data s
  | .strokeBoundary w env => Sys2Proof.Machine.execStrokeBoundary w env s
  | .stkEn w req => Sys2Proof.Machine.execStkEn w req s
  | .originStart w => Sys2Proof.Machine.execOriginStart w s
  | .reorigin w req => Sys2Proof.Machine.execReorigin w req s
  | .stkNumLoRead w req => Sys2Proof.Machine.execStkNumLoRead w req s
  | .stage w task => Sys2Proof.Machine.execStage w task s
  | .runAdmit w cell => Sys2Proof.Machine.execRunAdmit w cell s
  | .firstDrawClose w cell => Sys2Proof.Machine.execFirstDrawClose w cell s
  | .fdLatestExpiry w task => Sys2Proof.Machine.execFdLatestExpiry w task s
  | .budgetExhausted w cell => Sys2Proof.Machine.execBudgetExhausted w cell s
  | .kernelReturn w cell work => Sys2Proof.Machine.execKernelReturn w cell work s
  | .checkpoint w cell work done => Sys2Proof.Machine.execCheckpoint w cell work done s
  | .cpForced w cell work done => Sys2Proof.Machine.execCpForced w cell work done s
  | .completion w task => Sys2Proof.Machine.execCompletion w task s
  | .taskRead w req => Sys2Proof.Machine.execTaskRead w req s
  | .cancel w req => Sys2Proof.Machine.execCancel w req s
  | .disable w req => Sys2Proof.Machine.execDisable w req s
  | .enable w req => Sys2Proof.Machine.execEnable w req s
  | .clearCounters w req => Sys2Proof.Machine.execClearCounters w req s
  | .clearState w req => Sys2Proof.Machine.execClearState w req s
  | .push w q words withPop => Sys2Proof.Machine.execPush w q words withPop s
  | .pop w q framer => Sys2Proof.Machine.execPop w q framer s
  | .descPtrRead w req q => Sys2Proof.Machine.execDescPtrRead w req q s
  | .queueRead w req q => Sys2Proof.Machine.execQueueRead w req q s
  | .queueFlush w req q => Sys2Proof.Machine.execQueueFlush w req q s
  | .flushApply w q => Sys2Proof.Machine.execFlushApply w q s
  | .queueResize w req q => Sys2Proof.Machine.execQueueResize w req q s
  | .flitGrant w node out waiting => Sys2Proof.Machine.execFlitGrant w node out waiting s
  | .linkCreditReturn w node dir cls => Sys2Proof.Machine.execLinkCreditReturn w node dir cls s
  | .censusComplete w => Sys2Proof.Machine.execCensusComplete w s
  | .creditResync w node dir cls => Sys2Proof.Machine.execCreditResync w node dir cls s
  | .isolation w blk flits reqs => Sys2Proof.Machine.execIsolation w blk flits reqs s
  | .isoReturnDone w blk => Sys2Proof.Machine.execIsoReturnDone w blk s
  | .ethFrameRx w port frame => Sys2Proof.Machine.execEthFrameRx w port frame s
  | .pktIngress w port => Sys2Proof.Machine.execPktIngress w port s
  | .cisGoneTimeout w c => Sys2Proof.Machine.execCisGoneTimeout w c s
  | .legTimeout w c legB => Sys2Proof.Machine.execLegTimeout w c legB s
  | .fsRead w req => Sys2Proof.Machine.execFsRead w req s
  | .fsInsert w req => Sys2Proof.Machine.execFsInsert w req s
  | .fsDelete w req => Sys2Proof.Machine.execFsDelete w req s
  | .fsReplace w req => Sys2Proof.Machine.execFsReplace w req s
  | .fsLookup w req => Sys2Proof.Machine.execFsLookup w req s
  | .fsReadLaddr w req => Sys2Proof.Machine.execFsReadLaddr w req s
  | .scSet w req => Sys2Proof.Machine.execScSet w req s
  | .scRead w req => Sys2Proof.Machine.execScRead w req s
  | .scZero w req => Sys2Proof.Machine.execScZero w req s
  | .egRead w req => Sys2Proof.Machine.execEgRead w req s
  | .egStats w req => Sys2Proof.Machine.execEgStats w req s
  | .packetLaunch w port sub => Sys2Proof.Machine.execPacketLaunch w port sub s
  | .cisRead w req => Sys2Proof.Machine.execCisRead w req s
  | .cisStats w req => Sys2Proof.Machine.execCisStats w req s
  | .cisFlush w req => Sys2Proof.Machine.execCisFlush w req s
  | .cisResize w req => Sys2Proof.Machine.execCisResize w req s
  | .setDelay w req => Sys2Proof.Machine.execSetDelay w req s
  | .cisStart w req => Sys2Proof.Machine.execCisStart w req s
  | .cisStop w req => Sys2Proof.Machine.execCisStop w req s
  | .setPt w req => Sys2Proof.Machine.execSetPt w req s
  | .setOffset w req => Sys2Proof.Machine.execSetOffset w req s
  | .setRef w req => Sys2Proof.Machine.execSetRef w req s
  | .cnvPass w inp => Sys2Proof.Machine.execCnvPass w inp s
  | .cnvOverrun w lanes idx => Sys2Proof.Machine.execCnvOverrun w lanes idx s
  | .laneRead w req => Sys2Proof.Machine.execLaneRead w req s
  | .chainRead w req => Sys2Proof.Machine.execChainRead w req s
  | .setRead w req => Sys2Proof.Machine.execSetRead w req s
  | .laneEnable w req => Sys2Proof.Machine.execLaneEnable w req s
  | .laneDisable w req => Sys2Proof.Machine.execLaneDisable w req s
  | .laneDelay w req => Sys2Proof.Machine.execLaneDelay w req s
  | .laneRatio w req => Sys2Proof.Machine.execLaneRatio w req s
  | .swap w req => Sys2Proof.Machine.execSwap w req s
  | .sync w req => Sys2Proof.Machine.execSync w req s
  | .laneCounters w req => Sys2Proof.Machine.execLaneCounters w req s
  | .coefWrite w req val => Sys2Proof.Machine.execCoefWrite w req val s
  | .accClear w cell m a flag => Sys2Proof.Machine.execAccClear w cell m a flag s
  | .accLoad w cell m a src k => Sys2Proof.Machine.execAccLoad w cell m a src k s
  | .accAddProduct w cell m a x y sub => Sys2Proof.Machine.execAccAddProduct w cell m a x y sub s
  | .accAddShifted w cell m a x k sub => Sys2Proof.Machine.execAccAddShifted w cell m a x k sub s
  | .crossLaneSum w cell m a mask => Sys2Proof.Machine.execCrossLaneSum w cell m a mask s
  | .reduction w cell m a sh addr lane => Sys2Proof.Machine.execReduction w cell m a sh addr lane s
  | .blockExponent w cell addr n mask => Sys2Proof.Machine.execBlockExponent w cell addr n mask s
  | .minMaxSearch w cell mode addr n mask zones => Sys2Proof.Machine.execMinMaxSearch w cell mode addr n mask zones s
  | .agAccess w cell k setup data => Sys2Proof.Machine.execAgAccess w cell k setup data s
  | .agLenWrite w cell k len access => Sys2Proof.Machine.execAgLenWrite w cell k len access s
  | .transfer w cell toLocal space loc ext len => Sys2Proof.Machine.execTransfer w cell toLocal space loc ext len s
  | .cellBrstSet w req n => Sys2Proof.Machine.execCellBrstSet w req n s
  | .cellBrstRelease w req n => Sys2Proof.Machine.execCellBrstRelease w req n s
  | .blockRelease w u => Sys2Proof.Machine.execBlockRelease w u s
  | .blockHeld w u => Sys2Proof.Machine.execBlockHeld w u s
  | .wakeDone w n => Sys2Proof.Machine.execWakeDone w n s
  | .ecOpen w task ch poison params => Sys2Proof.Machine.execEcOpen w task ch poison params s
  | .ecClose w task ch poison => Sys2Proof.Machine.execEcClose w task ch poison s
  | .ecSet w task ch poison params => Sys2Proof.Machine.execEcSet w task ch poison params s
  | .ecReset w task ch poison => Sys2Proof.Machine.execEcReset w task ch poison s
  | .ecFreeze w task ch poison => Sys2Proof.Machine.execEcFreeze w task ch poison s
  | .ecThaw w task ch poison => Sys2Proof.Machine.execEcThaw w task ch poison s
  | .bypassOn w task ch poison => Sys2Proof.Machine.execBypassOn w task ch poison s
  | .bypassOff w task ch poison => Sys2Proof.Machine.execBypassOff w task ch poison s
  | .codecOpen w task ch poison params => Sys2Proof.Machine.execCodecOpen w task ch poison params s
  | .codecClose w task ch poison => Sys2Proof.Machine.execCodecClose w task ch poison s
  | .codecSet w task ch poison params => Sys2Proof.Machine.execCodecSet w task ch poison params s
  | .codecReset w task ch poison => Sys2Proof.Machine.execCodecReset w task ch poison s
  | .legAdd w task leg ch poison params => Sys2Proof.Machine.execLegAdd w task leg ch poison params s
  | .legDel w task leg ch poison => Sys2Proof.Machine.execLegDel w task leg ch poison s
  | .legSet w task leg ch poison params => Sys2Proof.Machine.execLegSet w task leg ch poison params s
  | .confSet w task ch poison params => Sys2Proof.Machine.execConfSet w task ch poison params s
  | .matrixGain w task ch poison params => Sys2Proof.Machine.execMatrixGain w task ch poison params s
  | .tonePass w => Sys2Proof.Machine.execTonePass w s
  | .toneOverrun w gen q => Sys2Proof.Machine.execToneOverrun w gen q s
  | .detRead w req => Sys2Proof.Machine.execDetRead w req s
  | .genRead w req => Sys2Proof.Machine.execGenRead w req s
  | .detEnable w req => Sys2Proof.Machine.execDetEnable w req s
  | .detDisable w req => Sys2Proof.Machine.execDetDisable w req s
  | .genStart w req => Sys2Proof.Machine.execGenStart w req s
  | .genStop w req => Sys2Proof.Machine.execGenStop w req s
  | .toneSlotCounters w req => Sys2Proof.Machine.execToneSlotCounters w req s
  | .cmpPass w faulty => Sys2Proof.Machine.execCmpPass w faulty s
  | .cmpOverrun w stream => Sys2Proof.Machine.execCmpOverrun w stream s
  | .cmpRead w req => Sys2Proof.Machine.execCmpRead w req s
  | .cmpEnable w req => Sys2Proof.Machine.execCmpEnable w req s
  | .cmpDisable w req => Sys2Proof.Machine.execCmpDisable w req s
  | .cmpStreamCounters w req => Sys2Proof.Machine.execCmpStreamCounters w req s
  | .jobStart w req => Sys2Proof.Machine.execJobStart w req s
  | .jobAbort w req => Sys2Proof.Machine.execJobAbort w req s
  | .cmpJobDone w faulty => Sys2Proof.Machine.execCmpJobDone w faulty s
  | .adjustmentPoint w env => Sys2Proof.Machine.execAdjustmentPoint w env s
  | .timeSet w req => Sys2Proof.Machine.execTimeSet w req s
  | .timeStep w req => Sys2Proof.Machine.execTimeStep w req s
  | .timeFreq w req => Sys2Proof.Machine.execTimeFreq w req s
  | .timeAdj w req => Sys2Proof.Machine.execTimeAdj w req s
  | .timeMode w req => Sys2Proof.Machine.execTimeMode w req s
  | .arm w req => Sys2Proof.Machine.execArm w req s
  | .disarm w req => Sys2Proof.Machine.execDisarm w req s
  | .trigRead w req => Sys2Proof.Machine.execTrigRead w req s
  | .dcoMode w req => Sys2Proof.Machine.execDcoMode w req s
  | .saMeas w req => Sys2Proof.Machine.execSaMeas w req s
  | .saReset w req => Sys2Proof.Machine.execSaReset w req s
  | .triggerFire w unit => Sys2Proof.Machine.execTriggerFire w unit s
  | .pinPulseEnd w unit => Sys2Proof.Machine.execPinPulseEnd w unit s
  | .timeNowRead w req => Sys2Proof.Machine.execTimeNowRead w req s
  | .timeRawRead w req => Sys2Proof.Machine.execTimeRawRead w req s
  | .ppsTsRead w req => Sys2Proof.Machine.execPpsTsRead w req s
  | .dcoFreqCommit w req val => Sys2Proof.Machine.execDcoFreqCommit w req val s
  | .tsqPop w req port => Sys2Proof.Machine.execTsqPop w req port s
  | .captureEdge w unit rising pulseNs sub => Sys2Proof.Machine.execCaptureEdge w unit rising pulseNs sub s
  | .capPop w req => Sys2Proof.Machine.execCapPop w req s
  | .refEdge w input sub widthNs => Sys2Proof.Machine.execRefEdge w input sub widthNs s
  | .refQual w input => Sys2Proof.Machine.execRefQual w input s
  | .refLost w input => Sys2Proof.Machine.execRefLost w input s
  | .dcoLocked w => Sys2Proof.Machine.execDcoLocked w s
  | .xoFail w => Sys2Proof.Machine.execXoFail w s
  | .tickPllLock w => Sys2Proof.Machine.execTickPllLock w s
  | .ethLinkUp w port => Sys2Proof.Machine.execEthLinkUp w port s
  | .ethLinkDown w port inReception => Sys2Proof.Machine.execEthLinkDown w port inReception s
  | .anRestart w req port => Sys2Proof.Machine.execAnRestart w req port s
  | .tdmRxPush w group frames => Sys2Proof.Machine.execTdmRxPush w group frames s
  | .slaveFrameRx w madi port fs slots => Sys2Proof.Machine.execSlaveFrameRx w madi port fs slots s
  | .lineLost w madi port => Sys2Proof.Machine.execLineLost w madi port s
  | .madiFrameRx w m fs blockStart chans => Sys2Proof.Machine.execMadiFrameRx w m fs blockStart chans s
  | .tdmBrst w req madi port val => Sys2Proof.Machine.execTdmBrst w req madi port val s
  | .bsdFault w clk => Sys2Proof.Machine.execBsdFault w clk s
  | .patrolScrubPass w ce ue => Sys2Proof.Machine.execPatrolScrubPass w ce ue s
  | .ddrInitDone w => Sys2Proof.Machine.execDdrInitDone w s
  | .ddrEccAddrRead w req => Sys2Proof.Machine.execDdrEccAddrRead w req s
  | .hostDataWrite w off data => Sys2Proof.Machine.execHostDataWrite w off data s
  | .hostDataRead w off len => Sys2Proof.Machine.execHostDataRead w off len s
  | .pciePerst w => Sys2Proof.Machine.execPciePerst w s
  | .flr w => Sys2Proof.Machine.execFlr w s
  | .pcieLinkUp w speed width => Sys2Proof.Machine.execPcieLinkUp w speed width s
  | .pcieLinkDown w => Sys2Proof.Machine.execPcieLinkDown w s
  | .i2cStretchTimeout w => Sys2Proof.Machine.execI2cStretchTimeout w s
  | .bypass w => Sys2Proof.Machine.execBypass w s
  | .idcode w => Sys2Proof.Machine.execIdcode w s
  | .samplePreload w pins preload => Sys2Proof.Machine.execSamplePreload w pins preload s
  | .extest w => Sys2Proof.Machine.execExtest w s
  | .clamp w => Sys2Proof.Machine.execClamp w s
  | .highz w => Sys2Proof.Machine.execHighz w s
  | .imgLoad w req => Sys2Proof.Machine.execImgLoad w req s
  | .imgLoadEnd w => Sys2Proof.Machine.execImgLoadEnd w s
  | .imgAbort w req => Sys2Proof.Machine.execImgAbort w req s
  | .changeover w req => Sys2Proof.Machine.execChangeover w req s
  | .imgDisarm w req => Sys2Proof.Machine.execImgDisarm w req s
  | .imgDiscard w req => Sys2Proof.Machine.execImgDiscard w req s
  | .changeoverBoundary w => Sys2Proof.Machine.execChangeoverBoundary w s
  | .imgLastRead w req => Sys2Proof.Machine.execImgLastRead w req s
  | .vbatPor w => Sys2Proof.Machine.execVbatPor w s
  | .porAssert dip => Sys2Proof.Machine.execPorAssert dip s
  | .porRelease w boot => Sys2Proof.Machine.execPorRelease w boot s
  | .rstNAssert w rstkeep => Sys2Proof.Machine.execRstNAssert w rstkeep s
  | .rstNRelease w boot => Sys2Proof.Machine.execRstNRelease w boot s
  | .startOk w req => Sys2Proof.Machine.execStartOk w req s
  | .resScrub w req => Sys2Proof.Machine.execResScrub w req s
  | .resScrubDone w ce ue => Sys2Proof.Machine.execResScrubDone w ce ue s
  | .recoverNext w req => Sys2Proof.Machine.execRecoverNext w req s
  | .pwrD0 w req => Sys2Proof.Machine.execPwrD0 w req s
  | .pwrD1 w req => Sys2Proof.Machine.execPwrD1 w req s
  | .pwrD2 w req => Sys2Proof.Machine.execPwrD2 w req s
  | .wdogKick w req val => Sys2Proof.Machine.execWdogKick w req val s
  | .wdogWarn w => Sys2Proof.Machine.execWdogWarn w s
  | .wdogExpire w => Sys2Proof.Machine.execWdogExpire w s
  | .wdogPulseEnd w => Sys2Proof.Machine.execWdogPulseEnd w s
  | .rstBrstWrite w req val => Sys2Proof.Machine.execRstBrstWrite w req val s
  | .calRun w req => Sys2Proof.Machine.execCalRun w req s
  | .calRead w req => Sys2Proof.Machine.execCalRead w req s
  | .calStart w env => Sys2Proof.Machine.execCalStart w env s
  | .calCommit w codes hot vdd => Sys2Proof.Machine.execCalCommit w codes hot vdd s
  | .ageingCheck w => Sys2Proof.Machine.execAgeingCheck w s
  | .calPeriodRequest w target => Sys2Proof.Machine.execCalPeriodRequest w target s
  | .monitorSample w temps volts => Sys2Proof.Machine.execMonitorSample w temps volts s
  | .challenge w req => Sys2Proof.Machine.execChallenge w req s
  | .present w req => Sys2Proof.Machine.execPresent w req s
  | .keyLoad w req => Sys2Proof.Machine.execKeyLoad w req s
  | .sessionEnd w req => Sys2Proof.Machine.execSessionEnd w req s
  | .attest w req => Sys2Proof.Machine.execAttest w req s
  | .challengeExpire w req => Sys2Proof.Machine.execChallengeExpire w req s
  | .sessionExpire w => Sys2Proof.Machine.execSessionExpire w s
  | .auditPop w req => Sys2Proof.Machine.execAuditPop w req s
  | .thaw w req => Sys2Proof.Machine.execThaw w req s
  | .freeze w req => Sys2Proof.Machine.execFreeze w req s
  | .faultClr w req => Sys2Proof.Machine.execFaultClr w req s
  | .sumpRecordRead w req => Sys2Proof.Machine.execSumpRecordRead w req s
  | .msixSend w vec => Sys2Proof.Machine.execMsixSend w vec s
  | .evtInject w req val => Sys2Proof.Machine.execEvtInject w req val s
  | .hostDoorbell w req val => Sys2Proof.Machine.execHostDoorbell w req val s
  | .fwDoorbell w req val => Sys2Proof.Machine.execFwDoorbell w req val s
  | .swEvent w req val => Sys2Proof.Machine.execSwEvent w req val s
  | .secCmdDone w readBackOk => Sys2Proof.Machine.execSecCmdDone w readBackOk s
  | .pcieConfigWrite w msixEnable funcMask ctl => Sys2Proof.Machine.execPcieConfigWrite w msixEnable funcMask ctl s
  | .dcoLossOfLock w => Sys2Proof.Machine.execDcoLossOfLock w s
  | .calLastCheck w env => Sys2Proof.Machine.execCalLastCheck w env s

end Sys2Proof.Machine
end

