-- ==== Sys2Proof/Safety.lean ====
section
/-! DEFINITION. The terms in which claims are stated: a command's answer, what a step leaves alone, the events it raises, and the
invariant of a state between steps. -/

namespace Sys2Proof.Machine

/-- The command answers a next state, and `P` holds of it. -/
def Answers (i : Instr) (s : State) (P : State → Prop) : Prop := ∃ t, exec i s = .next t ∧ P t

/-- The key lies in EVT_LAST, EVT_TOTAL, a pending bitmap of EVT, SUMP_STAT or the sump's counters, which record the events of a step (R593 to
R605). -/
abbrev evRec (k : Nat) : Prop :=
  (0x4000C * 32 ≤ k ∧ k < 0x40014 * 32) ∨ (0x40100 * 32 ≤ k ∧ k < 0x401E0 * 32) ∨ (0x50000 * 32 ≤ k ∧ k < 0x50004 * 32) ∨
    (0x50020 * 32 ≤ k ∧ k < 0x50030 * 32)

/-- The field lies outside the record of the events of a step. -/
abbrev evFree (f : Fld) : Prop := ¬evRec f.key

/-- Everything of the device beside the registers, the sump log, the event controller and the events of the step: every memory, queue, record
and run-time part of a block. -/
def Dev.body (d : Dev) : Dev := { d with regs := {}, evs := [], msix := {}, sump := {} }

/-- Event `n` is in EVT_RAW (R602). -/
abbrev Raised (s : State) (n : Nat) : Prop := bit (s.dev.get (R.EVT_RAW_BITS (n / 32))) (n % 32) = true

/-- EVT_RAW holds every event of `ns`, and nothing more than before but `ns` and the two events of a freeze of the sump log (R595, R596). -/
def RaisesJust (s t : State) (ns : List Nat) : Prop :=
  (∀ n ∈ ns, Raised t n) ∧
    ∀ n, n < 256 → Raised t n → Raised s n ∨ n ∈ ns ∨ n = E.FATAL ∨ n = E.SUMP_FROZEN

/-- The frame of a step on the registers: every field outside `fs` and the record of events holds what it held, and the OTP, the JTAG port
and the queue are untouched. -/
def Keeps (s t : State) (fs : List Fld) : Prop :=
  (∀ f, evFree f → (∀ g ∈ fs, f.key ≠ g.key) → t.dev.get f = s.dev.get f) ∧ t.otp = s.otp ∧ t.jtag = s.jtag ∧ t.pending = s.pending

/-- The frame of a step that raises no event: every field outside `fs`, the record of events among them, holds what it held, and the OTP, the JTAG port and the queue are
untouched. -/
def KeepsAll (s t : State) (fs : List Fld) : Prop :=
  (∀ f, (∀ g ∈ fs, f.key ≠ g.key) → t.dev.get f = s.dev.get f) ∧ t.otp = s.otp ∧ t.jtag = s.jtag ∧ t.pending = s.pending

/-- What stands in the device beside registers and events after a step of time `w` is what `g` makes of it there, the reply apart. -/
def Does (s t : State) (w : When) (g : Dev → Dev) : Prop := { t.dev.body with reply := {} } = (g (s.dev.at w)).body

/-- Nothing beside registers and events changes in a step of time `w`, the reply apart. -/
abbrev Still (s t : State) (w : When) : Prop := Does s t w id

/-- All that a step of time `w` does: it writes no register field but those of `fs`, raises just the events `ns`, and makes `g` of what stands in
the device beside them, the reply apart. -/
def Leaves (s t : State) (w : When) (fs : List Fld) (ns : List Nat) (g : Dev → Dev) : Prop := Keeps s t fs ∧ RaisesJust s t ns ∧ Does s t w g

/-- A requester's access reaches the part, with no event of an earlier step left over. -/
abbrev Ready (s : State) (req : Requester) : Prop := s.dev.reach req = true ∧ s.dev.evs = []

/-- A requester's write of a command register is taken up: it reaches the part, and the requester has the right. Both hold at the time of the
write. -/
abbrev Open (s : State) (w : When) (req : Requester) (c : CmdReg) (r : Right) : Prop :=
  Ready s req ∧ (s.dev.at w).may req r = true ∧ (s.dev.at w).busy c = false

/-- The main domain is released, with no event of an earlier step left over. -/
abbrev Running (s : State) : Prop := s.dev.rst.mainUp = true ∧ s.dev.evs = []

/-- A state between steps: no event is waiting to take its effect, and the OTP has its eight zones (R524). -/
abbrev State.Inv (s : State) : Prop := s.dev.evs = [] ∧ s.otp.zones.length = 8

/-! ### Terms of single blocks -/

/-- The cycle of a step of time `w` has written nothing in the sump log before (R598). -/
abbrev LogFresh (s : State) (w : When) : Prop := (s.dev.at w).thisCyc.snap = [] ∧ (s.dev.at w).thisCyc.recs = [] ∧ (s.dev.at w).thisCyc.fzs = []

/-- The pointer copies of a queue agree (R95). -/
abbrev CopiesAgree (r : QRt) : Prop := r.wpA = r.wpB ∧ r.rpA = r.rpB

/-- Words `a` to `a + n` of the reservoir hold no error (R90). -/
abbrev NoError (d : Dev) (a n : Nat) : Prop := ∀ x, a ≤ x → x ≤ a + n → d.qf.resUe.contains x = false ∧ d.qf.resCe.contains x = false

/-- The address of the slot at a pointer. -/
def slotAt (d : Dev) (q : Nat) (p : BitVec 17) : Nat := qBase (d.objD S.QUEUES q) + pIdx p * qSlotWords (d.objD S.QUEUES q)

/-- The words of an item as a producer sends them (R96, R97): FIRST on the first alone, LAST on the last alone, PLEN right, no longer than a slot. -/
abbrev GoodItem (o : Nat) (ws : List TWord) : Prop :=
  2 ≤ ws.length ∧ ws.length ≤ qSlotWords o ∧ (ws.map TWord.first) = true :: List.replicate (ws.length - 1) false ∧
    (ws.map TWord.last) = List.replicate (ws.length - 1) false ++ [true] ∧
    hPlen (itemHdr (ws.map TWord.toW)) + 1 = ws.length

/-- Queue `q`, of descriptor `o`, takes the item `ws` (R94, R96, R97, R99): its producer is free to send, the item is well-formed and fits a slot, and a slot
is free. -/
abbrev Takes (d : Dev) (q o : Nat) (ws : List MWord) : Prop :=
  d.obj S.QUEUES q = some o ∧ ((nodeBlk (qProdNode o) (qProdPort o)).map d.isolated).getD false = false ∧
    2 ≤ ws.length ∧ ws.length ≤ qSlotWords o ∧ hPlen (itemHdr ws) + 1 = ws.length ∧ d.qWaits q ws = false ∧
    (d.q q).openW = none ∧ (d.q q).swallow = none ∧ CopiesAgree (d.q q) ∧ (d.q q).depth < (d.q q).n

/-- The item `ws` is stored in queue `q` (R94, R96, R99, R102). -/
def Dev.stored (d : Dev) (q : Nat) (ws : List MWord) : Dev :=
  let r := d.q q
  (d.resWriteN (slotAt d q r.wpA) (d.qStamp q ws)).setQ q
    { (((r.spend (qPosted (d.objD S.QUEUES q))).add cPushed 1).setWp (pNext r.n r.wpA)).pushedAt d.stamp with fbArmed := false, mal := false }

/-- The block that an encode job `x` makes of all its samples, where they are one block's (R371, R382, R383). -/
def Dev.jobBlock (d : Dev) (x : Nat) : List Byte :=
  let ch := bits x 4 7
  let n := bits x 112 32
  let src := spanOf (bits x 32 36) (bits x 27 4) 0 (n * ch) 3
  let rd := fun i =>
    let w := d.ddrCell (src.1 + (bits x 27 4 + i) / 3 - bits x 27 4 / 3)
    (cmpRead { v := sLane (wData w) ((bits x 27 4 + i) % 3), poison := wPoison w }).1
  encBlock { flags := if (List.range src.2).any (fun k => wPoison (d.ddrCell (src.1 + k))) then fPoison else 0, c := ch, rate := bits x 11 3, n := n,
             seq := bits x 176 32, stroke := bits x 256 32, stream := bits x 208 16 }
    ((List.range n).map (fun f => (List.range ch).map (fun c => rd (f * ch + c))))

/-- The units of a job's buffer lie in its windows, in fitted memory (R385). -/
abbrev JobSpan (d : Dev) (ddr : Bool) (x : Nat × Nat) : Prop := d.jobSpan ddr x.1 x.2 = true ∧ x.1 + x.2 ≤ d.ddrTotal

/-- What R114 sums at a virtual channel of a link. -/
def LinkRt.total (l : LinkRt) : Nat := l.credits + l.wire + l.buf + l.ret

/-- Cell `n` runs: it is one of the 64, not isolated and not held. -/
abbrev CellRuns (s : State) (n : Nat) : Prop := n < 64 ∧ s.dev.halted (.cell n) = false

/-- Words `a` to `a + n - 1` of a cell's local memory lie in it and hold no error (R246). -/
abbrev CellRt.Clean (c : CellRt) (a n : Nat) : Prop :=
  a + n ≤ 32768 ∧ ∀ x, a ≤ x → x < a + n → c.lmUe.contains x = false ∧ c.lmCe.contains x = false ∧ kvGet x c.cyc.old = none

/-- The word that lane `m` of a cell takes from an operand input, where it lies in local memory without an error (R227). -/
def CellRt.operand (c : CellRt) (m : Nat) : OpIn → MWord
  | .words l => (l.map TWord.toW).getD (m / 3) 0
  | .mem l => kvD c.lm (l.getD (m / 3) 0) 0

/-- The operand reads without an error. -/
def CellRt.CleanOp (c : CellRt) (m : Nat) : OpIn → Prop
  | .words _ => True
  | .mem l => c.Clean (l.getD (m / 3) 0) 1

/-- Words `a` to `a + n - 1` of a cell's local memory. -/
def CellRt.words (c : CellRt) (a n : Nat) : List MWord := (List.range n).map (fun k => kvD c.lm (a + k) 0)

/-- The value fits an accumulator of 72 bits (R229). -/
abbrev Fits72 (x : Int) : Prop := -(2 ^ 71) ≤ x ∧ x ≤ 2 ^ 71 - 1

/-- What a field holds after `v` is written to it (R5): bits that hardware sets in the same cycle stay set under a clear (R6). -/
def Dev.wrote (d : Dev) (f : Fld) (v : Nat) : Nat :=
  let old := d.get f
  let clear := (old - (old &&& v) + (old &&& v &&& (kvD d.thisCyc.hw f.key 0).toNat)) % 2 ^ f.width
  match f.ty with
  | .rw => v % 2 ^ f.width
  | .w1s => (old ||| v) % 2 ^ f.width
  | .w1c => clear
  | .rws => clear
  | _ => old

/-- What a read of an RC field gives, and what the field holds after it: nothing, but for what it has counted in the same cycle, which is not read yet (R5, R7). -/
def Dev.rcSplit (d : Dev) (f : Fld) : Nat × Nat := match kvGet f.key d.thisCyc.rc with
  | none => (d.get f, 0)
  | some (x, n) => (x, min n (2 ^ f.width - 1))

/-- What a field gives to a read of its register. -/
def Dev.reads (d : Dev) (req : Requester) (f : Fld) : Nat := if f.ty = .rc then (d.rcSplit f).1 else d.fieldVal req f

/-- The register at `a` has the fields `fl`, at places of their own, and no rule beside R5 for a write of `v`. -/
abbrev PlainReg (s : State) (req : Requester) (a v : Nat) (fl : List Fld) : Prop :=
  fieldsAt a = some fl ∧ (fl.map Fld.key).Nodup ∧ (∀ f ∈ fl, f.width ≤ 32) ∧
    s.dev.writeCmd s.otp req a v = none ∧ s.dev.writeOwn req a v = none ∧ s.dev.writeBank req a v = none

/-- Bit `n` of a bitmap of eight words. -/
def pendBit (d : Dev) (f : Nat → Fld) (n : Nat) : Bool := bit (d.get (f (n / 32))) (n % 32)

/-- One more, up to the end of a counter of 32 bits that stops there. -/
def plus1 (n : Nat) : Nat := min (n + 1) (2 ^ 32 - 1)

/-- The byte that a place of the host's windows holds: reservoir or DDR, the word, and the byte in it (R466). -/
def placeByte (d : Dev) (x : Bool × Nat × Nat) : Nat := bits (wData (if x.1 then d.ddrCell x.2.1 else kvD d.qf.res x.2.1 0)) (8 * x.2.2) 8

/-- The places of `n` consecutive offsets of the host's windows. -/
def places (d : Dev) (off n : Nat) : List (Bool × Nat × Nat) := (List.range n).filterMap (fun k => d.bar2At (off + k))

/-- Every word of these places exists and holds no error (R90, R459, R460). -/
abbrev PlacesClean (d : Dev) (l : List (Bool × Nat × Nat)) : Prop :=
  ∀ x ∈ l, if x.1 then x.2.1 < d.ddrTotal ∧ d.ddr.ue.contains x.2.1 = false ∧ d.ddr.ce.contains x.2.1 = false
    else d.qf.resUe.contains x.2.1 = false ∧ d.qf.resCe.contains x.2.1 = false

/-! ### Command registers -/

/-- Commands that a write of one register gives, and the right they need. -/
def cmdRow (c : CmdReg) (r : Right) (l : List Instr) : List (Instr × CmdReg × Right) := l.map (fun i => (i, c, r))

/-- The commands that a write of a command register gives (R640): the register, and the right it needs (R572, R573, R647); those of QF_QCMD name
queue `q`. -/
def cmdTable (w : When) (req : Requester) (q : Nat) : List (Instr × CmdReg × Right) :=
  cmdRow C.task .none [.taskRead w req] ++
  cmdRow C.task .oper [.cancel w req, .disable w req, .enable w req, .clearCounters w req, .clearState w req] ++
  cmdRow C.qf .none [.queueRead w req q] ++ cmdRow C.qf .oper [.queueFlush w req q, .queueResize w req q] ++
  cmdRow C.fs .none [.fsRead w req, .fsReadLaddr w req] ++ cmdRow C.fs .oper [.fsInsert w req, .fsDelete w req, .fsReplace w req, .fsLookup w req] ++
  cmdRow C.sc .none [.scRead w req] ++ cmdRow C.sc .oper [.scZero w req] ++ cmdRow C.sc .fwOnly [.scSet w req] ++
  cmdRow C.eg .none [.egRead w req, .egStats w req] ++ cmdRow C.cis .none [.cisRead w req, .cisStats w req] ++
  cmdRow C.cis .oper [.cisFlush w req, .cisResize w req, .setDelay w req, .cisStart w req, .cisStop w req, .setPt w req, .setOffset w req, .setRef w req] ++
  cmdRow C.cnv .none [.laneRead w req, .chainRead w req, .setRead w req, .laneCounters w req] ++
  cmdRow C.cnv .oper [.laneEnable w req, .laneDisable w req, .laneDelay w req, .laneRatio w req, .swap w req, .sync w req] ++
  cmdRow C.tone .none [.detRead w req, .genRead w req, .toneSlotCounters w req] ++
  cmdRow C.tone .oper [.detEnable w req, .detDisable w req, .genStart w req, .genStop w req] ++
  cmdRow C.cmp .none [.cmpRead w req, .cmpStreamCounters w req] ++ cmdRow C.cmp .oper [.cmpEnable w req, .cmpDisable w req] ++
  cmdRow C.job .oper [.jobStart w req, .jobAbort w req] ++ cmdRow C.time .none [.trigRead w req] ++
  cmdRow C.time .oper [.timeSet w req, .timeStep w req, .timeFreq w req, .timeAdj w req, .timeMode w req, .arm w req, .disarm w req, .dcoMode w req,
    .saMeas w req, .saReset w req] ++
  cmdRow C.img .oper [.imgLoad w req, .imgAbort w req, .changeover w req, .imgDisarm w req, .imgDiscard w req] ++
  cmdRow C.rst .oper [.pwrD0 w req, .pwrD1 w req, .pwrD2 w req] ++ cmdRow C.rst .fwOnly [.startOk w req, .resScrub w req, .recoverNext w req] ++
  cmdRow C.cal .oper [.calRun w req] ++ cmdRow C.cal .none [.calRead w req] ++
  cmdRow C.sec .none [.challenge w req, .present w req, .sessionEnd w req] ++ cmdRow C.sec .oper [.attest w req] ++ cmdRow C.sec .fwOnly [.keyLoad w req] ++
  cmdRow C.sump .oper [.thaw w req, .freeze w req, .faultClr w req]

/-- Commands as the OP of their register counts them, from 1. -/
def opRow (c : CmdReg) (l : List Instr) : List (CmdReg × Nat × Instr) := l.zipIdx.map (fun x => (c, x.2 + 1, x.1))

/-- The command that each OP of a command register stands for (R85, R176 to R178, R223, R357, R387, R428, R507, R545, R567, R599); QF_QCMD, which names a queue beside its OP,
apart. -/
def opTable (w : When) (req : Requester) : List (CmdReg × Nat × Instr) :=
  opRow C.task [.taskRead w req, .cancel w req, .disable w req, .enable w req, .clearCounters w req, .clearState w req] ++
  opRow C.fs [.fsRead w req, .fsInsert w req, .fsDelete w req, .fsReplace w req, .fsLookup w req, .fsReadLaddr w req] ++
  opRow C.sc [.scSet w req, .scRead w req, .scZero w req] ++ opRow C.eg [.egRead w req, .egStats w req] ++
  opRow C.cis [.cisRead w req, .cisStats w req, .cisFlush w req, .cisResize w req, .setDelay w req, .cisStart w req, .cisStop w req, .setPt w req, .setOffset w req,
    .setRef w req] ++
  opRow C.cnv [.laneRead w req, .chainRead w req, .setRead w req, .laneEnable w req, .laneDisable w req, .laneDelay w req, .laneRatio w req, .swap w req, .sync w req,
    .laneCounters w req] ++
  opRow C.tone [.detRead w req, .genRead w req, .detEnable w req, .detDisable w req, .genStart w req, .genStop w req, .toneSlotCounters w req] ++
  opRow C.cmp [.cmpRead w req, .cmpEnable w req, .cmpDisable w req, .cmpStreamCounters w req] ++ opRow C.job [.jobStart w req, .jobAbort w req] ++
  opRow C.time [.timeSet w req, .timeStep w req, .timeFreq w req, .timeAdj w req, .timeMode w req, .arm w req, .disarm w req, .trigRead w req, .dcoMode w req,
    .saMeas w req, .saReset w req] ++
  opRow C.img [.imgLoad w req, .imgAbort w req, .changeover w req, .imgDisarm w req, .imgDiscard w req] ++
  opRow C.rst [.startOk w req, .resScrub w req, .recoverNext w req, .pwrD0 w req, .pwrD1 w req, .pwrD2 w req] ++
  opRow C.cal [.calRun w req, .calRead w req] ++ opRow C.sec [.challenge w req, .present w req, .keyLoad w req, .sessionEnd w req, .attest w req] ++
  opRow C.sump [.thaw w req, .freeze w req, .faultClr w req]

end Sys2Proof.Machine
end

