-- ==== Sys2Proof/Certificates/Slice0/Obligations.lean ====
section
/-! DEFINITION. The statements for the provers. Each is listed in OBLIGATIONS.json with the rules it rests on. -/

open Sys2Proof Sys2Proof.Machine

/-! ### The pump -/

/-- R85, R55: STK_TASK_CMD READ shows the descriptor of the task in STK_TASK_IDX, and changes nothing else. R72, R85, R264: ENABLE ends a DISABLE and
drops a CANCEL not used, CLEAR_STATE asks for the state to be cleared, OP 5 clears the counters of the pump; nothing else changes. -/
def Obligations.TaskCommands : Prop :=
  (∀ s w req, Open s w req C.task .none → (s.dev.obj S.TASKS (s.dev.get R.STK_TASK_IDX_IDX)).isSome = true →
     Answers (.taskRead w req) s (fun t =>
       (∀ k, k < 8 → t.dev.get (R.STK_TASK_DATA_D k) = bits (s.dev.taskDesc (s.dev.get R.STK_TASK_IDX_IDX)) (32 * k) 32) ∧
       Leaves s t w ((List.range 8).map R.STK_TASK_DATA_D) [E.TASK_CMD_DONE] id)) ∧
  (∀ s w req, Open s w req C.task .oper →
     (∀ k, s.dev.get R.STK_TASK_IDX_IDX = k → (s.dev.obj S.TASKS k).isSome = true →
       Answers (.enable w req) s (fun t => Leaves s t w [] [E.TASK_CMD_DONE]
         (fun d => d.setTask k { d.task k with disabled := false, cancelReq := false })) ∧
       Answers (.clearState w req) s (fun t => Leaves s t w [] [E.TASK_CMD_DONE] (fun d => d.setTask k { d.task k with clearSt := true }))) ∧
     Answers (.clearCounters w req) s (fun t =>
       (∀ k, k < 6 → t.dev.get (R.STK_CNT_COUNT k) = 0) ∧ Leaves s t w ((List.range 6).map R.STK_CNT_COUNT) [E.TASK_CMD_DONE] id))

/-- R71: CANCEL of a task with no instance, or one in DRAIN, is kept for the next release; a RUNNING instance goes to STOPPING. R71, R72, R86: CANCEL
or DISABLE of a task whose instance is READY or STAGED, while no release is held, retires it CANCELLED: STK_CNT[1] counts, the last fault names the
task, its count of predecessors stays, and DISABLE also disables the task. -/
def Obligations.CancelOfInstances : Prop :=
  (∀ s w req k, Open s w req C.task .oper → s.dev.get R.STK_TASK_IDX_IDX = k → (s.dev.obj S.TASKS k).isSome = true →
     ((s.dev.task k).inst = none ∨ (∃ i, (s.dev.task k).inst = some i ∧ i.drain = true) →
       Answers (.cancel w req) s (fun t => Leaves s t w [] [E.TASK_CMD_DONE] (fun d => d.setTask k { d.task k with cancelReq := true }))) ∧
     (∀ i, (s.dev.task k).inst = some i → i.drain = false → (s.dev.task k).st = .running →
       Answers (.cancel w req) s (fun t => Leaves s t w [] [E.TASK_CMD_DONE]
         (fun d => d.setTask k { d.task k with st := .stopping, inst := some { i with cancel := true, stopAt := some d.absCc } })))) ∧
  (∀ s w req k i, Open s w req C.task .oper → s.dev.get R.STK_TASK_IDX_IDX = k → (s.dev.obj S.TASKS k).isSome = true →
     (s.dev.task k).inst = some i → i.drain = false → (s.dev.task k).st = .ready ∨ (s.dev.task k).st = .staged →
     (∀ x ∈ s.dev.pump.tasks, x.2.pend = none) →
     ∀ c, c ∈ [Instr.cancel w req, Instr.disable w req] →
       Answers c s (fun t =>
         t.dev.task k = { s.dev.task k with inst := none, st := .wait, disabled := (s.dev.task k).disabled || decide (c = .disable w req) } ∧
         (∀ j, j ≠ k → t.dev.task j = s.dev.task j) ∧
         t.dev.get (R.STK_CNT_COUNT 1) = plus1 (s.dev.get (R.STK_CNT_COUNT 1)) ∧
         t.dev.get R.STK_LAST_FAULT_TASK = k % 2 ^ 17 ∧ t.dev.get R.STK_LAST_FAULT_KIND = 4 ∧
         t.dev.get R.STK_LAST_FAULT_CELL = tCell i.bits ∧
         Raised t E.CANCELLED ∧ Raised t E.TASK_CMD_DONE ∧
         Keeps s t [R.STK_CNT_COUNT 1, R.STK_LAST_FAULT_TASK, R.STK_LAST_FAULT_KIND, R.STK_LAST_FAULT_CELL]))

/-- R63, R74, R255: staging of a READY instance on a cell that runs, of class L only in its first draw from FD_START on, makes it STAGED, with one record for each input: as many
items as the input names are popped, and the record says what staging of that input, after the inputs before it, gives; no other task changes. R62, R63, R65, R66, R67, R74: RUN offered on an idle cell that runs: in a first draw the class-L task whose turn it is, else the
highest-ranked instance where its deadline still admits it and it fits before the next first draw, enters RUN with the accumulators clear; one of class 1 or 2 whose deadline does not admit
it, READY or STAGED, retires unrun with DEADLINE_MISS; one that does not fit before the next first draw stays, and the array idles until that has closed. -/
def Obligations.StagingAndRun : Prop :=
  (∀ s w k i, Running s → (s.dev.task k).inst = some i → (s.dev.task k).st = .ready → s.dev.halted (.cell (tCell i.bits)) = false →
     (tClass i.bits ≠ 0 ∨ (s.dev.cell (tCell i.bits)).fdOpen = true ∧ (s.dev.cell (tCell i.bits)).fdDone.contains k = false ∧ tFdStart i.bits ≤ (s.dev.at w).org.cc) →
     Answers (.stage w k) s (fun t =>
       (∃ stg, (t.dev.task k).inst = some { i with stg := stg } ∧ stg.length = (s.dev.inputs i.bits).length ∧
         ∀ j io, (s.dev.inputs i.bits)[j]? = some io → ∃ x, stg[j]? = some x ∧ x.1 = io.2.1 ∧
           x = (Dev.stageInput ((((s.dev.at w).argRead i.bits).clearLocal k i).stageInputs (tCell i.bits) ((s.dev.inputs i.bits).take j)).1
             (tCell i.bits) io io.2.1).2) ∧ (t.dev.task k).st = .staged ∧
       (t.dev.task k).firstRun = ((s.dev.task k).firstRun || i.clear) ∧ (∀ j, j ≠ k → t.dev.task j = s.dev.task j))) ∧
  (∀ s w n k i, Running s → (s.dev.cell n).running = none → s.dev.halted (.cell n) = false → tCell i.bits = n → (s.dev.task k).inst = some i →
     (∀ x ∈ s.dev.pump.tasks, x.2.pend = none) →
     ((s.dev.task k).st = .staged →
       ((s.dev.cell n).fdOpen = true ∧ s.dev.fdNext n = some k ∨
         (s.dev.cell n).fdOpen = false ∧ ((s.dev.cell n).parked = false ∨ s.dev.fdLen n = 0) ∧ s.dev.ranked n = some (k, i) ∧
           (tClass i.bits = 3 ∨ (s.dev.at w).absCc + tBudget i.bits - 1 ≤ dlAbs i.bits i.rel) ∧
           (s.dev.fdLen n = 0 ∨ (s.dev.at w).org.cc + tBudget i.bits + 512 ≤ 156250)) →
       Answers (.runAdmit w n) s (fun t =>
         (t.dev.cell n).running = some k ∧ (t.dev.task k).st = .running ∧
         (t.dev.task k).inst = some { i with runStroke := s.dev.org.num, runCc := (s.dev.at w).org.cc } ∧ (t.dev.cell n).acc = [] ∧
         (∀ j, j ≠ k → t.dev.task j = s.dev.task j) ∧ (∀ m, m ≠ n → t.dev.cell m = s.dev.cell m) ∧
         t.dev.get (R.CELL_CNT_COUNT n 0) = plus1 (s.dev.get (R.CELL_CNT_COUNT n 0)) ∧ Keeps s t [R.CELL_CNT_COUNT n 0])) ∧
     ((s.dev.task k).st = .staged → (s.dev.cell n).fdOpen = false → (s.dev.cell n).parked = false → s.dev.ranked n = some (k, i) →
       (tClass i.bits = 3 ∨ (s.dev.at w).absCc + tBudget i.bits - 1 ≤ dlAbs i.bits i.rel) →
       s.dev.fdLen n ≠ 0 → 156250 < (s.dev.at w).org.cc + tBudget i.bits + 512 →
       Answers (.runAdmit w n) s (fun t => (t.dev.cell n).parked = true ∧ t.dev.task k = s.dev.task k ∧
         Leaves s t w [] [] (fun d => d.setCell n { d.cell n with parked := true }))) ∧
     ((s.dev.cell n).fdOpen = false → ((s.dev.cell n).parked = false ∨ s.dev.fdLen n = 0) → s.dev.ranked n = some (k, i) →
       (tClass i.bits = 1 ∨ tClass i.bits = 2) → dlAbs i.bits i.rel < (s.dev.at w).absCc + tBudget i.bits - 1 → tSuccCount i.bits = 0 →
       Answers (.runAdmit w n) s (fun t => (t.dev.task k).inst = none ∧ (t.dev.task k).st = .wait ∧ (∀ j, j ≠ k → t.dev.task j = s.dev.task j) ∧
         t.dev.get (R.STK_CNT_COUNT 2) = plus1 (s.dev.get (R.STK_CNT_COUNT 2)) ∧ Raised t E.DEADLINE_MISS)))

/-- R69: the running instance of a cell whose budget is exhausted goes to STOPPING. R62, R64, R67: the close of a first draw shuts it, and RUN may be offered again. R63: FD_LATEST of a
class-L task without an instance that waits to run (log entry 104: a held release is none) skips it for the stroke, and CLASSL_LATE fires for one that is due. Nothing else changes. -/
def Obligations.BudgetAndFirstDraw : Prop :=
  (∀ s w n k i, Running s → (s.dev.cell n).running = some k → (s.dev.task k).inst = some i → (s.dev.task k).st = .running →
     Answers (.budgetExhausted w n) s (fun t => (t.dev.task k).st = .stopping ∧
       Leaves s t w [] [] (fun d => d.setTask k { d.task k with st := .stopping, inst := some { i with stopAt := some d.absCc } }))) ∧
  (∀ s w n, Running s →
     Answers (.firstDrawClose w n) s (fun t => (t.dev.cell n).fdOpen = false ∧
       Leaves s t w [] [] (fun d => d.setCell n { d.cell n with fdOpen := false, parked := false }))) ∧
  (∀ s w k o, Running s → s.dev.obj S.TASKS k = some o → tClass o = 0 → (s.dev.cell (tCell o)).fdOpen = true →
     (s.dev.task k).st ≠ .ready → (s.dev.task k).st ≠ .staged → (s.dev.cell (tCell o)).fdDone.contains k = false →
     Answers (.fdLatestExpiry w k) s (fun t => (t.dev.cell (tCell o)).fdDone.contains k = true ∧
       Leaves s t w [] (if s.dev.fdDue k o && !(s.dev.task k).disabled && !s.dev.pump.cancelled.contains k then [E.CLASSL_LATE] else [])
         (fun d => d.setCell (tCell o) { d.cell (tCell o) with fdDone := k :: (d.cell (tCell o)).fdDone })))

/-- R259, R261, R262: the return of a kernel without work of its own, a checkpoint of a stopping instance and a forced stop free the cell, and the
instance stays until its DRAIN ends (with nothing to push where it has no output), stopped where its budget has run out in that very cycle (R69); a forced stop is counted and noted as CP_FORCED. R79: a kernel that returns in the cycle of a CANCEL completes, and the CANCEL
meets the next release. R60, R69, R71, R74, R86: DRAIN that has nothing left to push ends,
and the instance retires: CANCELLED where it was stopped by a CANCEL, OVERRUN where it was stopped for its budget, each counted in its STK_CNT with its event, and in neither
otherwise. With no successor and no held release the task waits again. -/
def Obligations.RunEndsAndRetires : Prop :=
  (∀ s w n k i c, Running s → (s.dev.cell n).running = some k → (s.dev.task k).inst = some i → tCell i.bits = n → n < 64 →
     (c = .kernelReturn w n .plain ∧ (i.cancel = false ∨ i.stopAt ≠ some (s.dev.at w).absCc) ∨
       ((s.dev.task k).st = .stopping ∨ (s.dev.task k).st = .running ∧ (s.dev.at w).overBudget i = true) ∧ c = .checkpoint w n .plain 0 ∨
       (s.dev.task k).st = .stopping ∧ c = .cpForced w n .plain 0) →
     Answers c s (fun t =>
       (t.dev.cell n).running = none ∧
       (∃ q, (s.dev.outputs i.bits = [] → q = []) ∧ (t.dev.task k).inst = some { i with drain := true, drainQ := q }) ∧
       (t.dev.task k).st = (if (s.dev.task k).st = .running ∧ (s.dev.at w).overBudget i = true then .stopping else (s.dev.task k).st) ∧
       (∀ j, j ≠ k → t.dev.task j = s.dev.task j) ∧
       (c = .cpForced w n .plain 0 → t.dev.get (R.CELL_EVT_STAT_CP_FORCED n) = 1 ∧
         t.dev.get (R.CELL_CNT_COUNT n 6) = plus1 (s.dev.get (R.CELL_CNT_COUNT n 6))))) ∧
  (∀ s w n k i, Running s → (s.dev.cell n).running = some k → (s.dev.task k).inst = some i → tCell i.bits = n → n < 64 → (s.dev.task k).st = .stopping →
     i.cancel = true → i.stopAt = some (s.dev.at w).absCc →
     Answers (.kernelReturn w n .plain) s (fun t =>
       (t.dev.cell n).running = none ∧
       (∃ q, (s.dev.outputs i.bits = [] → q = []) ∧ (t.dev.task k).inst = some { i with cancel := false, stopAt := none, drain := true, drainQ := q }) ∧
       (t.dev.task k).st = (if (s.dev.at w).overBudget i = true then .stopping else .running) ∧ (t.dev.task k).cancelReq = true ∧ (∀ j, j ≠ k → t.dev.task j = s.dev.task j))) ∧
  (∀ s w k i, Running s → (s.dev.task k).inst = some i → i.drain = true → i.drainQ = [] → (s.dev.task k).st = .running ∨ (s.dev.task k).st = .stopping →
     Answers (.completion w k) s (fun t =>
       ((s.dev.task k).st = .stopping → i.cancel = false →
         t.dev.get (R.STK_CNT_COUNT 0) = plus1 (s.dev.get (R.STK_CNT_COUNT 0)) ∧
         Raised t (if tClass i.bits = 0 then E.OVERRUN_L else E.OVERRUN)) ∧
       ((s.dev.task k).st = .stopping → i.cancel = true →
         t.dev.get (R.STK_CNT_COUNT 0) = s.dev.get (R.STK_CNT_COUNT 0) ∧ Raised t E.CANCELLED ∧
         ((∀ x ∈ s.dev.pump.tasks, x.2.pend = none) → t.dev.get (R.STK_CNT_COUNT 1) = plus1 (s.dev.get (R.STK_CNT_COUNT 1)) ∧
           t.dev.get R.STK_LAST_FAULT_TASK = k % 2 ^ 17 ∧ t.dev.get R.STK_LAST_FAULT_KIND = 4)) ∧
       ((s.dev.task k).st = .running → t.dev.get (R.STK_CNT_COUNT 0) = s.dev.get (R.STK_CNT_COUNT 0)) ∧
       (tSuccCount i.bits = 0 → (∀ x ∈ s.dev.pump.tasks, x.2.pend = none) →
         t.dev.task k = { s.dev.task k with inst := none, st := .wait } ∧ ∀ j, j ≠ k → t.dev.task j = s.dev.task j)))

/-! ### Queues -/

/-- R94, R96, R97, R99: a good item that arrives at a queue with room, its producer free to send, lies in the slot at the write pointer with SEQ and
STROKE in its header; the write pointer moves on, PUSHED counts, a credit is spent unless POSTED, no pop of the same cycle sees it, and nothing else changes. -/
def Obligations.PushStoresItem : Prop :=
  ∀ s w q o ws, Running s → s.dev.obj S.QUEUES q = some o → ((nodeBlk (qProdNode o) (qProdPort o)).map s.dev.isolated).getD false = false →
    GoodItem o ws → s.dev.qWaits q (ws.map TWord.toW) = false → (s.dev.q q).openW = none → (s.dev.q q).swallow = none →
    CopiesAgree (s.dev.q q) → (s.dev.q q).depth < (s.dev.q q).n →
    Answers (.push w q ws false) s (fun t =>
      Leaves s t w [] [] (fun d =>
        (d.resWriteN (slotAt s.dev q (s.dev.q q).wpA) (s.dev.qStamp q (ws.map TWord.toW))).setQ q
          { ((((s.dev.q q).spend (qPosted o)).add cPushed 1).setWp (pNext (s.dev.q q).n (s.dev.q q).wpA)).pushedAt d.stamp with fbArmed := false, mal := false }))

/-- R94, R98, R99, R102: a pop of a queue that holds an item pushed in an earlier cycle gives the words of the slot at the read pointer, POPPED counts, the read pointer moves on and a
credit comes back unless POSTED; a framer takes an item without POISON so. The reservoir is as before. R100: a pop that sees no item, of a queue whose fallback is
not armed, gives the idle item with REASON.IDLE and the stroke, and counts EMPTY_POP; R36, R30: so does, armed or not, a queue whose producer is in reset, and one of class L whose path
such a block carries.
R35, R122: a consumer in block reset takes nothing from its queues and is answered ISO_ERR. -/
def Obligations.PopGivesItem : Prop :=
  (∀ s w q o framer n, Running s → s.dev.obj S.QUEUES q = some o → s.dev.consHalted o = false → CopiesAgree (s.dev.q q) → (s.dev.q q).visible (s.dev.at w).stamp ≠ 0 →
     n = hPlen (wData (kvD s.dev.qf.res (slotAt s.dev q (s.dev.q q).rpA) 0)) → NoError s.dev (slotAt s.dev q (s.dev.q q).rpA) n →
     (framer = true → ∀ k, k ≤ n → wPoison (kvD s.dev.qf.res (slotAt s.dev q (s.dev.q q).rpA + k) 0) = false) →
     Answers (.pop w q framer) s (fun t =>
       t.dev.reply.item = (List.range (n + 1)).map (fun k => kvD s.dev.qf.res (slotAt s.dev q (s.dev.q q).rpA + k) 0) ∧
       t.dev.q q = { ((s.dev.q q).add cPopped 1).setRp (pNext (s.dev.q q).n (s.dev.q q).rpA) |>.addCredit (qPosted o) 1 with
         last := some t.dev.reply.item } ∧
       (∀ j, j ≠ q → t.dev.q j = s.dev.q j) ∧ t.dev.qf.res = s.dev.qf.res ∧ Keeps s t [] ∧ RaisesJust s t [])) ∧
  (∀ s w q o framer n, Running s → s.dev.obj S.QUEUES q = some o → s.dev.consHalted o = false → CopiesAgree (s.dev.q q) → (s.dev.q q).visible (s.dev.at w).stamp = 0 →
     (s.dev.q q).fbArmed = false ∨ s.dev.prodHalted o = true ∨ qClass o = 0 ∧ s.dev.pathHalted 16 q = true →
     n = hPlen (wData (kvD s.dev.qf.res (qIdle o) 0)) → NoError s.dev (qIdle o) n →
     Answers (.pop w q framer) s (fun t =>
       t.dev.reply.item = itemMapHdr (fun h => setBits (setBit h rIdle) 24 24 s.dev.org.num)
         ((List.range (n + 1)).map (fun k => kvD s.dev.qf.res (qIdle o + k) 0)) ∧
       Leaves s t w [] (if qClass o = 0 then [E.EMPTY_POP_L] else []) (fun d => d.setQ q ((d.q q).add cEmptyPop 1)))) ∧
  (∀ s w q o framer, Running s → s.dev.obj S.QUEUES q = some o → s.dev.consHalted o = true →
     Answers (.pop w q framer) s (fun t => t.dev.reply.flag = s.dev.consIsolated o ∧ Leaves s t w [] [] id))

/-- R105, R123, R124: QF_QCMD READ shows the queue's ten counters; FLUSH and RESIZE to a size in range wait for the consumer's boundary and for the
stroke boundary. R105: a flush that applies removes every complete item, counts them FLUSHED, returns their credits unless POSTED, and FLUSH_DONE
fires at once where no item is open. -/
def Obligations.QueueCommands : Prop :=
  (∀ s w req q, Ready s req → (s.dev.at w).busy C.qf = false → s.dev.qValid q = true →
     Answers (.queueRead w req q) s (fun t =>
       (∀ k, k < 10 → t.dev.get (R.QF_QCNT_COUNT k) = (s.dev.q q).c k) ∧
       Leaves s t w (R.QF_QCMD_Q :: (List.range 10).map R.QF_QCNT_COUNT) [] id) ∧
     ((s.dev.at w).oper req = true →
       Answers (.queueFlush w req q) s (fun t => Leaves s t w [R.QF_QCMD_Q] [] (fun d => d.setQ q { d.q q with flushPend := true })) ∧
       (∀ n, s.dev.get R.QF_QARG_SLOTS = n → 0 < n → n ≤ qSlotsMax (s.dev.objD S.QUEUES q) →
         Answers (.queueResize w req q) s (fun t =>
           Leaves s t w [R.QF_QCMD_Q] [] (fun d => d.setQ q { d.q q with resizePend := some (BitVec.ofNat 16 n) }))))) ∧
  (∀ s w q o, Running s → s.dev.obj S.QUEUES q = some o → CopiesAgree (s.dev.q q) → (s.dev.q q).flushPend = true → (s.dev.q q).openW = none →
     Answers (.flushApply w q) s (fun t =>
       (t.dev.q q).depth = 0 ∧
       Leaves s t w [] [E.FLUSH_DONE] (fun d =>
         d.setQ q { (((d.q q).add cFlushed (d.q q).depth).setRp (d.q q).wpA).addCredit (qPosted o) (d.q q).depth with flushPend := false })))

/-- R92: a read of byte offset 0x14 of a queue descriptor gives its bits [191:160] and latches its bits [255:192]; the next read of each of
those two words returns what was latched. -/
def Obligations.DescriptorLatch : Prop :=
  ∀ s w req q, Ready s req → q < 65536 →
    Answers (.descPtrRead w req q) s (fun t =>
      t.dev.reply.words = [BitVec.ofNat 32 (bits (s.dev.qDesc q) 160 32)] ∧
      Keeps s t [] ∧ RaisesJust s t [] ∧
      (∀ u w', u.dev.qf.descLatch6 = t.dev.qf.descLatch6 → Ready u req →
        Answers (.rcRead w' req (0x00400018 + 32 * q)) u (fun v =>
          v.dev.reply.words = [BitVec.ofNat 32 (bits (s.dev.qDesc q) 192 32)] ∧ v.dev.qf.descLatch6 = none)) ∧
      (∀ u w', u.dev.qf.descLatch7 = t.dev.qf.descLatch7 → Ready u req →
        Answers (.rcRead w' req (0x0040001C + 32 * q)) u (fun v =>
          v.dev.reply.words = [BitVec.ofNat 32 (bits (s.dev.qDesc q) 224 32)] ∧ v.dev.qf.descLatch7 = none)))

/-! ### The mesh links and the census -/

/-- R16, R17, R110, R111: a class-L flit that waits at an output on its dimension-ordered way, with a credit for it and neither from nor to an isolated block, is granted before all others and spends that credit; a credit in return
reaches its sender; neither changes the sum of R114 at any virtual channel. R114, R118: a channel noted as failed, with nothing on the wire and no
credit in return, is brought back to a sum of 32, and CREDIT_RESYNC fires. R117: a census that completes sets DONE and its stroke; where every
equation holds CENSUS_OK reads 1 and no event fires, and else CENSUS_OK reads 0, the failures are counted and CENSUS_ERR fires. -/
def Obligations.LinksAndCensus : Prop :=
  ((∀ s w node out i waiting, Running s → node < 80 → i < 5 → (i, 0) ∈ waiting → turnOk i out = true →
      (i ≠ 4 ∧ out ≠ 4 ∨ s.dev.nodeCut node = false) →
      (out = 4 ∨ (∃ m, meshNext node out = some m) ∧ 0 < (s.dev.link (linkKey node out 0)).credits) →
      Answers (.flitGrant w node out waiting) s (fun t =>
        (∃ j, (j, 0) ∈ waiting ∧ t.dev.reply.words = [BitVec.ofNat 32 j, 0]) ∧
        (out ≠ 4 → (t.dev.link (linkKey node out 0)).credits + 1 = (s.dev.link (linkKey node out 0)).credits ∧
          (t.dev.link (linkKey node out 0)).buf = (s.dev.link (linkKey node out 0)).buf + 1) ∧
        (∀ k, (t.dev.link k).total = (s.dev.link k).total) ∧ Keeps s t [] ∧ RaisesJust s t []) ∧
      (∀ dir cls, 0 < (s.dev.link (linkKey node dir cls)).ret →
        Answers (.linkCreditReturn w node dir cls) s (fun t =>
          (t.dev.link (linkKey node dir cls)).credits = (s.dev.link (linkKey node dir cls)).credits + 1 ∧
          (∀ k, (t.dev.link k).total = (s.dev.link k).total) ∧ Keeps s t [] ∧ RaisesJust s t []))) ∧
   (∀ s w node dir cls, Running s → (s.dev.link (linkKey node dir cls)).bad = true → (s.dev.link (linkKey node dir cls)).wire = 0 →
      (s.dev.link (linkKey node dir cls)).ret = 0 → (s.dev.link (linkKey node dir cls)).buf ≤ 32 →
      Answers (.creditResync w node dir cls) s (fun t =>
        (t.dev.link (linkKey node dir cls)).credits = 32 - (s.dev.link (linkKey node dir cls)).buf ∧
        (t.dev.link (linkKey node dir cls)).buf = (s.dev.link (linkKey node dir cls)).buf ∧
        (t.dev.link (linkKey node dir cls)).total = 32 ∧ (t.dev.link (linkKey node dir cls)).bad = false ∧
        (∀ k, k ≠ linkKey node dir cls → t.dev.link k = s.dev.link k) ∧ Keeps s t [] ∧ RaisesJust s t [E.CREDIT_RESYNC]))) ∧
  (∀ s w x, Running s → s.dev.qf.snap = some x →
     Answers (.censusComplete w) s (fun t =>
       t.dev.get R.QF_CENSUS_STAT_DONE = 1 ∧ t.dev.get R.QF_CENSUS_STROKE_NUM = x.stroke % 2 ^ 32 ∧ t.dev.qf.snap = none ∧
       (x.first = none → x.cist = [] → t.dev.get R.QF_STAT_CENSUS_OK = 1 ∧ RaisesJust s t [] ∧
         Keeps s t [R.QF_CENSUS_STAT_DONE, R.QF_CENSUS_STROKE_NUM, R.QF_STAT_CENSUS_OK]) ∧
       (x.first.isSome = true → t.dev.get R.QF_STAT_CENSUS_OK = 0 ∧ Raised t E.CENSUS_ERR ∧
         t.dev.get R.QF_CENSUS_FAILS_COUNT = min (s.dev.get R.QF_CENSUS_FAILS_COUNT + x.fails) (2 ^ 32 - 1))))

/-! ### The compute array of a cell -/

/-- R229, R230: a clear makes the accumulator 0; every other operation of R230 computes its exact result, with the poison of R236. R231 to R233: a result that fits
72 bits stands in the accumulator and nothing else changes; one that does not is, in saturate mode, the nearer limit with SAT, and in wrap mode the result modulo
2^72, and ACC_OVF of the lane is set, in CELL_ACC_OVF and as a cause. In SAT an addition, a subtraction or a cross-lane sum leaves everything as it is. R227: the
operand of lane m is lane L(m mod 3) of word m div 3 of its input. R231, R266: the kernel may clear the flag ACC_OVF of a lane; one set in the same cycle stays. -/
def Obligations.AccumulatorSteps : Prop :=
  ∀ s w n m a, Running s → CellRuns s n → m < 12 → a < 8 →
    Answers (.accClear w n m a false) s (fun t => Leaves s t w [] [] (fun d => d.setCell n ((d.cell n).setAcc m a {}))) ∧
    Answers (.accClear w n m a true) s (fun t => Leaves s t w [] [] (fun d => d.ovfClear n m) ∧
      ((s.dev.cell n).cyc.ovf = 0 → bit (t.dev.cell n).ovf.toNat m = false)) ∧
    ∀ x y vx vy k sub mask js, (s.dev.cell n).CleanOp m x → (s.dev.cell n).CleanOp m y →
      vx = takeLane ((s.dev.cell n).operand m x) m → vy = takeLane ((s.dev.cell n).operand m y) m →
      js = (List.range 12).filter (fun j => bit mask.toNat j) →
      (((s.dev.cell n).accAt m a).sat = true →
        ∀ c ∈ [Instr.accAddProduct w n m a x y sub, .accAddShifted w n m a x k sub, .crossLaneSum w n m a mask],
          Answers c s (fun t => Leaves s t w [] [] id)) ∧
      (∀ c z p, (c, z, p) ∈
          (Instr.accLoad w n m a (.lane x) k, vx.1 * 2 ^ k, vx.2) :: (.accLoad w n m a (.prod x y) k, vx.1 * vy.1 * 2 ^ k, vx.2 || vy.2) ::
          (if ((s.dev.cell n).accAt m a).sat = true then [] else
            [(Instr.accAddProduct w n m a x y sub,
                ((s.dev.cell n).accAt m a).v.toInt + (if sub = true then -(vx.1 * vy.1) else vx.1 * vy.1),
                ((s.dev.cell n).accAt m a).poison || (vx.2 || vy.2)),
             (.accAddShifted w n m a x k sub,
                ((s.dev.cell n).accAt m a).v.toInt + (if sub = true then -(vx.1 * 2 ^ k) else vx.1 * 2 ^ k),
                ((s.dev.cell n).accAt m a).poison || vx.2),
             (.crossLaneSum w n m a mask, (js.map (fun j => ((s.dev.cell n).accAt j a).v.toInt)).sum,
                ((s.dev.cell n).accAt m a).poison || js.any (fun j => ((s.dev.cell n).accAt j a).poison))]) →
        Answers c s (fun t =>
          (Fits72 z → Leaves s t w [] [] (fun d => d.setCell n ((d.cell n).setAcc m a { v := BitVec.ofInt 72 z, sat := false, poison := p }))) ∧
          (¬Fits72 z →
            (s.dev.accWrap n = false → ((t.dev.cell n).accAt m a).sat = true ∧
              ((t.dev.cell n).accAt m a).v.toInt = if z < 0 then -(2 ^ 71) else 2 ^ 71 - 1) ∧
            (s.dev.accWrap n = true → ((t.dev.cell n).accAt m a).sat = false ∧ (((t.dev.cell n).accAt m a).v.toInt - z) % 2 ^ 72 = 0) ∧
            ((t.dev.cell n).accAt m a).poison = p ∧ bit (t.dev.cell n).ovf.toNat m = true ∧
            bit (t.dev.get (R.CELL_ACC_OVF_LANES n)) m = true ∧ t.dev.get (R.CELL_EVT_STAT_ACC_OVF n) = 1)))

/-- R234: a reduction writes the accumulator's value over 2^sh, rounded half to even and limited to a lane, to its lane of the local word; the other
lanes are as before, or zero where the word was unreadable (R246), the other words and the accumulators are as before, and CELL_CNT[3] counts a limit. -/
def Obligations.ReductionWritesLane : Prop :=
  ∀ s w n m a sh addr lane, Running s → CellRuns s n → m < 12 → a < 8 → addr < 32768 → lane < 3 →
    Answers (.reduction w n m a sh addr lane) s (fun t =>
      sLane (wData (kvD (t.dev.cell n).lm addr 0)) lane =
        clampInt laneMin laneMax (roundEven ((s.dev.cell n).accAt m a).v.toInt (2 ^ sh)) ∧
      (∀ j, j < 3 → j ≠ lane → sLane (wData (kvD (t.dev.cell n).lm addr 0)) j =
        if (s.dev.cell n).lmUe.contains addr = true then 0 else sLane (wData (kvD (s.dev.cell n).lm addr 0)) j) ∧
      (∀ x, x ≠ addr → kvD (t.dev.cell n).lm x 0 = kvD (s.dev.cell n).lm x 0) ∧ (t.dev.cell n).acc = (s.dev.cell n).acc ∧
      t.dev.get (R.CELL_CNT_COUNT n 3) =
        min (s.dev.get (R.CELL_CNT_COUNT n 3) + b2n (satLane (roundEven ((s.dev.cell n).accAt m a).v.toInt (2 ^ sh))).2) (2 ^ 32 - 1))

/-- R238: the block exponent is the largest shift, up to 23, that every lane it looks at bears without overflow. R239, R240: a search gives the
extreme of the lanes it looks at outside the exclusion zones, at the lowest index that holds it, or NONE where no lane is left. -/
def Obligations.VectorSearches : Prop :=
  (∀ s w n addr cnt mask, Running s → CellRuns s n → (s.dev.cell n).Clean addr cnt →
     Answers (.blockExponent w n addr cnt mask) s (fun t =>
       (∃ e, e ≤ 23 ∧ t.dev.reply.words = [0, BitVec.ofNat 32 e] ∧
         (∀ x ∈ (blockLanes ((s.dev.cell n).words addr cnt) mask.toNat).1, laneMin ≤ x.2 * 2 ^ e ∧ x.2 * 2 ^ e ≤ laneMax) ∧
         (e < 23 → ∃ x ∈ (blockLanes ((s.dev.cell n).words addr cnt) mask.toNat).1, ¬(laneMin ≤ x.2 * 2 ^ (e + 1) ∧ x.2 * 2 ^ (e + 1) ≤ laneMax))) ∧
       t.dev.reply.poison = ((s.dev.cell n).words addr cnt).any wPoison ∧ Leaves s t w [] [] id)) ∧
  (∀ s w n mode addr cnt mask zones ls, Running s → CellRuns s n → (s.dev.cell n).Clean addr cnt →
     ls = ((blockLanes ((s.dev.cell n).words addr cnt) mask.toNat).1).filter (fun x => !excluded zones x.1) →
     Answers (.minMaxSearch w n mode addr cnt mask zones) s (fun t =>
       (ls ≠ [] → t.dev.reply.flag = false ∧ ∃ i, (i, t.dev.reply.value) ∈ ls ∧ t.dev.reply.words = [BitVec.ofNat 32 i, 23] ∧
         ∀ x ∈ ls, searchBetter mode x.2 t.dev.reply.value = false ∧ (x.1 < i → searchBetter mode t.dev.reply.value x.2 = true)) ∧
       (ls = [] → t.dev.reply.flag = true) ∧ Leaves s t w [] [] id))

/-- R242 to R244: an access of a generator at an address of local memory moves the word and then the offset; at an address beyond it, and in BITREV with
a LEN that is no power of two, a read gives zero tagged POISON and a write is suppressed; so it is with a LEN of zero: the generator stays, and AG_FAULT is noted and
counted. A write of LEN in range takes effect, and the offset of a generator that is not
linear comes below it. R247, R254: a transfer inside the windows of the task in RUN moves its words between local memory and the reservoir or the DDR;
one outside them moves none, and DMA_ERR is noted and counted. -/
def Obligations.GeneratorsAndTransfers : Prop :=
  (∀ s w n k g setup h, Running s → CellRuns s n → k < 8 → (s.dev.cell n).ag k = h → g = h.setup setup →
     (∀ x, g.len ≠ 0 → g.next g.len.toNat = some (some x) → g.base.toNat + g.off.toNat < 32768 →
       ((s.dev.cell n).Clean (g.base.toNat + g.off.toNat) 1 →
         Answers (.agAccess w n k setup none) s (fun t =>
           t.dev.reply.item = [kvD (s.dev.cell n).lm (g.base.toNat + g.off.toNat) 0] ∧
           Leaves s t w [] [] (fun d => (d.agSetup n k setup).setAg n k { g with off := BitVec.ofNat 15 x }))) ∧
       (∀ v, Answers (.agAccess w n k setup (some v)) s (fun t =>
         kvD (t.dev.cell n).lm (g.base.toNat + g.off.toNat) 0 = TWord.toW v ∧
         Leaves s t w [] [] (fun d =>
           ((d.agSetup n k setup).lmWrite n (g.base.toNat + g.off.toNat) (TWord.toW v)).setAg n k { g with off := BitVec.ofNat 15 x })))) ∧
     (∀ c, setup = none → (32768 ≤ g.base.toNat + g.off.toNat ∨ g.mode = .bitrev ∧ ∀ b, b < 16 → g.len.toNat ≠ 2 ^ b) ∧ (c = .agAccess w n k none none ∨ ∃ v, c = .agAccess w n k none (some v)) ∨
         c = .agLenWrite w n k 0 none →
       Answers c s (fun t =>
         (c = .agAccess w n k none none → t.dev.reply.item = [poisonZero]) ∧ t.dev.get (R.CELL_EVT_STAT_AG_FAULT n) = 1 ∧
         t.dev.get (R.CELL_CNT_COUNT n 1) = plus1 (s.dev.get (R.CELL_CNT_COUNT n 1)) ∧ Still s t w)) ∧
     (∀ len, setup = none → 0 < len → len ≤ 32768 → Answers (.agLenWrite w n k len none) s (fun t =>
       Leaves s t w [] [] (fun d => d.setAg n k { g with
         len := BitVec.ofNat 16 len, off := if g.mode = .linear then g.off else BitVec.ofNat 15 (g.off.toNat % len) })))) ∧
  (∀ s w n toLocal space loc ext len, Running s → CellRuns s n → 0 < len →
     (s.dev.xferOk n toLocal space loc ext len = true →
       (toLocal = true → space = .reservoir → NoError s.dev ext (len - 1) →
         Answers (.transfer w n toLocal space loc ext len) s (fun t =>
           Leaves s t w [] [] (fun d => d.lmWriteN n loc ((List.range len).map (fun k => kvD s.dev.qf.res (ext + k) 0))))) ∧
       (toLocal = true → space = .ddr → ext + len ≤ s.dev.ddrTotal → s.dev.ddr.ue = [] → s.dev.ddr.ce = [] →
         Answers (.transfer w n toLocal space loc ext len) s (fun t =>
           Leaves s t w [] [] (fun d => d.lmWriteN n loc ((List.range len).map (fun k => s.dev.ddrCell (ext + k)))))) ∧
       (toLocal = false → (s.dev.cell n).Clean loc len → (space = .reservoir ∨ ext + len ≤ s.dev.ddrTotal) →
         Answers (.transfer w n toLocal space loc ext len) s (fun t =>
           Leaves s t w [] [] (fun d => if space = .ddr then d.ddrWriteN ext ((s.dev.cell n).words loc len) else d.resWriteN ext ((s.dev.cell n).words loc len))))) ∧
     (s.dev.xferOk n toLocal space loc ext len = false →
       Answers (.transfer w n toLocal space loc ext len) s (fun t =>
         t.dev.get (R.CELL_EVT_STAT_DMA_ERR n) = 1 ∧ t.dev.get (R.CELL_CNT_COUNT n 1) = plus1 (s.dev.get (R.CELL_CNT_COUNT n 1)) ∧
         t.dev.qf.res = s.dev.qf.res ∧ t.dev.ddr = s.dev.ddr)))

/-! ### The control space -/

/-- R5: the fields of every register lie in its 32 bits, each in a place of its own, at the register's address. -/
def Obligations.FieldsDisjoint : Prop :=
  ∀ a fl, fieldsAt a = some fl →
    (∀ f ∈ fl, f.addr = a ∧ 0 < f.width ∧ f.lo + f.width ≤ 32 ∧ f.reset < 2 ^ f.width) ∧
      fl.Pairwise (fun f g => f.lo + f.width ≤ g.lo ∨ g.lo + g.width ≤ f.lo)

/-- R5, R6, R572, R647: a write of a register without a rule of its own, by a requester that may write it, does to each field what the field's type says, bits that hardware has set in
the same cycle staying set, and nothing else changes. R572: a write of such a register without the right it needs changes nothing, and SEC_CNT[0] counts it. R465: a write at an address
without a register changes nothing. R640: a write of an OP to a command register is that command. -/
def Obligations.PlainWrites : Prop :=
  (∀ s w req a (v : Word) fl, Ready s req → PlainReg s req a v.toNat fl → (needsOper a fl = true → (s.dev.at w).oper req = true) →
     Answers (.registerWrite w req a v) s (fun t =>
       (∀ f ∈ fl, t.dev.get f = (s.dev.at w).wrote f (bits v.toNat f.lo f.width)) ∧ KeepsAll s t fl ∧ Still s t w)) ∧
  (∀ s w req a (v : Word) fl, Ready s req → PlainReg s req a v.toNat fl → needsOper a fl = true → (s.dev.at w).oper req = false →
     Answers (.registerWrite w req a v) s (fun t =>
       t.dev.get (R.SEC_CNT_COUNT 0) = plus1 (s.dev.get (R.SEC_CNT_COUNT 0)) ∧ KeepsAll s t [R.SEC_CNT_COUNT 0] ∧ Still s t w)) ∧
  (∀ s w req a (v : Word), Ready s req → fieldsAt a = none → Answers (.registerWrite w req a v) s (fun t => KeepsAll s t [] ∧ Still s t w)) ∧
  ∀ s w req, (∀ x ∈ opTable w req, exec (.registerWrite w req x.1.err.addr (BitVec.ofNat 32 x.2.1)) s = exec x.2.2 s) ∧
    ∀ q, q < 65536 → ∀ x ∈ opRow C.qf [.queueRead w req q, .queueFlush w req q, .queueResize w req q],
      exec (.registerWrite w req x.1.err.addr (BitVec.ofNat 32 (q + 65536 * x.2.1))) s = exec x.2.2 s

/-- R5, R7, R465: a read of a register whose read latches nothing gives its fields, and its RC fields are cleared, but for what they have counted in the same cycle, which the read does not give
yet; every other field is as before. A read
at an address without a register gives zero. R465: a misaligned or partial DW sets PCIE_STAT.BAD_ACC, is counted in PCIE_CNT[0] and fires
PCIE_BAD_ACC; a read gives zero. -/
def Obligations.RegisterReads : Prop :=
  (∀ s w req a, Ready s req → a % 4 = 0 → isDesc a = false → (s.dev.at w).readPop a = none →
     (∀ fl, fieldsAt a = some fl →
       Answers (.rcRead w req a) s (fun t =>
         t.dev.reply.words = [BitVec.ofNat 32 (fl.foldl (fun x f => x + (s.dev.at w).reads req f * 2 ^ f.lo) 0)] ∧
         (∀ f ∈ fl, f.ty = .rc → t.dev.get f = ((s.dev.at w).rcSplit f).2) ∧ KeepsAll s t (fl.filter (fun f => f.ty == .rc)) ∧ Still s t w)) ∧
     (fieldsAt a = none → Answers (.rcRead w req a) s (fun t => t.dev.reply.words = [0] ∧ KeepsAll s t [] ∧ Still s t w))) ∧
  (∀ s w wr a, Ready s .host →
     Answers (.badAccess w wr a) s (fun t =>
       t.dev.get R.PCIE_STAT_BAD_ACC = 1 ∧ t.dev.get (R.PCIE_CNT_COUNT 0) = plus1 (s.dev.get (R.PCIE_CNT_COUNT 0)) ∧
       (wr = false → t.dev.reply.words = [0]) ∧ Leaves s t w [R.PCIE_STAT_BAD_ACC, R.PCIE_CNT_COUNT 0] [E.PCIE_BAD_ACC] id))

/-- R615: a core's store of an aligned word inside the SRAM and a load of it back agree, a store changes no other byte; an access that is not a whole
aligned word raises an access fault and does nothing else, wherever it goes. The core runs, and its protection entries allow the access. -/
def Obligations.CoreMemory : Prop :=
  ∀ s w core, Ready s .fw → s.dev.coreRuns core = true →
    (∀ a data, data.length = 4 → a % 4 = 0 → a + data.length ≤ 0x400000 → (s.dev.core core).allows (0x80000000 + a) data.length true = true →
      Answers (.coreAccess w core [] (0x80000000 + a) data.length data) s (fun t =>
        (∀ k (h : k < data.length), kvD t.dev.cores.sram (a + k) 0 = data[k]) ∧
        (∀ x, x < a ∨ a + data.length ≤ x → kvD t.dev.cores.sram x 0 = kvD s.dev.cores.sram x 0) ∧
        bit t.dev.cores.accessFault.toNat core = false ∧ Keeps s t [] ∧ RaisesJust s t [])) ∧
    (∀ a n, n = 4 → a % 4 = 0 → a + n ≤ 0x400000 → (s.dev.core core).allows (0x80000000 + a) n false = true → Answers (.coreAccess w core [] (0x80000000 + a) n []) s (fun t =>
        t.dev.reply.bytes = (List.range n).map (fun k => kvD s.dev.cores.sram (a + k) 0) ∧ t.dev.cores.sram = s.dev.cores.sram ∧
        Keeps s t [] ∧ RaisesJust s t [])) ∧
    (∀ a n data, (a % 4 ≠ 0 ∨ (if data = [] then n else data.length) ≠ 4) →
      Answers (.coreAccess w core [] a n data) s (fun t =>
        bit t.dev.cores.accessFault.toNat core = true ∧ t.dev.cores.sram = s.dev.cores.sram ∧ Keeps s t [] ∧ RaisesJust s t []))

/-! ### Events -/

/-- R602, R603, R605, R608: an injected event is in EVT_RAW, in the pending bitmap of each core, of the host and of ALERT_N that its route names, and makes its
vector due where its host bit was 0; it is counted and, as the first event of its cycle, EVT_LAST names it and EVT_TOTAL counts it, which counts an event of one cycle once. A route written in the same cycle
does not act yet (R612). No other event is raised: it writes no sump record and is never fatal, and no other state changes. A Reserved
number sets INJ_ERR and raises nothing. -/
def Obligations.InjectedEventRouted : Prop :=
  ∀ s w req (v : Word) n, Ready s req → (s.dev.at w).oper req = true → bits v.toNat 0 8 = n →
    (evReserved n = false → Answers (.evtInject w req v) s (fun t =>
      t.dev.get R.EVT_INJ_CNT_COUNT = plus1 (s.dev.get R.EVT_INJ_CNT_COUNT) ∧
      ((s.dev.at w).thisCyc.evs = [] → t.dev.get R.EVT_LAST_EVENT = n ∧ t.dev.get R.EVT_TOTAL_COUNT = plus1 (s.dev.get R.EVT_TOTAL_COUNT)) ∧
      (n ∈ (s.dev.at w).thisCyc.evs → t.dev.get R.EVT_TOTAL_COUNT = s.dev.get R.EVT_TOTAL_COUNT) ∧
      (∀ c, c < 4 → pendBit t.dev (R.EVT_CPEND_BITS c) n = (pendBit s.dev (R.EVT_CPEND_BITS c) n || bit ((s.dev.at w).before (R.EVT_ROUTE_CORES n)) c)) ∧
      pendBit t.dev R.EVT_HPEND_BITS n = (pendBit s.dev R.EVT_HPEND_BITS n || (s.dev.at w).before (R.EVT_ROUTE_MSIX n) == 1) ∧
      pendBit t.dev R.EVT_APEND_BITS n = (pendBit s.dev R.EVT_APEND_BITS n || (s.dev.at w).before (R.EVT_ROUTE_ALERT n) == 1) ∧
      ((s.dev.at w).before (R.EVT_ROUTE_MSIX n) = 1 → pendBit s.dev R.EVT_HPEND_BITS n = false →
        (kvGet ((s.dev.at w).before (R.EVT_ROUTE_VEC n)) t.dev.msix.due).isSome = true) ∧
      (∀ k, k < 256 → Raised t k → Raised s k ∨ k = n) ∧
      (∀ f ∈ [R.SUMP_STAT_FAULT, R.SUMP_STAT_FROZEN, R.SUMP_STAT_CAUSE, R.SUMP_WP_IDX], t.dev.get f = s.dev.get f) ∧
      Leaves s t w [R.EVT_INJ_CNT_COUNT] [n] id)) ∧
    (evReserved n = true → Answers (.evtInject w req v) s (fun t =>
      t.dev.get R.EVT_STAT_INJ_ERR = 1 ∧ Leaves s t w [R.EVT_STAT_INJ_ERR] [] id ∧ (∀ k, k < 256 → Raised t k → Raised s k)))

/-- R616, R573, R572: a doorbell or the software event takes its value and raises its event; a doorbell of the other requester is denied and counted.
R605, R607: a due vector that nothing masks or holds back, with no lower one of its cycle before it, sends its table entry and is due no more; the
other vectors stay. A write of configuration space sets what R605 holds messages back for, and with sizes that the endpoint supports what R463 gives it beside. -/
def Obligations.DoorbellsAndMessages : Prop :=
  (∀ s w (v : Word),
     (Ready s .host → (s.dev.at w).oper .host = true → Answers (.hostDoorbell w .host v) s (fun t =>
       t.dev.get R.GLB_DB_H2F_MSG = v.toNat ∧ Leaves s t w [R.GLB_DB_H2F_MSG] [E.HOST_DOORBELL] id)) ∧
     (Ready s .fw → Answers (.fwDoorbell w .fw v) s (fun t =>
       t.dev.get R.GLB_DB_F2H_MSG = v.toNat ∧ Leaves s t w [R.GLB_DB_F2H_MSG] [E.FW_DOORBELL] id)) ∧
     (∀ req, Ready s req → (s.dev.at w).oper req = true → Answers (.swEvent w req v) s (fun t =>
       t.dev.get R.GLB_SW_EVT_CODE = v.toNat % 256 ∧ Leaves s t w [R.GLB_SW_EVT_CODE] [E.SW_EVENT] id)) ∧
     (∀ req, Ready s req → Answers (if req = .host then .fwDoorbell w req v else .hostDoorbell w req v) s (fun t =>
       t.dev.get (R.SEC_CNT_COUNT 0) = plus1 (s.dev.get (R.SEC_CNT_COUNT 0)) ∧ Leaves s t w [R.SEC_CNT_COUNT 0] [] id))) ∧
  (∀ s w, Running s →
     (∀ v, s.dev.sendable v = true → s.dev.lowerFirst v = false →
       Answers (.msixSend w v) s (fun t =>
         t.dev.reply.words = [BitVec.ofNat 32 (s.dev.get (R.PCIE_MSIX_LO_A v)), BitVec.ofNat 32 (s.dev.get (R.PCIE_MSIX_HI_A v)),
           BitVec.ofNat 32 (s.dev.get (R.PCIE_MSIX_DATA_D v))] ∧
         kvGet v t.dev.msix.due = none ∧ (∀ u, u ≠ v → kvGet u t.dev.msix.due = kvGet u s.dev.msix.due) ∧ Leaves s t w [] [] id)) ∧
     (∀ a b c mps mrrs l1, mps ∈ [128, 256, 512] → mrrs ∈ [128, 256, 512] → Answers (.pcieConfigWrite w a b ⟨c, mps, mrrs, l1⟩) s (fun t =>
       t.dev.msix = s.dev.msix ∧
         Leaves s t w [] [] (fun d => { d with pcie := { msixEn := a, funcMask := b, busMaster := c, mps := mps, mrrs := mrrs, aspmL1 := l1 } }))))

/-! ### Roles, keys and the audit trail -/

/-- R579: CHALLENGE gives the requester a challenge of random bits, shown in its SEC_CHAL; the other requester's bank stays. 60 s after its issue the challenge expires and is
outstanding no more. The bits themselves are a free value. R581, R599: a PRESENT keeps BUSY at 1 with the code of its checks in hand; one whose checks fail changes no OTP zone, no
session and no held key, and from the fifth check on the challenge is spent. R582: a token that passes its checks for an operator session opens it for its duration; one for
WRITE_OTP has its zone and content noted, and no zone is written yet. -/
def Obligations.ChallengesAndTokens : Prop :=
  (∀ s w req,
     (Ready s req → (s.dev.at w).busy C.sec = false → Answers (.challenge w req) s (fun t =>
       ∃ c, (t.dev.secBank req).chal = some c ∧
         Leaves s t w [] [E.SEC_CMD_DONE]
           (fun d => { d.setSecBank req { d.secBank req with chal := some c, chalUs := d.rst.xoUs, chalReg := c } with free := d.free + 1 }))) ∧
     (Running s → (s.dev.at w).chalOver req = true → Answers (.challengeExpire w req) s (fun t =>
       Leaves s t w [] [] (fun d => d.setSecBank req { d.secBank req with chal := none })))) ∧
  ((∀ s w req tk a code used, Ready s req → (s.dev.at w).busy C.sec = false → (s.dev.secBank req).token.toNat = tk → (s.dev.secBank req).arg.toNat = a →
      (s.dev.at w).tkCheck s.otp req tk a = (code, used) → code ≠ 0 →
      Answers (.present w req) s (fun t =>
        t.dev.get R.SEC_CMD_BUSY = 1 ∧ t.dev.sec.pres.map PresentRt.code = some code ∧ t.dev.sec.pres.map PresentRt.req = some req ∧ t.otp = s.otp ∧
        Leaves s t w [R.SEC_CMD_BUSY] [] (fun d =>
          let d := if used then d.dropChal req else d
          { d with sec := { d.sec with pres := t.dev.sec.pres } }))) ∧
   (∀ s w req tk, Ready s req → (s.dev.at w).busy C.sec = false → (s.dev.secBank req).token.toNat = tk →
      ((s.dev.at w).tkCheck s.otp req tk (s.dev.secBank req).arg.toNat).1 = 0 →
      (tkAction tk = 1 → Answers (.present w req) s (fun t =>
        t.dev.sec.sessEnd = some (t.dev.rst.xoUs + tkDuration tk * 10 ^ 6) ∧ t.dev.sessOpen = true ∧ t.dev.get R.SEC_CMD_BUSY = 1 ∧
        t.dev.sec.pres.map PresentRt.code = some 0 ∧ t.otp = s.otp)) ∧
      (tkAction tk = 2 → Answers (.present w req) s (fun t =>
        t.dev.get R.SEC_CMD_BUSY = 1 ∧
        (t.dev.sec.otpWr.map (fun x => (x.req, x.zone, x.data))) =
          some (req, argZone (s.dev.secBank req).arg.toNat, BitVec.ofNat 512 (argData (s.dev.secBank req).arg.toNat)) ∧
        s.otp.zones.getD (argZone (s.dev.secBank req).arg.toNat) 0 = 0 ∧ Keeps s t [R.SEC_CMD_BUSY] ∧ RaisesJust s t []))))

/-- R583, R587: an OTP write that reads back right leaves the zone with its content, no other zone changes, and OTP_WRITTEN fires; an attestation that
completes shows its report to its requester and leaves the OTP alone. R581: a PRESENT that completes sets TOK_RESULT to its code; one that passed counts a pass and TOKEN_OK fires, one
that was refused counts a failure, sets ERR with ERR_CODE 4, and TOKEN_FAIL fires. BUSY returns to 0. R573, R576, R587: KEY_LOAD by FW of a key that matches the
active hash of its role holds it, one that matches none is refused and counted; ATTEST by a requester with operator rights keeps BUSY at 1 with the
report in hand: the layout of R587 with the state of that cycle and the requester's nonce, and its signature. -/
def Obligations.SecurityCommands : Prop :=
  (∀ s w, Running s →
     (∀ x, s.dev.sec.attest = none → s.dev.sec.otpWr = some x → x.zone < s.otp.zones.length →
       Answers (.secCmdDone w true) s (fun t =>
         t.otp.zones[x.zone]? = some x.data ∧ (∀ z, z ≠ x.zone → t.otp.zones[z]? = s.otp.zones[z]?) ∧ t.otp.cut = s.otp.cut ∧
         t.dev.sec.otpWr = none ∧ t.dev.get R.SEC_CMD_BUSY = 0 ∧ Raised t E.OTP_WRITTEN ∧ Raised t E.TOKEN_OK)) ∧
     (∀ ok p, s.dev.sec.attest = none → s.dev.sec.otpWr = none → s.dev.sec.pres = some p →
       Answers (.secCmdDone w ok) s (fun t =>
         (t.dev.secBank p.req).tok = BitVec.ofNat 4 p.code ∧ t.dev.get R.SEC_CMD_BUSY = 0 ∧ t.dev.sec.pres = none ∧ t.dev.sec.seq = s.dev.sec.seq + 1 ∧ t.otp = s.otp ∧
         (p.code = 0 → t.dev.get (R.SEC_CNT_COUNT 2) = plus1 (s.dev.get (R.SEC_CNT_COUNT 2)) ∧ Raised t E.TOKEN_OK ∧ Raised t E.SEC_CMD_DONE ∧
           Keeps s t [R.SEC_CMD_BUSY, R.SEC_CNT_COUNT 2, R.SEC_AUD_STAT_LOST]) ∧
         (p.code ≠ 0 → t.dev.get (R.SEC_CNT_COUNT 1) = plus1 (s.dev.get (R.SEC_CNT_COUNT 1)) ∧ t.dev.get R.SEC_CMD_ERR = 1 ∧
           t.dev.get R.SEC_CMD_ERR_CODE = 4 ∧ Raised t E.TOKEN_FAIL ∧
           Keeps s t [R.SEC_CMD_BUSY, R.SEC_CNT_COUNT 1, R.SEC_CMD_ERR, R.SEC_CMD_ERR_CODE, R.SEC_AUD_STAT_LOST]))) ∧
     (∀ ok req r, s.dev.sec.attest = some (req, r) →
       Answers (.secCmdDone w ok) s (fun t =>
         (t.dev.secBank req).report = r ∧ t.dev.get R.SEC_CMD_BUSY = 0 ∧
         Leaves s t w [R.SEC_CMD_BUSY] [E.ATTEST_DONE, E.SEC_CMD_DONE] (fun d =>
           { d with sec := { d.sec with attest := none } }.setSecBank req { d.secBank req with report := r })))) ∧
  (∀ s w, Open s w .fw C.sec .fwOnly →
     (∀ pub h, pub = BitVec.ofNat 768 (beReg 96 s.dev.sec.fw.key.toNat) → s.dev.audFree = true → s.dev.get R.SEC_IDX_ROLE = 2 →
       s.dev.instHash = some h →
       (keyHash pub = h → Answers (.keyLoad w .fw) s (fun t =>
         t.dev.sec.heldInst = some pub ∧ t.dev.sec.heldMaker = s.dev.sec.heldMaker ∧ Raised t E.KEY_LOADED ∧ Raised t E.SEC_CMD_DONE)) ∧
       (keyHash pub ≠ h → Answers (.keyLoad w .fw) s (fun t =>
         t.dev.get (R.SEC_CNT_COUNT 3) = plus1 (s.dev.get (R.SEC_CNT_COUNT 3)) ∧ t.dev.get R.SEC_CMD_ERR_CODE = 2 ∧
         Leaves s t w [R.SEC_CNT_COUNT 3, R.SEC_CMD_ERR, R.SEC_CMD_ERR_CODE] [E.SEC_CMD_ERR] id))) ∧
     (∀ req, Open s w req C.sec .oper → s.dev.sec.idOk = true → Answers (.attest w req) s (fun t =>
       t.dev.get R.SEC_CMD_BUSY = 1 ∧ Keeps s t [R.SEC_CMD_BUSY] ∧ RaisesJust s t [] ∧
       ∀ body, body = (s.dev.at w).reportBody (s.dev.secBank req).nonce →
         t.dev.sec.attest = some (req, BitVec.ofNat 3456 (leNat (body ++ ((s.dev.at w).signed body).1))))))

/-- R582: SESSION_END ends a session that is open, and the passing of DURATION_S ends it: SESSION_END fires and a record is appended. R591: a read of
SEC_AUD_D[0] removes the oldest audit record and shows its first word; of an empty queue it gives zero. -/
def Obligations.SessionAndAudit : Prop :=
  (∀ s w req c, c = .sessionEnd w req ∧ (s.dev.at w).sessOpen = true ∧ Open s w req C.sec .none ∨
      c = .sessionExpire w ∧ s.dev.sec.sessEnd.isSome = true ∧ (s.dev.at w).sessOpen = false ∧ Running s →
     Answers c s (fun t => t.dev.sec.sessEnd = none ∧ Raised t E.SESSION_END ∧ t.dev.sec.seq = s.dev.sec.seq + 1 ∧
       t.otp = s.otp ∧ Keeps s t [R.SEC_AUD_STAT_LOST])) ∧
  (∀ s w req, Ready s req →
     (∀ r q, s.dev.sec.audQ = r :: q → Answers (.auditPop w req) s (fun t =>
       t.dev.reply.words = [BitVec.ofNat 32 (leNat (r.take 4))] ∧
       Leaves s t w [] [] (fun d => { d with sec := { d.sec with audQ := q, audLatch := r } }))) ∧
     (s.dev.sec.audQ = [] → Answers (.auditPop w req) s (fun t =>
       t.dev.reply.words = [0] ∧ Leaves s t w [] [] (fun d => { d with sec := { d.sec with audLatch := [] } }))))

/-- R595 to R597, R600: while the completion of a command is not itself fatal, THAW of a frozen log makes it a ring again and FAULT_CLR clears FAULT; FREEZE freezes a log that
is not frozen, with cause 5 and the index of its record in FREEZE_IDX; what the same cycle has written in the log before comes otherwise (R598). The read of a record gives its four words and moves SUMP_RD_IDX on. -/
def Obligations.SumpCommands : Prop :=
  ∀ s w req,
    (Open s w req C.sump .oper →
      (s.dev.flag R.SUMP_STAT_FROZEN = true → Answers (.thaw w req) s (fun t =>
        (bit (s.dev.get (R.SUMP_FATAL_MASK 0)) E.SEC_CMD_DONE = false → LogFresh s w → t.dev.get R.SUMP_STAT_FROZEN = 0 ∧ t.dev.get R.SUMP_STAT_CAUSE = 0) ∧
        Raised t E.SEC_CMD_DONE ∧ Keeps s t [] ∧ Still s t w)) ∧
      (s.dev.get R.SUMP_STAT_FROZEN = 0 → Answers (.freeze w req) s (fun t =>
        (LogFresh s w → bit (s.dev.get (R.SUMP_FATAL_MASK 0)) E.SEC_CMD_DONE = false →
          t.dev.get R.SUMP_STAT_FROZEN = 1 ∧ t.dev.get R.SUMP_STAT_CAUSE = 5 ∧ t.dev.get R.SUMP_FREEZE_IDX = s.dev.get R.SUMP_WP_IDX % 4096) ∧ Raised t E.SUMP_FROZEN ∧ Raised t E.SEC_CMD_DONE ∧ Keeps s t [] ∧ Still s t w)) ∧
      Answers (.faultClr w req) s (fun t =>
        (bit (s.dev.get (R.SUMP_FATAL_MASK 0)) E.SEC_CMD_DONE = false → t.dev.get R.SUMP_STAT_FAULT = 0) ∧ Raised t E.SEC_CMD_DONE ∧ Keeps s t [] ∧ Still s t w)) ∧
    (Ready s req → Answers (.sumpRecordRead w req) s (fun t =>
      t.dev.reply.words = (List.range 4).map (fun k => BitVec.ofNat 32 (bits s.dev.sumpCur (32 * k) 32)) ∧
      t.dev.get R.SUMP_RD_IDX_IDX = (s.dev.get R.SUMP_RD_IDX_IDX + 1) % 4096 ∧ Leaves s t w [R.SUMP_RD_IDX_IDX] [] id))

/-! ### Time -/

/-- R394, R396, R425, R428: SET, STEP, FREQ and ADJ with arguments in range wait for the next adjustment point, in the order written, and the clock is as
before; in VERIFY the last three are refused with code 4. -/
def Obligations.ClockCommandsWait : Prop :=
  ∀ s w req, Open s w req C.time .oper →
    (s.dev.targ 0 < 10 ^ 9 → Answers (.timeSet w req) s (fun t => Leaves s t w [] [E.TIME_CMD_DONE] (fun d => d.clkQueue (.set
      ((((s.dev.targ 1 + bits (s.dev.targ 2) 0 16 * 2 ^ 32) * 10 ^ 9 + s.dev.targ 0) * 2 ^ 16 + bits (s.dev.targ 2) 16 16) * 2 ^ 32))))) ∧
    (s.dev.tim.saVer = none →
      Answers (.timeStep w req) s (fun t => Leaves s t w [] [E.TIME_CMD_DONE] (fun d => d.clkQueue (.step s.dev.targDelta))) ∧
      Answers (.timeAdj w req) s (fun t => Leaves s t w [] [E.TIME_CMD_DONE] (fun d => d.clkQueue (.adj s.dev.targDelta))) ∧
      (∀ f, f = signedOf 38 (s.dev.targ 0 + bits (s.dev.targ 1) 0 6 * 2 ^ 32) → -(2 ^ 37) ≤ f → f ≤ 2 ^ 37 →
        Answers (.timeFreq w req) s (fun t => Leaves s t w [] [E.TIME_CMD_DONE] (fun d => d.clkQueue (.freq f))))) ∧
    (s.dev.tim.saVer.isSome = true → ∀ c ∈ [Instr.timeStep w req, Instr.timeFreq w req, Instr.timeAdj w req],
      Answers c s (fun t => t.dev.get R.TIME_CMD_ERR = 1 ∧ t.dev.get R.TIME_CMD_ERR_CODE = 4 ∧
        Leaves s t w [R.TIME_CMD_ERR, R.TIME_CMD_ERR_CODE] [E.TIME_CMD_ERR] id))

/-- R397, R418, R425, R430: MODE while VALID is 1 waits, with MODE_PEND; DCO_MODE 0 brings the DCO to TIME_DCO_FREQ, unlocked; SA_RESET clears the
servo assist; a write of TIME_DCO_FREQ_HI commits the pair. R422 to R424: in TRACK a measurement near the filtered offset, or whose delay has not
moved with it, is taken into the filter by 1/16 of its distance; one that has stepped with its delay enters VERIFY, counts in TIME_CNT[5] and fires
PATH_STEP. The correction is that of R422. -/
def Obligations.ModeAndServo : Prop :=
  (∀ s w req, Ready s req → (s.dev.at w).oper req = true →
     ((s.dev.at w).busy C.time = false →
       (s.dev.clkValid = true → Answers (.timeMode w req) s (fun t =>
         t.dev.get R.TIME_CTL_MODE_PEND = 1 ∧
         Leaves s t w [R.TIME_CTL_MODE_PEND] [E.TIME_CMD_DONE] (fun d => d.onTim (fun x => { x with modePend := some (bit (s.dev.targ 0) 0) })))) ∧
       (∀ ho, bits (s.dev.targ 0) 0 2 = 0 → bits (s.dev.targ 0) 8 10 = ho → 1 ≤ ho → ho ≤ 1000 → Answers (.dcoMode w req) s (fun t =>
         t.dev.get R.TIME_DCO_CTL_MODE = 0 ∧ t.dev.get R.TIME_DCO_STAT_LOCKED = 0 ∧ t.dev.get R.TIME_DCO_STAT_ON_ALT = 0 ∧
         t.dev.get R.TIME_DCO_CTL_SEL = bits (s.dev.targ 0) 2 6 ∧
         Leaves s t w [R.TIME_DCO_CTL_MODE, R.TIME_DCO_STAT_LOCKED, R.TIME_DCO_STAT_ON_ALT, R.TIME_DCO_CTL_SEL] [E.TIME_CMD_DONE]
           (fun d => d.onTim (fun x => { x with hoAvg := ho, holdAuto := false, dHold := none, phiGood := none, dcoD := dcoClamp (x.dcoF + s.dev.org.steer) })))) ∧
       Answers (.saReset w req) s (fun t =>
         (∀ p, p < 4 → t.dev.get (R.TIME_SA_EST_EST p) = 0) ∧ t.dev.get R.TIME_SA_STAT_VERIFY = 0 ∧
         Leaves s t w (R.TIME_SA_STAT_VERIFY :: R.TIME_SA_STAT_PATH :: (List.range 4).map R.TIME_SA_EST_EST) [E.TIME_CMD_DONE] (fun d => d.onTim Tim.track))) ∧
     (∀ v : Word, Answers (.dcoFreqCommit w req v) s (fun t =>
       t.dev.get R.TIME_DCO_FREQ_HI_D = v.toNat % 64 ∧
       ∀ f, f = dcoClamp (signedOf 38 (s.dev.get R.TIME_DCO_FREQ_LO_D + v.toNat % 64 * 2 ^ 32)) →
         Leaves s t w [R.TIME_DCO_FREQ_HI_D] [] (fun d => d.onTim (fun x => { x with
           dcoF := f, dcoD := if s.dev.get R.TIME_DCO_CTL_MODE = 0 then dcoClamp (f + s.dev.org.steer) else x.dcoD }))))) ∧
  (∀ s w req p oc dd fo fd, Open s w req C.time .oper → s.dev.tim.saVer = none → p = bits (s.dev.targ 2) 0 2 → oc = s.dev.saCorrect p (signedOf 32 (s.dev.targ 0)) * 4096 →
     dd = (s.dev.targ 1 * 4096 : Int) → kvGet p s.dev.tim.saFilt = some (fo, fd) →
     (near oc fo (s.dev.stepThr * 65536) = true ∨ 4 * (dd - fd).natAbs ≤ s.dev.stepThr * 65536 →
       Answers (.saMeas w req) s (fun t => Leaves s t w [] [E.TIME_CMD_DONE] (fun d => d.onTim (fun x =>
         { x with saFilt := kvSet p (fo + (oc - fo).tdiv 16, fd + (dd - fd).tdiv 16) x.saFilt })))) ∧
     (near oc fo (s.dev.stepThr * 65536) = false → s.dev.stepThr * 65536 < 4 * (dd - fd).natAbs →
       Answers (.saMeas w req) s (fun t =>
         t.dev.get R.TIME_SA_STAT_VERIFY = 1 ∧ t.dev.get R.TIME_SA_STAT_PATH = p ∧ t.dev.get (R.TIME_CNT_COUNT 5) = plus1 (s.dev.get (R.TIME_CNT_COUNT 5)) ∧
         t.dev.tim.s = 0 ∧ t.dev.tim.saFilt = s.dev.tim.saFilt ∧
         Keeps s t [R.TIME_SA_STAT_VERIFY, R.TIME_SA_STAT_PATH, R.TIME_CNT_COUNT 5] ∧ RaisesJust s t [E.PATH_STEP, E.TIME_CMD_DONE])))

/-- R407, R427, R428: ARM of a VALID unit with arguments in range, for a time to come, arms it, and an action due in the stroke that runs is
handed over at once (R410); DISARM ends that; READ shows the unit's descriptor.
R407 to R409: an armed unit whose TIME the clock has reached, with VALID 1, fires: TRIG_FIRED, TIME_CNT[0], and a single shot is armed no more while a
repeating one moves on by its period, unless a command that waits disarms it in the same cycle (R427). A PIN unit starts its pulse, which its end stops once it has stood for its width. -/
def Obligations.TriggerUnits : Prop :=
  (∀ s w req i, Ready s req → (s.dev.at w).busy C.time = false → s.dev.get R.TIME_IDX_IDX = i → (s.dev.obj S.TRIGGERS i).isSome = true →
     ((s.dev.at w).oper req = true →
       (∀ r : TrigRt, r = { armed := true, ns := BitVec.ofNat 32 (s.dev.targ 0), period := BitVec.ofNat 32 (s.dev.targ 3), lateWin := BitVec.ofNat 30 (s.dev.targ 4), sec := BitVec.ofNat 48 (s.dev.targ 1 + bits (s.dev.targ 2) 0 16 * 2 ^ 32) } →
         (s.dev.targ 3 = 0 ∨ 100 ≤ s.dev.targ 3 ∧ (gTarget (s.dev.objD S.TRIGGERS i) = 1 → gPwNs (s.dev.objD S.TRIGGERS i) + 4 < s.dev.targ 3)) →
         s.dev.targ 0 < 10 ^ 9 → s.dev.targ 4 ≤ 10 ^ 9 → (s.dev.at w).now48 < r.time * 2 ^ 48 →
         Answers (.arm w req) s (fun t => Leaves s t w [] [E.TIME_CMD_DONE] (fun d => ((d.unhand i).setTrig i r).handUnit i))) ∧
       Answers (.disarm w req) s (fun t => Leaves s t w [] [E.TIME_CMD_DONE] (fun d => (d.unhand i).setTrig i { d.trig i with armed := false }))) ∧
     Answers (.trigRead w req) s (fun t =>
       (∀ k, k < 8 → t.dev.get (R.TIME_DATA_D k) = bits (s.dev.trigDesc i) (32 * k) 32) ∧ Leaves s t w ((List.range 8).map R.TIME_DATA_D) [E.TIME_CMD_DONE] id)) ∧
  (∀ s w i, Running s →
     ((s.dev.trig i).armed = true → s.dev.clkValid = true → (s.dev.obj S.TRIGGERS i).isSome = true → gTarget (s.dev.objD S.TRIGGERS i) = 1 →
       (s.dev.trig i).time * 2 ^ 48 ≤ (s.dev.at w).now48 → (s.dev.at w).disarmed w i s.pending = false →
       Answers (.triggerFire w i) s (fun t =>
         t.dev.trig i = (s.dev.trig i).next ∧ t.dev.get (R.TIME_CNT_COUNT 0) = plus1 (s.dev.get (R.TIME_CNT_COUNT 0)) ∧
         Leaves s t w [R.TIME_CNT_COUNT 0] [E.TRIG_FIRED] (fun d => (d.pulseStart i).setTrig i (d.trig i).next))) ∧
     Answers (.pinPulseEnd w i) s (fun t =>
       (∀ y ∈ t.dev.tim.pulses, y.1 = i → (s.dev.at w).xoNs < y.2.since + y.2.width) ∧
       Leaves s t w [] [] (fun d => d.onTim (fun x => { x with pulses := x.pulses.filter (fun y => y.1 != i || decide (d.xoNs < y.2.since + y.2.width)) }))))

/-- R398, R430: a read of TIME_NOW0 gives the ns of the house time of one instant and latches its other parts for the reads of TIME_NOW1 and
TIME_NOW2; TIME_RAW_LO and TIME_PPS_TS0 latch likewise. R405, R412: a pop of a return queue or of a capture queue into which nothing comes in the same cycle gives its
oldest entry and removes it. An edge that a capture unit takes, on a powered bank, with room in its queue and 20 ns after the last, joins its queue with the house time of its instant, and CAP_READY
fires where the queue was empty. -/
def Obligations.TimeReadsAndStamps : Prop :=
  (∀ s w req x, Ready s req → x = stampOf (s.dev.at w).now48 →
     Answers (.timeNowRead w req) s (fun t =>
       t.dev.reply.words = [x.ns] ∧ Keeps s t [] ∧ RaisesJust s t [] ∧
       ∀ u w', u.dev.tim.nowLatch1 = t.dev.tim.nowLatch1 → u.dev.tim.nowLatch2 = t.dev.tim.nowLatch2 → Ready u req →
         Answers (.rcRead w' req 0x02200044) u (fun v => v.dev.reply.words = [BitVec.ofNat 32 x.sec.toNat] ∧ v.dev.tim.nowLatch1 = none) ∧
         Answers (.rcRead w' req 0x02200048) u (fun v =>
           v.dev.reply.words = [BitVec.ofNat 32 (x.sec.toNat / 2 ^ 32 + x.sub.toNat * 2 ^ 16)] ∧ v.dev.tim.nowLatch2 = none)) ∧
     Answers (.timeRawRead w req) s (fun t =>
       t.dev.reply.words = [BitVec.ofNat 32 (s.dev.at w).tim.c.toNat] ∧
       Leaves s t w [] [] (fun d => d.onTim (fun x => { x with rawLatch := some (BitVec.ofNat 32 (x.c.toNat / 2 ^ 32)) }))) ∧
     Answers (.ppsTsRead w req) s (fun t =>
       t.dev.reply.words = [BitVec.ofNat 32 (s.dev.get R.TIME_PPS_TS0_NS)] ∧
       Leaves s t w [] [] (fun d => d.onTim (fun x => { x with
         ppsLatch1 := some (BitVec.ofNat 32 (s.dev.get R.TIME_PPS_TS1_SEC)),
         ppsLatch2 := some (BitVec.ofNat 32 (s.dev.get R.TIME_PPS_TS2_SEC + s.dev.get R.TIME_PPS_TS2_STALE * 2 ^ 16)) })))) ∧
  (∀ s w, 
     (∀ req p e r, Ready s req → p < 4 → s.dev.tsq p = e :: r → kvGet p s.dev.tim.tsqAt ≠ some (s.dev.at w).stamp → Answers (.tsqPop w req p) s (fun t =>
       t.dev.reply.words = [BitVec.ofNat 32 e.toNat] ∧
       Leaves s t w [] [] (fun d => d.onTim (fun x => { x with tsq := kvSet p r x.tsq, tsqLatch := kvSet p e x.tsqLatch })))) ∧
     (∀ req k e r, Ready s req → s.dev.get R.TIME_CAP_SEL_UNIT = k → kvD s.dev.tim.caps k [] = e :: r → kvGet k s.dev.tim.capAt ≠ some (s.dev.at w).stamp → Answers (.capPop w req) s (fun t =>
       t.dev.reply.words = [BitVec.ofNat 32 e.toNat] ∧
       Leaves s t w [] [] (fun d => d.onTim (fun x => { x with caps := kvSet k r x.caps, capLatch := e })))) ∧
     (∀ b k rising ns sub, Running s → s.dev.img.active = some b → bit s.dev.rst.banks.toNat 2 = true → k < 16 →
       (if rising = true then (Config.capture b.hash k).1 else (Config.capture b.hash k).2.1) = true →
       ((Config.capture b.hash k).2.2 = 0 ∨ (Config.capture b.hash k).2.2 ≤ ns) →
       (∀ l, kvGet k s.dev.tim.capLast = some l → l + 80 ≤ 4 * (s.dev.at w).xoNs + sub) → (kvD s.dev.tim.caps k []).length < 16 →
       Answers (.captureEdge w k rising ns sub) s (fun t =>
         kvD t.dev.tim.caps k [] = kvD s.dev.tim.caps k [] ++ [tsEntry (quarter ((s.dev.at w).readAt sub)) (k + 16 * b2n rising) 0 false] ∧
         (∀ j, j ≠ k → kvD t.dev.tim.caps j [] = kvD s.dev.tim.caps j []) ∧
         Keeps s t [] ∧ RaisesJust s t (if kvD s.dev.tim.caps k [] = [] then [E.CAP_READY] else []))))

/-- R391, R413, R414, R416, R417: an edge of the DCO feedback leaves its phase, which counts in the mean of its microsecond; an edge of REF10M_IN or WCLK_IN on a powered bank, in the window that runs,
leaves its phase and counts in its window (in a calibration window that covers the TDC the phase before stays, R414); a reference that has met its tolerance for QUAL_S while VALID is 1 sets its bit and
fires REF_QUAL, one that has had no edge for its time while the DCO does not follow it clears it and fires REF_LOST, and the chains that it feeds
see their source gone (R195); a loop whose phase has stayed below 10 ns for 10 s sets LOCKED and fires DCO_LOCKED.
R391, R396: when the tick PLL loses lock VALID returns to 0, XO_FAIL is set and fires, no reference stays qualified and the clock stands still; when
it is locked the clock runs on from there, and adjustment points count from its tick (R395). -/
def Obligations.ReferencesAndPll : Prop :=
  (∀ s w i, Running s →
     (∀ e sub width u, e = (s.dev.at w).now48 / 2 ^ 44 + sub → s.dev.flag R.STK_STAT_RUNNING = true → kvGet 3 s.dev.tim.tdc = some u →
       u.nowWords.length = w.cc / 1250 →
       Answers (.refEdge w 3 sub width) s (fun t => Leaves s t w [] [] (fun d => d.onTim (fun x => { x with
         phi := if s.dev.calCovers 5 then x.phi else kvSet 3 (s.dev.refPhase 3 e) x.phi,
         lastEdge := kvSet 3 e x.lastEdge, edgeXo := kvSet 3 d.xoNs x.edgeXo,
         tdc := kvSet 3 { u with sum := u.sum + s.dev.refPhase 3 e, n := u.n + 1 } x.tdc })))) ∧
     (∀ e sub width u n whole l, e = (s.dev.at w).now48 / 2 ^ 44 + sub → bit s.dev.rst.banks.toNat 2 = true → 0 < i → i < 3 → s.dev.get R.TIME_DCO_CTL_MODE ≠ 1 → s.dev.flag R.STK_STAT_RUNNING = true → kvGet i s.dev.tim.tdc = some u →
       u.nowWords.length = w.cc / 1250 → kvGet i s.dev.tim.refWin = some (e / 16000000, n, whole) → kvGet i s.dev.tim.lastEdge = some l → l ≤ e →
       (e - l) * s.dev.refRate i ≤ 16 * 10 ^ 9 →
       Answers (.refEdge w i sub width) s (fun t => Leaves s t w [] [] (fun d => d.onTim (fun x => { x with
         phi := if s.dev.calCovers 5 then x.phi else kvSet i (s.dev.refPhase i e) x.phi,
         lastEdge := kvSet i e x.lastEdge, edgeXo := kvSet i d.xoNs x.edgeXo, refWin := kvSet i (e / 16000000, n + 1, whole) x.refWin,
         tdc := kvSet i { u with sum := u.sum + s.dev.refPhase i e, n := u.n + 1 } x.tdc })))) ∧
     (i < 3 → s.dev.refOk i = false → s.dev.clkValid = true → s.dev.refReady i = true → s.dev.tim.holdAuto = false →
       Answers (.refQual w i) s (fun t => t.dev.refOk i = true ∧ Leaves s t w [R.TIME_REF_STAT_QUAL] [E.REF_QUAL] (fun d => d.tdcTo i d.tdcUs))) ∧
     (s.dev.refOk i = true → (s.dev.at w).refMissing i = true → s.dev.get R.TIME_DCO_CTL_MODE ≠ 1 →
       Answers (.refLost w i) s (fun t => t.dev.refOk i = false ∧ (∀ j, j ≠ i → t.dev.refOk j = s.dev.refOk j) ∧
         Leaves s t w [R.TIME_REF_STAT_QUAL] [E.REF_LOST] (fun d =>
           let d := (d.tdcTo i d.tdcUs).onTim (fun x => { x with refGood := kvSet i 0 x.refGood })
           let d := (d.set R.TIME_REF_STAT_QUAL (setBits (d.get R.TIME_REF_STAT_QUAL) i 1 0)).chainsWatch
           if i = 0 then d.onTim (fun x => { x with ppsGood := 0 }) else d))) ∧
     (s.dev.rst.kaUp = true → s.dev.get R.TIME_DCO_CTL_MODE = 1 → s.dev.flag R.TIME_DCO_STAT_LOCKED = false →
       s.dev.tim.phiGood.any (fun t => decide (t + 10 ^ 10 ≤ (s.dev.at w).xoNs)) = true →
       Answers (.dcoLocked w) s (fun t => t.dev.get R.TIME_DCO_STAT_LOCKED = 1 ∧
         Leaves s t w [R.TIME_DCO_STAT_LOCKED] [E.DCO_LOCKED] (fun d => d.onTim (fun x => { x with dHold := none }))))) ∧
  (∀ s w, Running s → s.dev.rst.kaUp = true →
     (s.dev.tim.locked = true → Answers (.xoFail w) s (fun t =>
       t.dev.get R.TIME_STAT_VALID = 0 ∧ t.dev.get R.TIME_STAT_XO_FAIL = 1 ∧ t.dev.tim.locked = false ∧ (∀ i, t.dev.refOk i = false) ∧
       t.dev.tim.c = (s.dev.at w).tim.c ∧ t.dev.tim.t = (s.dev.at w).tim.t ∧ Raised t E.XO_FAIL ∧
       ∀ n free, (t.dev.tim.tick free n) = t.dev.tim)) ∧
     (s.dev.tim.locked = false → s.dev.rst.unitBad.contains .tick = false → Answers (.tickPllLock w) s (fun t =>
       Leaves s t w [] [] (fun d => d.onTim (fun x => { x with locked := true, lockC := x.c })))))

/-! ### Cisterns -/

/-- R161 to R163, R178: CIS_CMD READ and STATS show the cistern's descriptor and counters; FLUSH, RESIZE, SET_DELAY and STOP with arguments in range
wait for the stroke boundary; START of a stopped cistern fills it; SET_PT, SET_OFFSET and SET_REF take effect. R156, R160: a playing cistern that has
had no packet for GONE_TIMEOUT strokes is GONE and fires SRC_GONE; a leg likewise is down, and LEG_DOWN fires. -/
def Obligations.Cisterns : Prop :=
  (∀ s w req n o a, Ready s req → (s.dev.at w).busy C.cis = false → s.dev.get R.CIS_IDX_IDX = n → s.dev.obj S.CISTERNS n = some o → s.dev.get R.CIS_ARG_ARG = a →
     Answers (.cisRead w req) s (fun t =>
       (∀ k, k < 16 → t.dev.get (R.CIS_DATA_D k) = bits (s.dev.cisDesc n) (32 * k) 32) ∧ Leaves s t w ((List.range 16).map R.CIS_DATA_D) [] id) ∧
     Answers (.cisStats w req) s (fun t =>
       (∀ k, k < 16 → t.dev.get (R.CIS_DATA_D k) = (s.dev.cistern n).stats.getD k 0 % 2 ^ 32) ∧ Leaves s t w ((List.range 16).map R.CIS_DATA_D) [] id) ∧
     ((s.dev.at w).oper req = true → s.dev.isolated .cis = false → ∀ c f, (c, f) ∈ [
         (Instr.cisFlush w req, fun x : CisRt => { x with flushPend := true }),
         (.cisStop w req, fun x => { x with stopPend := true }),
         (.setPt w req, fun x => { x with pts := BitVec.ofNat 32 a }),
         (.setOffset w req, fun x => { x with tsOfs := BitVec.ofNat 32 a }),
         (.setRef w req, fun x => { x with refLeg := bit a 0 })] ++
         (if 1 ≤ a ∧ a ≤ cSlotsMax o then [(Instr.cisResize w req, fun x : CisRt => { x with resizePend := some a })] else []) ++
         (if 1 ≤ a ∧ a ≤ 8000 ∧ (cAdapt o = true → cDelayMin o ≤ a ∧ a ≤ cDelayMax o) then
           [(Instr.setDelay w req, fun x : CisRt => { x with delayPend := some a })] else []) ++
         (if (s.dev.cistern n).st = 0 then [(Instr.cisStart w req, fun x : CisRt => { x with st := 1 })] else []) →
       Answers c s (fun t => Leaves s t w [] [] (fun d => d.setCis n (f (d.cistern n)))))) ∧
  (∀ s w n, Running s → s.dev.isolated .cis = false →
     (∀ x, (s.dev.cistern n).st = 2 → (s.dev.cistern n).lastAt = some x → x + cGone (s.dev.objD S.CISTERNS n) * 156250 < (s.dev.at w).absCc →
       Answers (.cisGoneTimeout w n) s (fun t =>
         t.dev.get R.CIS_LAST_IDX = n % 2 ^ R.CIS_LAST_IDX.width ∧
         Leaves s t w [R.CIS_LAST_IDX] [E.SRC_GONE] (fun d => d.setCis n { d.cistern n with st := 3 }))) ∧
     (∀ legB, cDual (s.dev.objD S.CISTERNS n) = true → (s.dev.cistern n).up legB = true →
       (∀ x, (if legB then (s.dev.cistern n).legAt.2 else (s.dev.cistern n).legAt.1) = some x →
         x + cGone (s.dev.objD S.CISTERNS n) * 156250 ≤ (s.dev.at w).absCc) →
       Answers (.legTimeout w n legB) s (fun t =>
         (t.dev.cistern n).up legB = false ∧ (∀ m, m ≠ n → t.dev.cistern m = s.dev.cistern m) ∧ Keeps s t [] ∧ RaisesJust s t [E.LEG_DOWN])))

/-! ### Packets -/

/-- R132, R133, R138, R176: READ and READ of a local address show an entry; INSERT of a new key puts its entry, and the tail of an IPv6 key, into the first free way
of its bucket; LOOKUP finds an entry; DELETE clears an entry with its tail; REPLACE changes the fields behind the key alone. The IDX register and the
entries not named stay. -/
def Obligations.FlowStoreCommands : Prop :=
  ∀ s w req i x e, Ready s req → (s.dev.at w).busy C.fs = false → s.dev.get R.PKT_FS_IDX_IDX = i → s.dev.fsData = x → e = x % 2 ^ 144 →
    Answers (.fsRead w req) s (fun t =>
      (∀ k, k < 9 → t.dev.get (R.PKT_FS_DATA_D k) = bits (s.dev.flow i + s.dev.flow (i + 1) * 2 ^ 144) (32 * k) 32) ∧
      Leaves s t w ((List.range 9).map R.PKT_FS_DATA_D) [E.FS_CMD_DONE] id) ∧
    (∀ b, s.dev.obj S.LADDR i = some b → Answers (.fsReadLaddr w req) s (fun t =>
      (∀ k, k < 9 → t.dev.get (R.PKT_FS_DATA_D k) = bits b (32 * k) 32) ∧ Leaves s t w ((List.range 9).map R.PKT_FS_DATA_D) [E.FS_CMD_DONE] id)) ∧
    ((s.dev.at w).oper req = true → s.dev.isolated .pkt = false →
      (∀ k wy, flowKey e (x / 2 ^ 144) = some k → fValid e = true → fAction e ≠ 3 →
        (∀ v, v < 4 → s.dev.keyAt (4 * s.dev.bucket k + v) = some k → fSsrc (s.dev.flow (4 * s.dev.bucket k + v)) = fSsrc e →
          fAny (s.dev.flow (4 * s.dev.bucket k + v)) = !fAny e) →
        (if k.v6 then [0, 2].find? (fun v => !fValid (s.dev.flow (4 * s.dev.bucket k + v)) && !fValid (s.dev.flow (4 * s.dev.bucket k + (v + 1))))
          else [0, 1, 2, 3].find? (fun v => !fValid (s.dev.flow (4 * s.dev.bucket k + v)))) = some wy →
        Answers (.fsInsert w req) s (fun t =>
          t.dev.flow (4 * s.dev.bucket k + wy) = flowStored e ∧ t.dev.get R.PKT_FS_IDX_IDX = 4 * s.dev.bucket k + wy ∧
          (k.v6 = true → t.dev.flow (4 * s.dev.bucket k + wy + 1) = tailStored (x / 2 ^ 144)) ∧
          (∀ j, j ≠ 4 * s.dev.bucket k + wy → (k.v6 = true → j ≠ 4 * s.dev.bucket k + wy + 1) → t.dev.flow j = s.dev.flow j) ∧
          Keeps s t [R.PKT_FS_IDX_IDX] ∧ RaisesJust s t [E.FS_CMD_DONE])) ∧
      (∀ k j, flowKey e (x / 2 ^ 144) = some k → s.dev.flowFind k (some (fSsrc e)) = some j → Answers (.fsLookup w req) s (fun t =>
        t.dev.get R.PKT_FS_IDX_IDX = j % 2 ^ R.PKT_FS_IDX_IDX.width ∧ Leaves s t w [R.PKT_FS_IDX_IDX] [E.FS_CMD_DONE] id)) ∧
      (fValid (s.dev.flow i) = true → fKind (s.dev.flow i) ≠ 2 →
        Answers (.fsDelete w req) s (fun t =>
          t.dev.flow i = 0 ∧ (∀ j, j ≠ i → t.dev.flow j = if j = i + 1 ∧ fKind (s.dev.flow i) = 1 then 0 else s.dev.flow j) ∧
          Keeps s t [] ∧ RaisesJust s t [E.FS_CMD_DONE]) ∧
        (fAction e ≠ 3 → Answers (.fsReplace w req) s (fun t =>
          t.dev.flow i = setBits (s.dev.flow i) 107 21 (bits e 107 21) % 2 ^ 144 ∧ (∀ j, j ≠ i → t.dev.flow j = s.dev.flow j) ∧
          Keeps s t [] ∧ RaisesJust s t [E.FS_CMD_DONE]))))

/-- R142, R144, R177, R573: SET by FW loads a context from PKT_SC_DATA, ZERO zeroes its keys and its SUITE, and READ shows its other fields: two
states whose contexts differ in nothing but keys show the same words. R168, R177: PKT_EG_CMD READ shows the descriptor of an egress stream, STATS its
three counters. -/
def Obligations.ContextCommands : Prop :=
  (∀ s w n, s.dev.get R.PKT_SC_IDX_IDX = n → (s.dev.at w).busy C.sc = false →
     (∀ c, Ready s .fw → s.dev.isolated .pkt = false → c = ctxOf (s.dev.getWords R.PKT_SC_DATA_D 32) → c.suite < 5 →
       Answers (.scSet w .fw) s (fun t => Leaves s t w [] [] (fun d => d.setCtx n c))) ∧
     (∀ req, Ready s req → (s.dev.at w).oper req = true → s.dev.isolated .pkt = false →
       Answers (.scZero w req) s (fun t =>
         (t.dev.ctx n).key = 0 ∧ (t.dev.ctx n).salt = 0 ∧ (t.dev.ctx n).auth = 0 ∧ (t.dev.ctx n).suite = 0 ∧
         Leaves s t w [] [] (fun d => d.setCtx n (d.ctx n).zeroed))) ∧
     (∀ req c, Ready s req → s.dev.ctx n = c → Answers (.scRead w req) s (fun t =>
       (∀ k, k < 32 → t.dev.get (R.PKT_SC_DATA_D k) = bits ({ c with key := 0, salt := 0, auth := 0 } : SrtpCtx).read (32 * k) 32) ∧
       Leaves s t w ((List.range 32).map R.PKT_SC_DATA_D) [] id))) ∧
  (∀ s w req n, Open s w req C.eg .none → s.dev.get R.PKT_EG_IDX_IDX = n → (s.dev.obj S.EGRESS n).isSome = true →
     Answers (.egRead w req) s (fun t =>
       (∀ k, k < 16 → t.dev.get (R.PKT_EG_DATA_D k) = bits (s.dev.egDesc n) (32 * k) 32) ∧ Leaves s t w ((List.range 16).map R.PKT_EG_DATA_D) [] id) ∧
     ((s.dev.eg n).cnt.length = 3 → Answers (.egStats w req) s (fun t =>
       (∀ k, k < 3 → t.dev.get (R.PKT_EG_DATA_D k) = ((s.dev.eg n).cnt.getD k 0).toNat % 2 ^ 32) ∧
       Leaves s t w ((List.range 3).map R.PKT_EG_DATA_D) [] id)))

/-- R401, R432, R434: a frame that a port which is up receives whole, with a good FCS, of at least 64 bytes, for its address or a group, and neither PAUSE nor
PFC, joins the receive buffer with its corrected timestamp where it fits; one with a bad FCS is counted and dropped. In near-end loopback a port hears nothing from the line (R475; log entry 143). R435, R475:
a port that comes up reads LINK 1 with LINK_CHG and ETH_LINK_UP; one that goes down reads LINK 0 with LINK_CHG, ETH_LINK_DOWN fires, and no media
packet waits for it; AN_RESTART of a port whose image enables it leaves it down and in training. -/
def Obligations.EthernetFrames : Prop :=
  (∀ s w p (f : EthFrame), Running s → s.dev.ethUp p = true →
     (s.dev.ethLoop p = 1 → Answers (.ethFrameRx w p f) s (fun t => Leaves s t w [] [] id)) ∧
     (s.dev.ethLoop p ≠ 1 → f.fcsOk = false → Answers (.ethFrameRx w p f) s (fun t =>
       t.dev.get (R.ETH_CNT_COUNT p 1) = plus1 (s.dev.get (R.ETH_CNT_COUNT p 1)) ∧ Leaves s t w [R.ETH_CNT_COUNT p 1] [] id)) ∧
     (s.dev.ethLoop p ≠ 1 → s.dev.isolated .pkt = false → f.fcsOk = true → f.codeError = false → 60 ≤ f.bytes.length →
       (f.bytes.take 6 = ethMac (s.dev.objD S.ETH p) ∨ bit (byteAt f.bytes 0) 0 = true) → isPause f.bytes = false →
       s.dev.rxFill p + f.bytes.length + 4 ≤ 262144 →
       Answers (.ethFrameRx w p f) s (fun t =>
         t.dev.get (R.ETH_CNT_COUNT p 0) = plus1 (s.dev.get (R.ETH_CNT_COUNT p 0)) ∧
         Leaves s t w [R.ETH_CNT_COUNT p 0] [] (fun d => { d with pkt := { d.pkt with
           rx := kvSet p (kvD d.pkt.rx p [] ++ [(f.bytes, stampOf16 (stampSub16 (quarter ((s.dev.at w).readAgo f.age)) - s.dev.get (R.TIME_PORT_RXLAT_LAT p)))]) d.pkt.rx } })))) ∧
  (∀ s w p, Running s →
     ((s.dev.obj S.ETH p).isSome = true → s.dev.flag (R.ETH_STAT_LINK p) = false → s.dev.isolated (.eth p) = false →
       Answers (.ethLinkUp w p) s (fun t =>
         t.dev.get (R.ETH_STAT_LINK p) = 1 ∧ t.dev.get (R.ETH_STAT_LINK_CHG p) = 1 ∧
         Leaves s t w [R.ETH_STAT_LINK p, R.ETH_STAT_LINK_CHG p, R.ETH_STAT_FEC p, R.ETH_STAT_RATE p] [E.ETH_LINK_UP] id)) ∧
     (∀ inRec, s.dev.flag (R.ETH_STAT_LINK p) = true → Answers (.ethLinkDown w p inRec) s (fun t =>
       t.dev.get (R.ETH_STAT_LINK p) = 0 ∧ t.dev.get (R.ETH_STAT_LINK_CHG p) = 1 ∧ kvD t.dev.pkt.tx p [] = [] ∧ Raised t E.ETH_LINK_DOWN)) ∧
     (∀ req inRec, Ready s req → (s.dev.at w).oper req = true → (s.dev.obj S.ETH p).any ethAn = true → s.dev.isolated (.eth p) = false →
       Answers (.anRestart w req ⟨p, inRec⟩) s (fun t => t.dev.get (R.ETH_STAT_LINK p) ≠ 1 ∧ t.dev.ethTrains p = true)))

/-- R129, R174, R177: PKT takes the oldest frame of a port's receive buffer; while RX_EN is 0 it is dropped and counted in PKT_CNT[14], and a frame
for no local address, no group of all, of no protocol of R129 is counted in PKT_CNT[2] and dropped; R134 to R136: a UDP packet to a local address whose flow
entry has ACTION 1 sets HIT there, and its item lies in the entry's queue. R172, R436, R437: at a frame boundary of a port
that is up the first media packet whose launch cycle has passed is sent, padded to 60 bytes, and counted; in a loopback the line does not carry it (R475; log entry 143). -/
def Obligations.PacketsInAndOut : Prop :=
  (∀ s w port f st r, Running s → kvD s.dev.pkt.rx port [] = (f, st) :: r → s.dev.isolated .pkt = false →
     (s.dev.flag R.PKT_CTL_RX_EN = false → Answers (.pktIngress w port) s (fun t =>
       kvD t.dev.pkt.rx port [] = r ∧ t.dev.get R.PKT_STAT_FIFO_DROP = 1 ∧
       t.dev.get (R.PKT_CNT_COUNT 14) = plus1 (s.dev.get (R.PKT_CNT_COUNT 14)) ∧ Keeps s t [R.PKT_STAT_FIFO_DROP, R.PKT_CNT_COUNT 14])) ∧
     (s.dev.flag R.PKT_CTL_RX_EN = true → f.length ≤ 1522 → (parse f).ip = false → (parse f).ethertype ≠ 0x88F7 → (parse f).ethertype ≠ 0x0806 →
       f.take 6 ≠ List.replicate 6 0xFF → Answers (.pktIngress w port) s (fun t =>
         kvD t.dev.pkt.rx port [] = r ∧ (∀ q, q ≠ port → kvD t.dev.pkt.rx q [] = kvD s.dev.pkt.rx q []) ∧
         t.dev.get (R.PKT_CNT_COUNT 0) = plus1 (s.dev.get (R.PKT_CNT_COUNT 0)) ∧ t.dev.get (R.PKT_CNT_COUNT 2) = plus1 (s.dev.get (R.PKT_CNT_COUNT 2)) ∧
         Keeps s t [R.PKT_CNT_COUNT 0, R.PKT_CNT_COUNT 2] ∧ RaisesJust s t [])) ∧
     (∀ la i o, s.dev.flag R.PKT_CTL_RX_EN = true → f.length ≤ 1522 → (parse f).ethertype ≠ 0x88F7 → (parse f).ethertype ≠ 0x0806 → (parse f).udp = true →
       (parse f).frag = false → (parse f).bad = false → (parse f).dport ≠ 319 → (parse f).dport ≠ 320 → s.dev.laddr port (parse f) = some la →
       byteAt (parse f).payload 1 < 192 ∨ 223 < byteAt (parse f).payload 1 →
       s.dev.flowFind ⟨la, (parse f).v6, (parse f).src, (parse f).dport, (parse f).sport⟩ (some (beAt (parse f).payload 8 4)) = some i →
       fAction (s.dev.flow i) = 1 → Takes s.dev (fTarget (s.dev.flow i)) o (excItem port 7 0 st (parse f).payload) →
       Answers (.pktIngress w port) s (fun t =>
         t.dev.get (R.PKT_CNT_COUNT 0) = plus1 (s.dev.get (R.PKT_CNT_COUNT 0)) ∧
         Leaves s t w [R.PKT_CNT_COUNT 0] [] (fun d =>
           (({ d with pkt := { d.pkt with rx := kvPut [] port r d.pkt.rx } }).setFlow i (setBits (d.flow i) 140 1 1)).stored
             (fTarget (d.flow i)) (excItem port 7 0 st (parse f).payload))))) ∧
  (∀ s w p sub x r, Running s → s.dev.ethUp p = true → kvD s.dev.pkt.tx p [] = x :: r →
     (x.stroke < s.dev.org.num ∨ x.stroke = s.dev.org.num ∧ x.cc ≤ (s.dev.at w).org.cc) → (kvD s.dev.ports.ethTx p {}).endNs ≤ (s.dev.at w).xoNs →
     Answers (.packetLaunch w p sub) s (fun t =>
       t.dev.reply.bytes = (if s.dev.ethLoop p = 0 ∨ s.dev.ethLoop p = 3 then x.bytes ++ List.replicate (60 - x.bytes.length) 0 else []) ∧ kvD t.dev.pkt.tx p [] = r ∧
       t.dev.get (R.ETH_CNT_COUNT p 6) = plus1 (s.dev.get (R.ETH_CNT_COUNT p 6)) ∧ t.dev.get (R.PKT_CNT_COUNT 11) = plus1 (s.dev.get (R.PKT_CNT_COUNT 11)) ∧
       (t.dev.eg x.stream).tsLast = (if (kvGet x.stream s.dev.pkt.eg).isSome then x.ts else (s.dev.eg x.stream).tsLast) ∧
       (s.dev.ethLoop p ≠ 1 → Keeps s t [R.ETH_CNT_COUNT p 6, R.PKT_CNT_COUNT 11] ∧ RaisesJust s t [])))

/-! ### The host -/

/-- R466, R467: a host write of at most 4,096 bytes to words marked host-writable puts each byte to its place and leaves every other byte of the
reservoir and the DDR as it was; a read gives the bytes of its places, zero where there is none, and the words stay. A write of a word not so marked
is dropped and counted. R460, R462, R477: training of a configuration that is not refused ends with INIT_DONE 1; a patrol pass that meets no error
changes nothing but its count; a read of DDR_ECC_ADDR_LO latches the high word. -/
def Obligations.HostAndDdr : Prop :=
  (∀ s w off, Ready s .host →
     (∀ data, data.length ≤ 4096 → PlacesClean s.dev (places s.dev off data.length) →
       (∀ x ∈ places s.dev off data.length, s.dev.hostWritable x.1 x.2.1 = true) →
       Answers (.hostDataWrite w off data) s (fun t =>
         (∀ k (h : k < data.length) x, s.dev.bar2At (off + k) = some x → placeByte t.dev x = data[k].toNat) ∧
         (∀ ddr a b, b < 9 → (ddr, a, b) ∉ places s.dev off data.length → placeByte t.dev (ddr, a, b) = placeByte s.dev (ddr, a, b)) ∧
         Keeps s t [] ∧ RaisesJust s t [])) ∧
     (∀ data (x : Bool × Nat), data ≠ [] → (∀ k, k < data.length → ∃ b, s.dev.bar2At (off + k) = some (x.1, x.2, b)) → s.dev.hostWritable x.1 x.2 = false →
       Answers (.hostDataWrite w off data) s (fun t =>
         t.dev.get R.PCIE_STAT_DENIED = 1 ∧ t.dev.get (R.PCIE_CNT_COUNT 1) = plus1 (s.dev.get (R.PCIE_CNT_COUNT 1)) ∧
         Leaves s t w [R.PCIE_STAT_DENIED, R.PCIE_CNT_COUNT 1] [E.PCIE_HOST_DENIED] id)) ∧
     (∀ n, PlacesClean s.dev (places s.dev off n) →
       (∀ x ∈ places s.dev off n, wPoison (if x.1 then s.dev.ddrCell x.2.1 else kvD s.dev.qf.res x.2.1 0) = false) →
       Answers (.hostDataRead w off n) s (fun t =>
         t.dev.reply.bytes = (List.range n).map (fun k => BitVec.ofNat 8 (((s.dev.bar2At (off + k)).map (placeByte s.dev)).getD 0)) ∧
         Leaves s t w [] [] id))) ∧
  (∀ s w, Running s → s.dev.rst.kaUp = true →
     (s.dev.ddrRefuses = false → s.dev.ddrHeld = false → s.dev.flag R.DDR_STAT_INIT_DONE = false → Answers (.ddrInitDone w) s (fun t =>
       t.dev.get R.DDR_STAT_INIT_DONE = 1 ∧ Leaves s t w [R.DDR_STAT_INIT_DONE] [] id)) ∧
     (0 < s.dev.ddrTotal → s.dev.ddr.ue = [] → s.dev.ddr.ce = [] → Answers (.patrolScrubPass w [] []) s (fun t =>
       t.dev.get (R.DDR_CNT_COUNT 5) = plus1 (s.dev.get (R.DDR_CNT_COUNT 5)) ∧ Leaves s t w [R.DDR_CNT_COUNT 5] [] id)) ∧
     (∀ a, a < s.dev.ddrTotal → s.dev.ddr.ue = [] → s.dev.ddr.ce = [] → Answers (.patrolScrubPass w [] [a]) s (fun t =>
       t.dev.get R.DDR_STAT_ECC_UE = 1 ∧ t.dev.ddr.ue = [a] ∧ Raised t E.DDR_ECC_UE)) ∧
     (∀ req, Ready s req → Answers (.ddrEccAddrRead w req) s (fun t =>
       t.dev.reply.words = [BitVec.ofNat 32 (s.dev.get R.DDR_ECC_ADDR_LO_A)] ∧
       Leaves s t w [] [] (fun d => { d with ddr := { d.ddr with hiLatch := some (BitVec.ofNat 32 (s.dev.get R.DDR_ECC_ADDR_HI_A)) } }))))

/-- R469: a function-level reset and PERST clear the MSI-X table, PCIE_DDR_BASE and the configuration space; PERST also takes the link down. The link
comes up while LTSSM_EN is 1, and goes down, with its event. R471, R473: an I²C stretch that times out makes one bus recovery, of nine clocks and a STOP. A JTAG instruction
becomes the one in force and acts on the test port alone: IDCODE shows the identity, BYPASS one zero bit, SAMPLE/PRELOAD takes its pins and values. -/
def Obligations.LinkResets : Prop :=
  (∀ s w, Running s →
     (∀ c, c = .flr w ∨ c = .pciePerst w → Answers c s (fun t =>
       t.dev.get R.PCIE_DDR_BASE_BASE = 0 ∧ t.dev.pcie = {} ∧
       (∀ v, v < 256 → t.dev.get (R.PCIE_MSIX_LO_A v) = 0 ∧ t.dev.get (R.PCIE_MSIX_HI_A v) = 0 ∧ t.dev.get (R.PCIE_MSIX_DATA_D v) = 0 ∧
         t.dev.get (R.PCIE_MSIX_CTL_MASK v) = 1) ∧
       (c = .pciePerst w → t.dev.get R.PCIE_STAT_LINK_UP ≠ 1) ∧ t.dev.qf = s.dev.qf ∧ t.dev.ddr = s.dev.ddr)) ∧
     (∀ speed width, s.dev.flag R.PCIE_CTL_LTSSM_EN = true → s.dev.flag R.PCIE_STAT_LINK_UP = false → s.dev.rst.unitBad.contains .pcie = false →
       Answers (.pcieLinkUp w speed width) s (fun t => t.dev.get R.PCIE_STAT_LINK_UP = 1 ∧
         Leaves s t w [R.PCIE_STAT_LINK_UP, R.PCIE_STAT_SPEED, R.PCIE_STAT_WIDTH] [E.PCIE_LINK_UP] id)) ∧
     (s.dev.flag R.PCIE_STAT_LINK_UP = true → Answers (.pcieLinkDown w) s (fun t => t.dev.get R.PCIE_STAT_LINK_UP = 0 ∧
         Leaves s t w [R.PCIE_STAT_LINK_UP, R.PCIE_STAT_SPEED, R.PCIE_STAT_WIDTH] [E.PCIE_LINK_DOWN] id))) ∧
  (∀ s w, (Running s → Answers (.i2cStretchTimeout w) s (fun t => Leaves s t w [] [] (fun d => { d with i2c := { recoveries := d.i2c.recoveries + 1, bus := List.replicate 9 .clock ++ [.stop] } }))) ∧
     (∀ pins pre c j, (c, j) ∈ [(Instr.bypass w, { s.jtag with ir := .bypass, dr := 0 }), (.idcode w, { s.jtag with ir := .idcode, dr := idcodeValue }),
         (.samplePreload w pins pre, { s.jtag with ir := .samplePreload, sample := pins, preload := pre }), (.extest w, { s.jtag with ir := .extest }),
         (.clamp w, { s.jtag with ir := .clamp, dr := 0 }), (.highz w, { s.jtag with ir := .highz, dr := 0 })] →
       Answers c s (fun t => t.jtag = j ∧ t.otp = s.otp ∧ t.pending = s.pending ∧ (∀ f, evFree f → t.dev.get f = s.dev.get f) ∧ Still s t w)))

/-! ### The stroke -/

/-- R46, R52, R53: EN with a valid clock asks for the origin, without one it reads back with CLK_INVALID; REORIGIN of an origin that runs ends the
lost state; a read of STK_NUM_LO gives the stroke's number and latches its high word for the next read of STK_NUM_HI. R43, R44, R46, R82, R541, R596:
an origin that is asked for 1 ms or more starts at a boundary with the number of the nearest ideal one; each boundary counts the stroke on, its cycle
begins at 0 and the backup domain latches its number, and STK_TICK fires every 2^TICK_DIV strokes. The OTP is as before but where the part enters D2,
which resets the main domain. -/
def Obligations.StrokeOrigin : Prop :=
  (∀ s w req, Ready s req →
     ((s.dev.at w).oper req = true →
       (s.dev.flag R.STK_CTL_EN = false → Answers (.stkEn w req) s (fun t => t.dev.get R.STK_CTL_EN = 1 ∧
         (s.dev.clkValid = true → Leaves s t w [R.STK_CTL_EN] [] (fun d => d.onOrg (fun o => { o with enReq := some d.xoNs }))) ∧
         (s.dev.clkValid = false → t.dev.get R.STK_STAT_CLK_INVALID = 1 ∧ Leaves s t w [R.STK_CTL_EN, R.STK_STAT_CLK_INVALID] [] id))) ∧
       (s.dev.flag R.STK_STAT_RUNNING = true → Answers (.reorigin w req) s (fun t =>
         Leaves s t w [] [] (fun d => d.onOrg (fun o => { o with reorg := true, lost := false }))))) ∧
     Answers (.stkNumLoRead w req) s (fun t =>
       t.dev.reply.words = [BitVec.ofNat 32 s.dev.org.num] ∧ Keeps s t [] ∧ RaisesJust s t [] ∧
       ∀ u w', u.dev.org.numLatch = t.dev.org.numLatch → Ready u req →
         Answers (.rcRead w' req 0x00100014) u (fun v =>
           v.dev.reply.words = [BitVec.ofNat 32 (s.dev.org.num / 2 ^ 32)] ∧ v.dev.org.numLatch = none))) ∧
  (∀ s w, Running s → s.dev.rst.kaUp = true →
     (∀ r, s.dev.org.enReq = some r → r + 1000000 ≤ (s.dev.at w).xoNs → s.dev.flag R.STK_STAT_RUNNING = false → s.dev.clkValid = true →
       s.dev.rst.pwrPend = none →
       Answers (.originStart w) s (fun t => t.dev.get R.STK_STAT_RUNNING = 1 ∧ Raised t E.ORIGIN_START ∧
         t.dev.org.num = (strokeErr (s.dev.at w).now48 (s.dev.at w).phaseReg).2.toNat)) ∧
     (∀ env, s.dev.flag R.STK_STAT_RUNNING = true → Answers (.strokeBoundary w env) s (fun t =>
       t.dev.org.num = s.dev.org.num + 1 ∧ t.dev.org.cc = 0 ∧ t.dev.sump.latchStroke = BitVec.ofNat 32 (s.dev.org.num + 1) ∧
       (s.dev.rst.pwrPend = none → t.otp = s.otp ∧ t.dev.rst.mainUp = true ∧
         ((s.dev.org.num + 1) % 2 ^ s.dev.get R.STK_CTL_TICK_DIV = 0 → Raised t E.STK_TICK)) ∧
       (s.dev.rst.pwrPend = some 2 → t.dev.rst.d2 = true ∧ t.dev.rst.mainUp = false))))

/-! ### The passes of a stroke -/

/-- R183, R337, R372: the pass of an engine that is not isolated runs once in a stroke; a second one in the same stroke changes nothing. R186, R189, R190: in
the conversion pass a chain without stages that is fed by the timing unit puts out the stroke's timestamps in one item. R344: the tone pass pushes the state item
of a group. R379: the compression pass pushes the decoded samples of the stroke that a decode stream is due to show. -/
def Obligations.PassOncePerStroke : Prop :=
  (∀ s w, Running s →
    (∀ inp c o qo it, s.dev.isolated .cnv = false → s.dev.cnv.passed ≠ some s.dev.org.num → s.dev.bank.sec S.SETS = [] → s.dev.bank.sec S.LANES = [] →
       s.dev.bank.sec S.CHAINS = [(c, o)] → s.dev.cnv.skip.contains (false, c) = false → s.dev.tim.handed = [] → inp.coefUe = [] → inp.coefCe = [] →
       hSrc o = 2 → hSrcIdx o = 3 → s.dev.tim.locked = true → hCicK o = 0 → hSet1En o = false → hSet2En o = false → hSettle o = false → hDecim o = 1 →
       hMembers o = 1 → (s.dev.chain c).srcOk = true → (s.dev.chain c).syncDue = false → (s.dev.chain c).prime = 0 → s.dev.chainHeld o = false →
       smpItems (hOutN o) 1 (fun k _ => let x := (s.dev.directIn inp o (hOutN o)).getD k {}
         { x with rs := rsPass x.rs }) = [it] → Takes s.dev (hOutQ o) qo it →
       Answers (.cnvPass w inp) s (fun t => t.dev.qf = ((s.dev.at w).stored (hOutQ o) it).qf ∧ t.dev.cnv.passed = some s.dev.org.num ∧
         Keeps s t [] ∧ RaisesJust s t [])) ∧
    (∀ g x qo, s.dev.isolated .tone = false → s.dev.tone.passed ≠ some s.dev.org.num → s.dev.bank.sec S.DET = [] → s.dev.bank.sec S.GEN = [] →
       s.dev.bank.sec S.GRP = [(g, x)] → s.dev.tim.handed = [] → s.dev.tone.skip = [] → Takes s.dev (bits x 0 16) qo (s.dev.stateItem g x) →
       Answers (.tonePass w) s (fun t => Leaves s t w [] [] (fun d =>
         { d.stored (bits x 0 16) (s.dev.stateItem g x) with tone := { d.tone with passed := some d.org.num } }))) ∧
    (∀ faulty n o fr it qo, s.dev.isolated .cmp = false → s.dev.cmp.passed ≠ some s.dev.org.num → s.dev.bank.sec S.CMP = [(n, o)] → kDec o = true →
       s.dev.cmp.skip.contains n = false → (s.dev.cmpS n).en = true → (s.dev.q (kInQ o)).depth = 0 → kDlat o ≤ s.dev.org.num →
       kvGet (s.dev.org.num - kDlat o) (s.dev.cmpS n).ring = some (0, fr) → s.dev.cmpHeld o = false →
       smpItems (rateSpp (kRate o)) (kCh o) (fun k c => { v := (fr.getD k []).getD c 0 }) = [it] → Takes s.dev (kOutQ o) qo it →
       Answers (.cmpPass w faulty) s (fun t => t.dev.qf = ((s.dev.at w).stored (kOutQ o) it).qf ∧ t.dev.cmp.passed = some s.dev.org.num ∧
         (t.dev.cmpS n).ring = (s.dev.cmpS n).ring.filter (fun x => decide (s.dev.org.num - kDlat o < x.1)) ∧
         (t.dev.cmpS n).cnt = (s.dev.cmpS n).cnt ∧ Keeps s t [] ∧ RaisesJust s t []))) ∧
  ∀ s w, Running s →
    (∀ inp, s.dev.isolated .cnv = false → Answers (.cnvPass w inp) s (fun t => t.dev.cnv.passed = some s.dev.org.num ∧
      (s.dev.cnv.passed = some s.dev.org.num → Leaves s t w [] [] id))) ∧
    (s.dev.isolated .tone = false → Answers (.tonePass w) s (fun t => t.dev.tone.passed = some s.dev.org.num ∧
      (s.dev.tone.passed = some s.dev.org.num → Leaves s t w [] [] id))) ∧
    (∀ faulty, s.dev.isolated .cmp = false → Answers (.cmpPass w faulty) s (fun t => t.dev.cmp.passed = some s.dev.org.num ∧
      (s.dev.cmp.passed = some s.dev.org.num → Leaves s t w [] [] id)))

/-- R184, R337, R380: a chain, a generator group or a compression stream that has not finished is abandoned for the stroke: PASS_OVR is set, its counter and its
event tell, and its output queue arms the fallback. -/
def Obligations.OverrunAbandons : Prop :=
  ∀ s w q, Running s →
    (∀ c o, s.dev.isolated .cnv = false → s.dev.cnv.passed ≠ some s.dev.org.num → s.dev.cnv.skip.contains (false, c) = false →
      s.dev.obj S.CHAINS c = some o → hOutQ o = q → Answers (.cnvOverrun w false c) s (fun t =>
        t.dev.cnv.skip = (false, c) :: s.dev.cnv.skip ∧ t.dev.get R.CNV_STAT_PASS_OVR = 1 ∧
        t.dev.get (R.CNV_CNT_COUNT 2) = plus1 (s.dev.get (R.CNV_CNT_COUNT 2)) ∧
        t.dev.qf = (if s.dev.qValid q then s.dev.setQ q { s.dev.q q with fbArmed := true } else s.dev).qf ∧
        Keeps s t [R.CNV_CNT_COUNT 2, R.CNV_STAT_PASS_OVR, R.CNV_LAST_IDX, R.CNV_LAST_KIND] ∧ RaisesJust s t [E.CNV_OVERRUN])) ∧
    (s.dev.isolated .tone = false → s.dev.tone.passed ≠ some s.dev.org.num → s.dev.tone.skip.contains (true, q) = false → s.dev.genGroup q ≠ [] →
      Answers (.toneOverrun w true q) s (fun t =>
        t.dev.get R.TONE_STAT_PASS_OVR = 1 ∧ t.dev.get (R.TONE_CNT_COUNT 4) = plus1 (s.dev.get (R.TONE_CNT_COUNT 4)) ∧
        Leaves s t w [R.TONE_CNT_COUNT 4, R.TONE_STAT_PASS_OVR, R.TONE_LAST_IDX, R.TONE_LAST_GEN] [E.TONE_OVERRUN] (fun d =>
          { (if d.qValid q then d.setQ q { d.q q with fbArmed := true } else d) with tone := { d.tone with skip := (true, q) :: d.tone.skip } }))) ∧
    (∀ n o, s.dev.isolated .cmp = false → s.dev.cmp.passed ≠ some s.dev.org.num → s.dev.cmp.skip.contains n = false → s.dev.obj S.CMP n = some o →
      kOutQ o = q → kDec o = true → Answers (.cmpOverrun w n) s (fun t =>
        t.dev.get R.CMP_STAT_PASS_OVR = 1 ∧ t.dev.get (R.CMP_CNT_COUNT 6) = plus1 (s.dev.get (R.CMP_CNT_COUNT 6)) ∧
        Leaves s t w [R.CMP_CNT_COUNT 6, R.CMP_STAT_PASS_OVR, R.CMP_LAST_STREAM, R.CMP_LAST_REASON] [E.CMP_OVERRUN] (fun d =>
          { (if d.qValid q then d.setQ q { d.q q with fbArmed := true } else d) with cmp := { d.cmp with skip := n :: d.cmp.skip } })))

/-! ### Conversion, tones and compression -/

/-- R196, R202, R205, R215, R217, R218, R223, R224: the reads of CNV_CMD show descriptors and counters; LANE_ENABLE, LANE_DISABLE, LANE_DELAY, LANE_RATIO and SWAP with arguments in
range, and SYNC, wait for the stroke boundary. A coefficient that no prototype and no bank in use holds is written and the address moves on; one that is locked stays,
with COEF_ERR. -/
def Obligations.ConversionCommands : Prop :=
  ∀ s w req n a, Ready s req → s.dev.get R.CNV_IDX_IDX = n → s.dev.get R.CNV_ARG_ARG = a →
    ((s.dev.at w).busy C.cnv = false → ∀ c ty x, (c, ty, x) ∈ [(Instr.laneRead w req, S.LANES, s.dev.laneDesc n), (.chainRead w req, S.CHAINS, s.dev.chainDesc n),
        (.setRead w req, S.SETS, s.dev.setDesc n)] → (s.dev.obj ty n).isSome = true →
      Answers c s (fun t => (∀ k, k < 16 → t.dev.get (R.CNV_DATA_D k) = bits x (32 * k) 32) ∧
        Leaves s t w ((List.range 16).map R.CNV_DATA_D) [E.CNV_CMD_DONE] id)) ∧
    ((s.dev.at w).busy C.cnv = false → (s.dev.obj S.LANES n).isSome = true → (s.dev.lane n).cnt.length = 4 → Answers (.laneCounters w req) s (fun t =>
      (∀ k, k < 4 → t.dev.get (R.CNV_DATA_D k) = ((s.dev.lane n).cnt.getD k 0).toNat) ∧
      Leaves s t w ((List.range 4).map R.CNV_DATA_D) [E.CNV_CMD_DONE] id)) ∧
    ((s.dev.at w).oper req = true → (s.dev.at w).busy C.cnv = false → s.dev.isolated .cnv = false →
      (∀ o, s.dev.obj S.LANES n = some o → ∀ c f, (c, f) ∈
          [(Instr.laneEnable w req, fun l : LaneRt => { l with enPend := some true }), (.laneDisable w req, fun l => { l with enPend := some false })] ++
          (if a % 2 ^ 20 ≤ lDMax o * 256 then [(Instr.laneDelay w req, fun l : LaneRt => { l with dPend := some (a % 2 ^ 20) })] else []) ++
          (if lFixed o then [(Instr.laneRatio w req, fun l : LaneRt => { l with rPend := some (s.dev.get R.CNV_ARG2_ARG % 65536 * 2 ^ 32 + a) })] else []) →
        Answers c s (fun t => Leaves s t w [] [E.CNV_CMD_DONE] (fun d => d.setLane n (f (d.lane n))))) ∧
      (∀ o, s.dev.obj S.SETS n = some o → bits a 16 12 ≤ sXfMax o → (s.dev.fset n).cmd = none → Answers (.swap w req) s (fun t =>
        Leaves s t w [] [E.CNV_CMD_DONE] (fun d => d.setFset n { d.fset n with cmd := some (bit a 0, bits a 16 12) }))) ∧
      Answers (.sync w req) s (fun t =>
        (∀ c, t.dev.chain c = if (s.dev.bank.sec S.CHAINS).any (fun x => x.1 == c && bit (a % 256) (hSyncGrp x.2)) then
          { s.dev.chain c with syncCmd := true } else s.dev.chain c) ∧ Keeps s t [] ∧ RaisesJust s t [E.CNV_CMD_DONE])) ∧
    ((s.dev.at w).oper req = true → ∀ (v : Word) i, s.dev.get R.CNV_COEF_ADDR_ADDR = i → Answers (.coefWrite w req v) s (fun t =>
      t.dev.get R.CNV_COEF_ADDR_ADDR = (i + 1) % 2 ^ 19 ∧
      (∀ k, k ≠ i → kvD t.dev.cnv.coef k 0 = kvD s.dev.cnv.coef k 0) ∧ Keeps s t [R.CNV_STAT_COEF_ERR, R.CNV_COEF_ADDR_ADDR] ∧ RaisesJust s t [] ∧
      (if s.dev.coefLocked i then t.dev.get R.CNV_STAT_COEF_ERR = 1 ∧ kvD t.dev.cnv.coef i 0 = kvD s.dev.cnv.coef i 0
       else t.dev.get R.CNV_STAT_COEF_ERR = s.dev.get R.CNV_STAT_COEF_ERR ∧ kvD t.dev.cnv.coef i 0 = BitVec.ofNat 24 v.toNat)))

/-- R349, R356 to R358: DET_ENABLE of a slot that is off begins it without runs, DET_DISABLE of one with no tone on ends it, GEN_START of a program with segments and GEN_STOP
wait for the stroke boundary, and the reads show the slots' image bits and counters; run-time bits of READ are free values (log entry 37). -/
def Obligations.ToneCommands : Prop :=
  ∀ s w req n, Ready s req → (s.dev.at w).busy C.tone = false → s.dev.get R.TONE_IDX_IDX = n →
    ((s.dev.obj S.DET n).isSome = true →
      Answers (.detRead w req) s (fun t =>
        (∀ k, k < 4 → t.dev.get (R.TONE_DATA_D k) = bits (s.dev.objD S.DET n % 2 ^ 128) (32 * k) 32) ∧
        Leaves s t w ((List.range 8).map R.TONE_DATA_D) [E.TONE_CMD_DONE] (fun d => { d with free := d.free + 1 })) ∧
      ((s.dev.det n).cnt.length = 3 → Answers (.toneSlotCounters w req) s (fun t =>
        (∀ k, k < 3 → t.dev.get (R.TONE_DATA_D k) = ((s.dev.det n).cnt.getD k 0).toNat) ∧
        Leaves s t w ((List.range 3).map R.TONE_DATA_D) [E.TONE_CMD_DONE] id)) ∧
      ((s.dev.at w).oper req = true → s.dev.isolated .tone = false →
        ((s.dev.det n).en = false → Answers (.detEnable w req) s (fun t =>
          Leaves s t w [] [E.TONE_CMD_DONE] (fun d => d.setDet n { d.det n with en := true, runs := [], bursts := [] }))) ∧
        ((s.dev.det n).en = true → (∀ x ∈ (s.dev.det n).runs, x.2.isOn = false) → Answers (.detDisable w req) s (fun t =>
          Leaves s t w [] [E.TONE_CMD_DONE] (fun d => d.setDet n { d.det n with en := false, runs := [], bursts := [] }))))) ∧
    ((s.dev.obj S.GEN n).isSome = true →
      Answers (.genRead w req) s (fun t =>
        (∀ k, k < 2 → t.dev.get (R.TONE_DATA_D k) = bits (s.dev.objD S.GEN n % 2 ^ 64) (32 * k) 32) ∧
        Leaves s t w ((List.range 4).map R.TONE_DATA_D) [E.TONE_CMD_DONE] (fun d => { d with free := d.free + 1 })) ∧
      ((s.dev.at w).oper req = true → s.dev.isolated .tone = false →
        (∀ p, p = s.dev.get R.TONE_ARG_ARG % 256 → pgNseg (s.dev.progWords p) ≠ 0 → (∀ a, s.dev.progAddr p = some a → NoError s.dev a 5) → Answers (.genStart w req) s (fun t =>
          Leaves s t w [] [E.TONE_CMD_DONE] (fun d => d.setGen n { d.gen n with cmd := some (some p) }))) ∧
        Answers (.genStop w req) s (fun t => Leaves s t w [] [E.TONE_CMD_DONE] (fun d => d.setGen n { d.gen n with cmd := some none }))))

/-- R381, R385, R387, R388: CMP_CMD shows a stream's descriptor and counters, ENABLE and DISABLE wait for the stroke boundary; START of a job within its ranges makes
it active with its counts zero; a job that has no samples ends at once with status 0; a job that runs to its end, or is aborted, is active no more, and ABORT leaves
status 7. R383: an encode job of one block, its buffers in their windows and its memory without errors, leaves the block's bytes in its destination, status 0 and
its counts. -/
def Obligations.CompressionCommands : Prop :=
  ∀ s w req n, Ready s req → s.dev.get R.CMP_IDX_IDX = n →
    ((s.dev.at w).busy C.cmp = false → (s.dev.obj S.CMP n).isSome = true →
      Answers (.cmpRead w req) s (fun t => (∀ k, k < 8 → t.dev.get (R.CMP_DATA_D k) = bits (s.dev.cmpDesc n) (32 * k) 32) ∧
        Leaves s t w ((List.range 8).map R.CMP_DATA_D) [] id) ∧
      ((s.dev.cmpS n).cnt.length = 8 → Answers (.cmpStreamCounters w req) s (fun t =>
        (∀ k, k < 8 → t.dev.get (R.CMP_DATA_D k) = ((s.dev.cmpS n).cnt.getD k 0).toNat) ∧ Leaves s t w ((List.range 8).map R.CMP_DATA_D) [] id)) ∧
      ((s.dev.at w).oper req = true → s.dev.isolated .cmp = false → ∀ c on, (c, on) ∈ [(Instr.cmpEnable w req, true), (.cmpDisable w req, false)] →
        Answers c s (fun t => Leaves s t w [] [] (fun d => d.setCmpS n { d.cmpS n with enPend := some on })))) ∧
    ((s.dev.at w).oper req = true → ∀ j, s.dev.getWords R.CMP_JOB_DESC_D 9 = j →
      (s.dev.cmp.job = none → jobOk j = true → s.dev.isolated .cmp = false →
        (bits j 112 32 = 0 → Answers (.jobStart w req) s (fun t =>
          t.dev.cmp.job = none ∧ t.dev.get R.CMP_JOB_STAT_STATUS = 0 ∧ t.dev.get R.CMP_JOB_STAT_BUSY = 0 ∧ Raised t E.CMP_JOB_DONE)) ∧
        (bits j 112 32 ≠ 0 → Answers (.jobStart w req) s (fun t =>
          t.dev.cmp.job = some (BitVec.ofNat 288 j) ∧ t.dev.get R.CMP_JOB_STAT_BUSY = 1 ∧ t.dev.get R.CMP_JOB_STAT_BLOCKS = 0 ∧
          t.dev.get R.CMP_JOB_CONSUMED_N = 0 ∧ t.dev.get R.CMP_JOB_PRODUCED_N = 0 ∧
          Keeps s t [R.CMP_JOB_STAT_BUSY, R.CMP_JOB_STAT_BLOCKS, R.CMP_JOB_CONSUMED_N, R.CMP_JOB_PRODUCED_N] ∧ RaisesJust s t []))) ∧
      (s.dev.cmp.job.isSome = true → s.dev.isolated .cmp = false → Answers (.jobAbort w req) s (fun t =>
        t.dev.cmp.job = none ∧ t.dev.get R.CMP_JOB_STAT_STATUS = 7 ∧ t.dev.get R.CMP_JOB_STAT_BUSY = 0 ∧ Raised t E.CMP_JOB_DONE))) ∧
    (s.dev.cmp.job.isSome = true → ∀ faulty, Answers (.cmpJobDone w faulty) s (fun t =>
      t.dev.cmp.job = none ∧ t.dev.get R.CMP_JOB_STAT_BUSY = 0 ∧ Raised t E.CMP_JOB_DONE)) ∧
    (∀ j x b, s.dev.cmp.job = some j → j.toNat = x → bit x 0 = false → bits x 112 32 ≠ 0 → bits x 112 32 ≤ bits x 14 13 →
      JobSpan s.dev (bit x 2) (spanOf (bits x 32 36) (bits x 27 4) 0 (bits x 112 32 * bits x 4 7) 3) → s.dev.ddr.ue = [] → s.dev.ddr.ce = [] →
      s.dev.jobBlock x = b → (bit x 1 = true → b.length ≤ bits x 224 16) → b.length ≤ bits x 144 32 →
      JobSpan s.dev (bit x 3) (spanOf (bits x 72 36) (bits x 68 4) 0 b.length 9) →
      Answers (.cmpJobDone w []) s (fun t =>
        t.dev.get R.CMP_JOB_STAT_STATUS = 0 ∧ t.dev.get R.CMP_JOB_STAT_BLOCKS = 1 ∧ t.dev.get R.CMP_JOB_CONSUMED_N = bits x 112 32 ∧
        t.dev.get R.CMP_JOB_PRODUCED_N = b.length ∧ t.dev.get (R.CMP_CNT_COUNT 0) = plus1 (s.dev.get (R.CMP_CNT_COUNT 0)) ∧
        Leaves s t w [R.CMP_JOB_STAT_BUSY, R.CMP_JOB_STAT_STATUS, R.CMP_JOB_STAT_BLOCKS, R.CMP_JOB_CONSUMED_N, R.CMP_JOB_PRODUCED_N, R.CMP_CNT_COUNT 0]
          [E.CMP_JOB_DONE] (fun d => { d.jobPutBytes (bits x 72 36) (bits x 68 4) 0 b with cmp := { d.cmp with job := none } })))

/-! ### Kernels -/

/-- R285, R287, R303: an accepted control item of an echo channel does what its OP says and counts in CMD_OK: FREEZE, THAW and the two BYPASS change one field; OPEN, CLOSE, SET and RESET
also leave the parameters or the cleared channel; no other channel changes. One with a POISON word, or for a closed channel but OPEN, counts in CMD_REJ alone. -/
def Obligations.EchoControls : Prop :=
  ∀ s w k ch i r, Running s → s.dev.kInst k = some i → s.dev.ecArgOk i.bits = true → s.dev.kFirst (tCell i.bits) = false → ch < s.dev.ecNch i.bits →
    s.dev.ecCh k ch = r → (s.dev.ecMode i.bits = 3 → s.dev.ecDdr i.bits ch + ecDrec 3 (s.dev.ecTailMax i.bits) ≤ s.dev.ddrTotal) →
    (r.st ≠ 0 →
      (∀ c f, (c, f) ∈ [(Instr.ecFreeze w k ch false, fun x : EcRt => { x with frozen := true }), (.ecThaw w k ch false, fun x => { x with frozen := false }),
          (.bypassOn w k ch false, fun x => { x with st := 3 }),
          (.bypassOff w k ch false, fun x => if x.st = 3 then { x with st := if x.tonePend then 2 else 1 } else x)] →
        Answers c s (fun t => Leaves s t w [] [] (fun d => d.setEcCh k ch { f r with cnt := bump r.cnt 5 }))) ∧
      Answers (.ecReset w k ch false) s (fun t =>
        t.dev.ecCh k ch = { r.cleared (s.dev.ecMode i.bits) i.rel with cnt := bump r.cnt 5 } ∧ (∀ j, j ≠ ch → t.dev.ecCh k j = s.dev.ecCh k j) ∧
        Keeps s t [] ∧ RaisesJust s t []) ∧
      Answers (.ecClose w k ch false) s (fun t =>
        (t.dev.ecCh k ch).st = 0 ∧ (t.dev.ecCh k ch).frozen = false ∧ (t.dev.ecCh k ch).cnt = bump r.cnt 5 ∧
        (∀ j, j ≠ ch → t.dev.ecCh k j = s.dev.ecCh k j) ∧ Keeps s t [] ∧ RaisesJust s t []) ∧
      Answers (.ecFreeze w k ch true) s (fun t => Leaves s t w [] [] (fun d => d.setEcCh k ch { r with cnt := bump r.cnt 4 }))) ∧
    (∀ ps p, ecParams (s.dev.ecMode i.bits) (s.dev.ecTailMax i.bits) ps = some p →
      Answers (.ecOpen w k ch false ps) s (fun t =>
        (t.dev.ecCh k ch).p0 = p.1 ∧ (t.dev.ecCh k ch).p1 = p.2 ∧ (t.dev.ecCh k ch).st ≠ 0 ∧ (t.dev.ecCh k ch).cnt = bump r.cnt 5 ∧
        (∀ j, j ≠ ch → t.dev.ecCh k j = s.dev.ecCh k j) ∧ Keeps s t [] ∧ RaisesJust s t []) ∧
      (r.st ≠ 0 → Answers (.ecSet w k ch false ps) s (fun t =>
        (t.dev.ecCh k ch).p0 = p.1 ∧ (t.dev.ecCh k ch).p1 = p.2 ∧ (t.dev.ecCh k ch).st = r.st ∧ (t.dev.ecCh k ch).cnt = bump r.cnt 5 ∧
        (∀ j, j ≠ ch → t.dev.ecCh k j = s.dev.ecCh k j) ∧ Keeps s t [] ∧ RaisesJust s t []))) ∧
    (r.st = 0 → Answers (.ecReset w k ch false) s (fun t => Leaves s t w [] [] (fun d => d.setEcCh k ch { r with cnt := bump r.cnt 4 })))

/-- R322: OPEN, CLOSE, SET and RESET of a decoder channel, with a record within its ranges where one is given, leave the record and the state they name, and count in CMD_OK;
no other channel changes. -/
def Obligations.CodecControls : Prop :=
  ∀ s w k ch i r, Running s → s.dev.kInst k = some i → s.dev.mArgOk i.bits 0 = true → s.dev.kFirst (tCell i.bits) = false → ch < s.dev.mNch i.bits →
    s.dev.decCh k ch = r →
    (∀ ps p, s.dev.decParam i.bits ps = some p →
      Answers (.codecOpen w k ch false ps) s (fun t =>
        t.dev.decCh k ch = { ({ r with r0 := p.1, r1 := p.2 } : DecRt).opened with cnt := bump r.cnt 5 } ∧ (∀ j, j ≠ ch → t.dev.decCh k j = s.dev.decCh k j) ∧
        Keeps s t [] ∧ RaisesJust s t []) ∧
      (r.st ≠ .closed → Answers (.codecSet w k ch false ps) s (fun t =>
        t.dev.decCh k ch = { r with r0 := p.1, r1 := p.2, cnt := bump r.cnt 5 } ∧ (∀ j, j ≠ ch → t.dev.decCh k j = s.dev.decCh k j) ∧
        Keeps s t [] ∧ RaisesJust s t []))) ∧
    (r.st ≠ .closed →
      Answers (.codecClose w k ch false) s (fun t =>
        Leaves s t w [] [] (fun d => d.setDecCh k ch { r.opened with st := .closed, cnt := bump r.cnt 5 })) ∧
      Answers (.codecReset w k ch false) s (fun t => Leaves s t w [] [] (fun d => d.setDecCh k ch { r.opened with cnt := bump r.cnt 5 }))) ∧
    (r.st = .closed → Answers (.codecReset w k ch false) s (fun t => Leaves s t w [] [] (fun d => d.setDecCh k ch { r with cnt := bump r.cnt 4 })))

/-- R322, R350, R351, R354: LEG_ADD and LEG_SET give a leg its record, LEG_DEL leaves it to ramp out and is no leg's for a leg that does not stand; CONF_SET gives a conference its record;
GAIN begins a ramp of 16 strokes from the gain as it stands. Each is counted, and no other leg, conference or gain changes. -/
def Obligations.MixControls : Prop :=
  ∀ s w k i, Running s → s.dev.kInst k = some i → s.dev.kFirst (tCell i.bits) = false →
    (s.dev.mArgOk i.bits 2 = true →
      (∀ leg, leg < s.dev.mLegs i.bits →
        (∀ ps p, s.dev.legParam i.bits ps = some p → Answers (.legAdd w k leg 0 false ps) s (fun t =>
          (kvGet leg (t.dev.conf k).legs).map (fun l => (l.r0, l.r1, l.live, l.sel)) = some (p.1, p.2, true, none) ∧
          (∀ j, j ≠ leg → kvGet j (t.dev.conf k).legs = kvGet j (s.dev.conf k).legs) ∧ (t.dev.conf k).recs = (s.dev.conf k).recs ∧
          Keeps s t [] ∧ RaisesJust s t [])) ∧
        (∀ l, kvGet leg (s.dev.conf k).legs = some l → l.live = true →
          (∀ ps p, s.dev.legParam i.bits ps = some p → Answers (.legSet w k leg 0 false ps) s (fun t =>
            kvGet leg (t.dev.conf k).legs = some (l.take p) ∧ (∀ j, j ≠ leg → kvGet j (t.dev.conf k).legs = kvGet j (s.dev.conf k).legs) ∧
            Keeps s t [] ∧ RaisesJust s t [])) ∧
          Answers (.legDel w k leg 0 false) s (fun t =>
            kvGet leg (t.dev.conf k).legs = some { l with live := false, sel := none } ∧
            (∀ j, j ≠ leg → kvGet j (t.dev.conf k).legs = kvGet j (s.dev.conf k).legs) ∧ Keeps s t [] ∧ RaisesJust s t [])) ∧
        (kvGet leg (s.dev.conf k).legs = none → Answers (.legDel w k leg 0 false) s (fun t =>
          (t.dev.conf k).legs = (s.dev.conf k).legs ∧ Keeps s t [] ∧ RaisesJust s t []))) ∧
      (∀ ch (r : W72) ps, ch < s.dev.mNch i.bits → confRecOk r.toNat = true → Answers (.confSet w k ch false (r :: ps)) s (fun t =>
        Leaves s t w [] [] (fun d => d.setConf k { (d.conf k).count ch 1 with recs := kvSet ch (BitVec.ofNat 24 r.toNat) (d.conf k).recs })))) ∧
    (s.dev.mArgOk i.bits 3 = true → ∀ ch (r : W72) ps g,
      ch < s.dev.mNch i.bits → bits r.toNat 0 6 < (s.dev.matSrcs i.bits).length →
      kvD (s.dev.mat k).gains (64 * ch + bits r.toNat 0 6) {} = g →
      Answers (.matrixGain w k ch false (r :: ps)) s (fun t =>
        kvGet (64 * ch + bits r.toNat 0 6) (t.dev.mat k).gains = some { old := g.at g.step, new := signedOf 24 (bits r.toNat 6 24), step := 0 } ∧
        (∀ j, j ≠ 64 * ch + bits r.toNat 0 6 → kvGet j (t.dev.mat k).gains = kvGet j (s.dev.mat k).gains) ∧ Keeps s t [] ∧ RaisesJust s t []))

/-! ### Lines -/

/-- R444, R446, R447, R451, R453: the push of a receive group of a master port is the push of the item that holds its samples; a slave port's frame goes to its nominal frame, sets PHASE and LOCK,
and sends that frame's samples; a MADI frame sets the channel-active bits and counts parity errors; a line that is lost reads LINE_LOST and LOCK 0, and LINE_LOST fires; a clock of
the bitstream inputs that fails is counted, and its event fires once in a stroke. R420, R421: at a stroke boundary each output framer holds the edges whose nominal instants lie in the stroke
that begins, no more and no fewer, and places each within 125 ps of its nominal instant. R36, R455, R621: no output drives while the keep-alive domain is in reset; a time output that is enabled
and the clocks of a master port run in every other state, and TDMn_DOUT carries idle values through warm reset, recovery mode and D2; the pins of a bank without power are absent. -/
def Obligations.LineFrames : Prop :=
  (∀ (o : OutRt) ph k fall i, 1 ≤ o.rate →
    (((o.edges ph k fall).1 ≤ i ∧ i < (o.edges ph k fall).1 + ((o.edges ph k fall).2 : Int)) ↔
      (0 ≤ o.after ph k fall i ∧ o.after ph k fall i < 2 * (o.rate : Int) * 8192000000)) ∧
    2 * ((131072 * o.rate : Nat) * o.place ph k fall i - 4 * o.after ph k fall i).natAbs ≤ 131072 * o.rate) ∧
  (∀ s w env, Running s → s.dev.rst.kaUp = true → s.dev.flag R.STK_STAT_RUNNING = true → Answers (.strokeBoundary w env) s (fun t =>
    ∀ x ∈ t.dev.tim.outs, x.2.rise = x.2.edges t.dev.org.phase t.dev.houseNum false ∧ x.2.fall = x.2.edges t.dev.org.phase t.dev.houseNum true)) ∧
  (∀ (d : Dev) g, (d.pinAbsent g = true → d.drive g = .absent) ∧
    (d.pinAbsent g = false →
      (d.rst.kaUp = false → d.drive g = if g.bank = none then .elecIdle else .pullDown) ∧
      (d.rst.kaUp = true →
        (∀ n, g = .timeOut n → (kvGet n d.tim.outs).isSome = true → d.drive g = .running) ∧
        (∀ n, g = .tdmClk n → (d.line false n).valid = true → tSlave (d.line false n).desc = false → d.drive g = .running) ∧
        (∀ n, g = .tdmOut n → (d.line false n).valid = true → (d.line false n).lost = false → d.pinsKeep = true → d.drive g = .idle)))) ∧
  ∀ s w p, Running s → s.dev.rst.kaUp = true →
    (∀ g o frames ws, s.dev.obj S.GROUPS g = some o → grTx o = false → s.dev.groupLine o = (false, p) → (s.dev.line false p).valid = true →
      (s.dev.line false p).ext false = false → (s.dev.line false p).lost = false → s.dev.isolated (.tdm p) = false →
      (s.dev.line false p).first < (s.dev.pushStroke (s.dev.line false p) false p o + 1) * (s.dev.line false p).f false →
      smpItems ((s.dev.line false p).f false) (grCount o) (fun k j =>
        slotSmp (grLaw o) ((s.dev.line false p).b false) ((frames.getD k []).getD j (idleSlot (grLaw o)) % 2 ^ 32)) = [ws.map TWord.toW] →
      Answers (.tdmRxPush w g frames) s (fun t => exec (.push w (grQueue o) ws false) s = .next t)) ∧
    (∀ fs phase nominal slots, bit s.dev.rst.banks.toNat (p / 16) = true → (s.dev.line false p).frameAt false s.dev.org.num fs = (nominal, phase) → (s.dev.line false p).valid = true → (s.dev.line false p).ext false = true → (s.dev.line false p).lost = false →
      s.dev.isolated (.tdm p) = false → (s.dev.line false p).first ≤ nominal → kvGet nominal (s.dev.line false p).rx = none →
      (s.dev.line false p).txDone.contains nominal = false →
      Answers (.slaveFrameRx w false p fs slots) s (fun t =>
        kvGet nominal (t.dev.line false p).rx = some (slots.map (· % 2 ^ 32)) ∧ t.dev.get (R.TDM_PHASE_P p) = fieldOf 32 phase ∧
        t.dev.get (R.TDM_STAT_LOCK p) = b2n (decide (phase.natAbs * (s.dev.line false p).f false ≤ 250000)) ∧
        t.dev.reply.words = (s.dev.lineFrame false p nominal).map (BitVec.ofNat 32) ∧
        Keeps s t [R.TDM_PHASE_P p, R.TDM_STAT_LOCK p, R.TDM_STAT_CLK_OK p] ∧ RaisesJust s t [])) ∧
    (∀ fs phase nominal chans, bit s.dev.rst.banks.toNat 2 = true → (s.dev.line true p).frameAt true s.dev.org.num fs = (nominal, phase) → (s.dev.line true p).valid = true → (s.dev.line true p).rxOn true = true → (s.dev.line true p).lost = false →
      chans.length ≤ (s.dev.line true p).n true → s.dev.isolated (.madi p) = false → (s.dev.line true p).first ≤ nominal →
      kvGet nominal (s.dev.line true p).rx = none →
      Answers (.madiFrameRx w p fs false chans) s (fun t =>
        kvGet nominal (t.dev.line true p).rx = some (chans.map madiSlot) ∧ t.dev.get (R.MADI_PHASE_P p) = fieldOf 32 phase ∧
        t.dev.get (R.MADI_CNT_COUNT p 2) = min (s.dev.get (R.MADI_CNT_COUNT p 2) + (chans.filter (fun c => !c.parityOk)).length) (2 ^ 32 - 1) ∧
        (chans.any (fun c => !c.parityOk) = true → t.dev.get (R.MADI_STAT_PARITY p) = 1))) ∧
    (∀ madi, (s.dev.line madi p).valid = true → (s.dev.line madi p).ext madi = true → (s.dev.line madi p).lost = false →
      Answers (.lineLost w madi p) s (fun t =>
        t.dev.get (if madi then R.MADI_STAT_LINE_LOST p else R.TDM_STAT_LINE_LOST p) = 1 ∧ t.dev.get (if madi then R.MADI_STAT_LOCK p else R.TDM_STAT_LOCK p) = 0 ∧
        Leaves s t w (if madi then [R.MADI_STAT_LINE_LOST p, R.MADI_STAT_LOCK p, R.MADI_CNT_COUNT p 3, R.MADI_STAT_CLK_OK p]
            else [R.TDM_STAT_LINE_LOST p, R.TDM_STAT_LOCK p, R.TDM_CNT_COUNT p 2, R.TDM_STAT_CLK_OK p]) [E.LINE_LOST]
          (fun d => d.setLine madi p { d.line madi p with lost := true, back := 0, csIn := [] }))) ∧
    (∀ c o, c < 4 → s.dev.obj S.BSD c = some o → bit o 1 = true → s.dev.ports.bsdBad.contains c = false → s.dev.isolated .bsd = false →
      Answers (.bsdFault w c) s (fun t =>
        t.dev.get (R.BSD_CNT_COUNT c) = plus1 (s.dev.get (R.BSD_CNT_COUNT c)) ∧ t.dev.ports.bsdBad.contains c = true ∧
        Keeps s t [R.BSD_CNT_COUNT c, R.BSD_STAT_CLK_OK, R.BSD_STAT_IN_OK] ∧
        RaisesJust s t (if s.dev.once.contains E.BSD_FAULT then [] else [E.BSD_FAULT])))

/-! ### Calibration -/

/-- R395, R551, R559, R562, R566: an adjustment point while the origin is stopped takes up the clock commands that wait; RUN while an image is active requests its targets, and else waits for a
window; READ shows a target's record; PERIOD_S requests a target whose record is valid. -/
def Obligations.CalibrationRequests : Prop :=
  ∀ s w,
    (∀ env f, Running s → s.dev.rst.kaUp = true → s.dev.flag R.STK_STAT_RUNNING = false → s.dev.cal.win = none → s.dev.tim.locked = true → (s.dev.at w).tim.adjTick = true →
      s.dev.tim.adjC ≠ some (s.dev.at w).tim.c → s.dev.tim.cmds = [.freq f] →
      Answers (.adjustmentPoint w env) s (fun t => t.dev.tim.cmds = [] ∧ t.dev.tim.f = f ∧ t.dev.tim.adjC = some (s.dev.at w).tim.c)) ∧
    (∀ req m, Ready s req → (s.dev.at w).busy C.cal = false → s.dev.get R.CAL_ARG_MASK = m →
      ((s.dev.at w).oper req = true → m ≠ 0 → s.dev.cal.win = none →
        (s.dev.img.active.isSome = true → Answers (.calRun w req) s (fun t =>
          (∀ k, k < 6 → bit (t.dev.get R.CAL_STAT_REQ) k = (bit (s.dev.get R.CAL_STAT_REQ) k || bit m k)) ∧
          Leaves s t w [R.CAL_STAT_REQ] [E.CAL_CMD_DONE] id)) ∧
        (s.dev.img.active = none → s.dev.cal.runPend = none → m < 64 → Answers (.calRun w req) s (fun t =>
          Leaves s t w [] [E.CAL_CMD_DONE] (fun d => d.onCal (fun x => { x with runPend := some (BitVec.ofNat 6 m) }))))) ∧
      (∀ k r, s.dev.get R.CAL_IDX_TGT = k → k ≤ 5 → kvD s.dev.cal.recs k {} = r → Answers (.calRead w req) s (fun t =>
        t.dev.get (R.CAL_DATA_D 0) = fieldOf 16 r.tRec + r.vRec % 2 ^ 16 * 2 ^ 16 ∧
        t.dev.get (R.CAL_DATA_D 2) = r.stroke % 2 ^ 32 ∧ t.dev.get (R.CAL_DATA_D 3) = r.stroke / 2 ^ 32 % 2 ^ 32 ∧
        Leaves s t w ((List.range 4).map R.CAL_DATA_D) [E.CAL_CMD_DONE] id))) ∧
    (∀ k, Running s → k ≤ 5 → (s.dev.at w).periodOver k = true → Answers (.calPeriodRequest w k) s (fun t =>
      bit (t.dev.get R.CAL_STAT_REQ) k = true ∧ (∀ j, j < 6 → j ≠ k → bit (t.dev.get R.CAL_STAT_REQ) j = bit (s.dev.get R.CAL_STAT_REQ) j) ∧
      Leaves s t w [R.CAL_STAT_REQ] [] id))

/-- R551, R556 to R560, R564: a window of a RUN that waits opens with IREF ahead of its targets; its last check sets CAL_XRES_MV and aborts it where a precondition fails; a
window that has run its length commits its targets' records and closes; the ageing check marks a record that has aged and fires CAL_AGED, and waits while a window is open; the
monitors publish their readings. -/
def Obligations.CalibrationWindow : Prop :=
  ∀ s w, Running s →
    (∀ env m, s.dev.cal.win = none → s.dev.quietOk = false → s.dev.cal.runPend = some m → Answers (.calStart w env) s (fun t =>
      t.dev.cal.win.map CalWin.targets = some (0 :: calWanted m.toNat) ∧ t.dev.cal.runPend = none ∧ t.dev.get R.CAL_STAT_RUNNING = 1 ∧ Raised t E.CAL_START)) ∧
    (∀ env, s.dev.calLast = true → Answers (.calLastCheck w env) s (fun t =>
      t.dev.get R.CAL_XRES_MV = env.xres % 2 ^ 16 ∧
      ((s.dev.at w).calFails env true = 0 → Leaves s t w [R.CAL_XRES_MV] [] id) ∧
      ((s.dev.at w).calFails env true ≠ 0 →
        Leaves s t w [R.CAL_XRES_MV, R.CAL_STAT_PRECOND] [E.CAL_PRECOND] (fun d => d.onCal (fun x => { x with abortPend := true }))))) ∧
    (∀ x codes hot vdd, s.dev.cal.win = some x → s.dev.cal.abortPend = false → x.len ≤ x.done → Answers (.calCommit w codes hot vdd) s (fun t =>
      t.dev.cal.win = none ∧ t.dev.get R.CAL_STAT_RUNNING = 0 ∧ t.dev.get R.CAL_STAT_DEFAULTS = 0 ∧ Raised t E.CAL_DONE ∧
      (∀ k ∈ x.targets, kvGet k t.dev.cal.recs = some ((s.dev.at w).calRecord hot vdd)) ∧
      (∀ k, k ∉ x.targets → kvGet k t.dev.cal.recs = kvGet k s.dev.cal.recs))) ∧
    (s.dev.flag R.STK_STAT_RUNNING = true → s.dev.org.num % 1024 = 0 →
      (s.dev.cal.win.isSome = true → Answers (.ageingCheck w) s (fun t => Leaves s t w [] [] (fun d => d.onCal (fun x => { x with ageLate := true })))) ∧
      (∀ k, k < 6 → s.dev.cal.win = none → bit (s.dev.get R.CAL_STAT_AGED) k = false →
        (kvD s.dev.cal.recs k {}).ages (signedOf 16 (s.dev.get R.CAL_TMAX_T)) (s.dev.get (R.CAL_VOLT_MV 0)) = true →
        Answers (.ageingCheck w) s (fun t => bit (t.dev.get R.CAL_STAT_AGED) k = true ∧ Raised t E.CAL_AGED))) ∧
    (∀ temps volts, s.dev.monHeld = false → Answers (.monitorSample w temps volts) s (fun t =>
      (∀ k (h : k < temps.length), k < 8 → t.dev.get (R.CAL_TEMP_T k) = fieldOf 16 temps[k]) ∧
      (∀ k (h : k < volts.length), k < 10 → t.dev.get (R.CAL_VOLT_MV k) = volts[k] % 2 ^ 16) ∧ t.otp = s.otp))

/-! ### Reset and power -/

/-- R512, R514, R515, R518, R528, R543, R546, R621: POR, by a supply that lies below its threshold for 1 µs, and a cold pin reset return every field but those of the backup domain to its Reset value, and zero the reservoir; a warm pin reset
returns only those of the main domain, and the clock and the reservoir stay; the loss of VBAT returns the backup domain's. When the last of the two ends, both domains are released, core 0
runs, and the reset counts. -/
def Obligations.Resets : Prop :=
  ∀ s w,
    (∀ u level ns, 1000 ≤ ns → (u = .core ∧ level < 660 ∨ u = .sram ∧ level < 700 ∨ u = .serdes ∧ level < 900 ∨
        ∃ b, u = .vddio b ∧ bit s.dev.rst.banks.toNat b = true ∧ level < 1550) → Answers (.porAssert ⟨w, u, level, ns⟩) s (fun t =>
      (∀ f, evFree f → f.kept ≠ .backup → t.dev.get f = f.reset % 2 ^ 32) ∧ t.dev.qf.res = [] ∧ t.dev.rst.por = true ∧ t.dev.rst.mainUp = false ∧
      t.dev.rst.kaUp = false ∧ t.pending = s.pending ∧ t.jtag = s.jtag)) ∧
    (∀ u level ns, s.dev.evs = [] → ns < 1000 → Answers (.porAssert ⟨w, u, level, ns⟩) s (fun t => Leaves s t w [] [] id)) ∧
    (s.dev.rst.por = false → s.dev.rst.pin = false → ∀ keep, Answers (.rstNAssert w keep) s (fun t =>
      t.dev.rst.pin = true ∧ t.dev.rst.mainUp = false ∧ t.pending = s.pending ∧ t.jtag = s.jtag ∧ (∀ f, evFree f → f.kept = .main → t.dev.get f = f.reset % 2 ^ 32) ∧
      (keep = false → (∀ f, evFree f → f.kept = .keep → t.dev.get f = f.reset % 2 ^ 32) ∧ t.dev.get R.RST_CAUSE_KIND = 1 ∧ t.dev.qf.res = []) ∧
      (keep = true → s.dev.flag R.RST_STAT_KA_VALID = true →
        t.dev.rst.kaUp = s.dev.rst.kaUp ∧ t.dev.get R.RST_CAUSE_KIND = 2 ∧ t.dev.qf.res = s.dev.qf.res ∧ t.dev.tim.t = (s.dev.at w).tim.t ∧
        t.dev.tim.c = (s.dev.at w).tim.c))) ∧
    (∀ boot c, c = .porRelease w boot ∧ bit boot.banks.toNat 3 = true ∧ s.dev.rst.por = true ∧ s.dev.rst.pin = false ∨ c = .rstNRelease w boot ∧ s.dev.rst.pin = true ∧ s.dev.rst.por = false →
      Answers c s (fun t => t.dev.rst.por = false ∧ t.dev.rst.pin = false ∧ t.dev.rst.kaUp = true ∧ t.dev.rst.mainUp = true ∧ t.dev.rst.fwUp = true ∧
        t.otp.zones = s.otp.zones ∧ t.dev.get R.RST_COUNT_COUNT = min (s.dev.get R.RST_COUNT_COUNT + 1) (2 ^ 16 - 1) ∧
        (s.dev.rst.kaUp = false → t.dev.get R.RST_STAT_KA_VALID = 1 ∧ t.dev.rst.xoUs = 0))) ∧
    (Running s → s.dev.rst.vdd = true → Answers (.vbatPor w) s (fun t =>
      (∀ f, evFree f → f.kept = .backup ∨ f.kept = .backupC → t.dev.get f = f.reset % 2 ^ 32) ∧
      (∀ f, evFree f → f.kept = .keep ∨ f.kept = .main → t.dev.get f = s.dev.get f) ∧ t.dev.sec.head = 0 ∧ t.dev.sec.seq = 0 ∧ Raised t E.BKUP_LOST))

/-- R523, R531, R535, R536, R540, R541, R545: START_OK clears the reset counter, RES_SCRUB runs the scrub and its end clears RES_UNVER; RECOVER_NEXT asks for recovery and is audited; D0, D1 and
D2 wait for the boundary; a kick restarts the watchdog, whose warning fires at three quarters of its timeout and whose expiry at the timeout, while it is enabled; the expiry restarts the count and drives WDOG_N
for WDOG_PULSE ms, through every reset (R537). -/
def Obligations.ResetCommands : Prop :=
  ∀ s w, (Open s w .fw C.rst .fwOnly →
      Answers (.startOk w .fw) s (fun t => t.dev.get R.RST_COUNT_COUNT = 0 ∧ Leaves s t w [R.RST_COUNT_COUNT] []
        (fun d => d.onRst (fun r => { r with startWas := some (d.get R.RST_COUNT_COUNT, d.busyStamp) }))) ∧
      (s.dev.flag R.RST_STAT_SCRUB_BUSY = false → Answers (.resScrub w .fw) s (fun t =>
        t.dev.get R.RST_STAT_SCRUB_BUSY = 1 ∧ Leaves s t w [R.RST_STAT_SCRUB_BUSY] [] id)) ∧
      (s.dev.audFree = true → Answers (.recoverNext w .fw) s (fun t => t.dev.get R.RST_STAT_RECOV_NEXT = 1 ∧ t.dev.sec.seq = s.dev.sec.seq + 1 ∧
        Keeps s t [R.RST_STAT_RECOV_NEXT, R.SEC_AUD_STAT_LOST]))) ∧
    (∀ req c st, Open s w req C.rst .oper → (c, st) ∈ [(Instr.pwrD0 w req, (0 : BitVec 2)), (.pwrD1 w req, 1), (.pwrD2 w req, 2)] →
      s.dev.flag R.RST_STAT_RECOVERY = false → (st = 2 → s.dev.get R.STK_IMG_STAT_SHADOW ≠ 1 ∧ s.dev.get R.STK_IMG_STAT_SHADOW ≠ 3) →
      Answers c s (fun t => t.dev.get R.RST_PWR_PEND = 1 ∧ Leaves s t w [R.RST_PWR_PEND] [] (fun d => d.onRst (fun r => { r with pwrPend := some st })))) ∧
    (Ready s .fw → ∀ v : Word, bits v.toNat 0 16 = 0xA5C3 → Answers (.wdogKick w .fw v) s (fun t => t.dev.get R.RST_WDOG_CTL_WARNED = 0 ∧
      Leaves s t w [R.RST_WDOG_CTL_WARNED] [] (fun d => d.onRst (fun r => { r with
        wdogMs := max 1 (s.dev.get R.RST_WDOG_CTL_TIMEOUT), wdogAt := d.xoNs, wdogWarned := false })))) ∧
    (Running s →
      (s.dev.flag R.RST_STAT_SCRUB_BUSY = true → Answers (.resScrubDone w [] []) s (fun t =>
        t.dev.get R.RST_STAT_SCRUB_BUSY = 0 ∧ t.dev.get R.RST_STAT_RES_UNVER = 0 ∧ Raised t E.RES_SCRUB_DONE ∧
        (s.dev.qf.resUe = [] → s.dev.qf.resCe = [] → Leaves s t w [R.RST_STAT_SCRUB_BUSY, R.RST_STAT_RES_UNVER] [E.RES_SCRUB_DONE] id))) ∧
      ∀ k, s.dev.flag R.RST_WDOG_CTL_EN = true → k = ((s.dev.at w).xoNs - s.dev.rst.wdogAt) / 10 ^ 6 →
        (s.dev.rst.wdogWarned = false → 3 * s.dev.rst.wdogMs ≤ 4 * k → Answers (.wdogWarn w) s (fun t => t.dev.get R.RST_WDOG_CTL_WARNED = 1 ∧
          Leaves s t w [R.RST_WDOG_CTL_WARNED] [E.WDOG_WARN] (fun d => d.onRst (fun r => { r with wdogWarned := true })))) ∧
        (s.dev.rst.wdogMs ≤ k → Answers (.wdogExpire w) s (fun t => Leaves s t w [] [E.WDOG_EXPIRE] (fun d => d.onRst (fun r =>
          { r with wdogN := true, wdogLeft := d.wdogPulse * 10 ^ 6, wdogAt := d.xoNs, wdogWarned := false }))))) ∧
    (s.dev.evs = [] → Answers (.wdogPulseEnd w) s (fun t => Leaves s t w [] [] (fun d => if s.dev.rst.wdogLeft ≤ w.ticks then d.onRst (fun r => { r with wdogN := false }) else d)))

/-- R35, R121, R267, R269, R456, R520, R521, R538, R644: a block-reset bit asks for the reset; the isolation cycle isolates that block alone; the release is asked for by the bit's 0 and made when the clock is
there, and until then BLOCK_HELD tells; ISO_RETURN_DONE fires once; a waking cell comes up with its memory zero but for the code that a load
has placed in it; a DCO that loses lock halts every cell. -/
def Obligations.BlockResets : Prop :=
  ∀ s w,
    (∀ req, Ready s req → (s.dev.at w).oper req = true →
      (∀ v : Word, (∀ b ∈ brstBlks, s.dev.isolated b = false) → Answers (.rstBrstWrite w req v) s (fun t =>
        (∀ k, k < 5 ∨ k = 13 ∨ 5 ≤ k ∧ k < 9 → bit (t.dev.get R.RST_BRST_BRST) k = bit v.toNat k) ∧ t.dev.rst.inRst = s.dev.rst.inRst ∧
        Keeps s t [R.RST_BRST_BRST] ∧ RaisesJust s t [])) ∧
      (∀ n, n < 64 →
        Answers (.cellBrstSet w req n) s (fun t => t.dev.get (R.CELL_CTL_BRST n) = 1 ∧
          Leaves s t w [R.CELL_CTL_BRST n] [] (fun d => d.onRst (fun r => { r with relPend := r.relPend.filter (· != .cell n) }))) ∧
        (s.dev.isolated (.cell n) = true → s.dev.flag R.RST_STAT_RECOVERY = false → s.dev.flag (R.CELL_CTL_BRST n) = true →
          Answers (.cellBrstRelease w req n) s (fun t =>
            t.dev.get (R.CELL_CTL_BRST n) = 0 ∧ t.dev.rst.relPend.contains (.cell n) = true ∧
            (∀ a, kvD (t.dev.cell n).lm a 0 =
              if a < 64 ∨ cCodeBase (s.dev.objD S.CELLS n) ≤ a then kvD (s.dev.cell n).lm a 0 else 0) ∧
            (∀ m, m ≠ n → t.dev.cell m = s.dev.cell m) ∧ Keeps s t [R.CELL_CTL_BRST n] ∧ RaisesJust s t []))) ∧
      (∀ p (v : Word), p < 32 → bit v.toNat 0 = true → Answers (.tdmBrst w req false p v) s (fun t => t.dev.get (R.TDM_CTL_BRST p) = 1 ∧
        Leaves s t w [R.TDM_CTL_BRST p] [] (fun d => d.onRst (fun r => { r with relPend := r.relPend.filter (· != .tdm p) }))))) ∧
    (Running s →
      (∀ b flits reqs, blkOk b = true → s.dev.brstBit b = true → s.dev.isolated b = false → Answers (.isolation w b flits reqs) s (fun t =>
        t.dev.reply.flag = decide (0 < reqs) ∧ t.dev.reply.value = reqs ∧
        t.dev.isolated b = true ∧ (∀ x, x ≠ b → t.dev.isolated x = s.dev.isolated x) ∧ t.dev.brstBit b = true ∧ t.otp = s.otp)) ∧
      (∀ b, s.dev.isolated b = true → s.dev.rst.isoDone.contains b = false → s.dev.flag R.RST_STAT_RECOVERY = false →
        Answers (.isoReturnDone w b) s (fun t => Leaves s t w (match b with
          | .cell n => [R.CELL_STAT_ISO_DONE n]
          | _ => []) [E.ISO_RETURN_DONE] (fun d => d.onRst (fun r => { r with isoDone := r.isoDone ++ [b] })))) ∧
      (∀ b, s.dev.rst.relPend.contains b = true →
        Answers (.blockRelease w (.blk b)) s (fun t =>
          t.dev.isolated b = false ∧ t.dev.rst.relPend.contains b = false ∧ ∀ x, x ≠ b → t.dev.isolated x = s.dev.isolated x) ∧
        (blkOk b = true → Answers (.blockHeld w (.blk b)) s (fun t => t.dev.halted b = true ∧ Raised t E.BLOCK_HELD))) ∧
      (∀ u, u = .ddr false ∨ u = .ddr true ∨ u = .pcie ∨ u = .tick →
        Answers (.blockRelease w u) s (fun t => t.dev.get (unitFld u) = 0 ∧ Leaves s t w [unitFld u] [] (fun d => d.onRst (fun r => { r with unitBad := r.unitBad.filter (· != u) }))) ∧
        (s.dev.rst.unitBad.contains u = true → Answers (.blockHeld w u) s (fun t => t.dev.get (unitFld u) = 1 ∧ Leaves s t w [unitFld u] [E.BLOCK_HELD] id))) ∧
      (∀ n, n < 64 → s.dev.get (R.CELL_STAT_PWR n) = 3 → Answers (.wakeDone w n) s (fun t =>
        t.dev.get (R.CELL_STAT_PWR n) = 0 ∧
        (∀ a, (∀ e ∈ (s.dev.cell n).code, ∀ r ∈ e.runs, a < r.1 ∨ r.1 + r.2 ≤ a) → kvD (t.dev.cell n).lm a 0 = 0) ∧ t.dev.get (R.CELL_EVT_STAT_WAKE_DONE n) = 1 ∧
        (∀ m, m ≠ n → t.dev.cell m = s.dev.cell m) ∧ t.dev.qf = s.dev.qf)) ∧
      (s.dev.rst.kaUp = true → Answers (.dcoLossOfLock w) s (fun t =>
        (∀ n, n < 64 → t.dev.halted (.cell n) = true) ∧ t.dev.rst.inRst = s.dev.rst.inRst ∧ Keeps s t [] ∧ RaisesJust s t [])))

/-! ### The image -/

/-- R492, R495, R496, R507, R508: LOAD begins a load, ABORT ends it with code 12; CHANGEOVER of a READY shadow arms it for a stroke to come and is MISSED for one that has begun; DISARM and DISCARD
take it back; a read of STK_IMG_LAST_LO latches the high word. -/
def Obligations.ImageCommands : Prop :=
  ∀ s w req, Ready s req →
    Answers (.imgLastRead w req) s (fun t => t.dev.reply.words = [BitVec.ofNat 32 (s.dev.get R.STK_IMG_LAST_LO_N)] ∧
      Leaves s t w [] [] (fun d => { d with img := { d.img with lastLatch := some (BitVec.ofNat 32 (s.dev.get R.STK_IMG_LAST_HI_N)) } })) ∧
    ((s.dev.at w).oper req = true → (s.dev.at w).busy C.img = false → ∀ st, s.dev.get R.STK_IMG_STAT_SHADOW = st →
      (st = 0 ∨ st = 4 → s.dev.flag R.RST_STAT_RECOVERY = false → s.dev.audFree = true → (∀ n, n < 64 → s.dev.get (R.CELL_STAT_PWR n) ≠ 2) →
        Answers (.imgLoad w req) s (fun t => t.dev.get R.STK_IMG_STAT_SHADOW = 1 ∧
          Leaves s t w [R.STK_IMG_STAT_SHADOW] [] (fun d => { d with
            img := { d.img with src := s.dev.get R.STK_IMG_SRC_LO_A + s.dev.get R.STK_IMG_SRC_HI_A * 2 ^ 32, len := s.dev.get R.STK_IMG_LEN_BYTES }
            sec := { d.sec with audRes := true } }))) ∧
      (st = 1 → Answers (.imgAbort w req) s (fun t =>
        t.dev.get R.STK_IMG_STAT_SHADOW = 4 ∧ t.dev.get R.STK_IMG_STAT_LOAD_CODE = 12 ∧ t.dev.img = s.dev.img ∧ Raised t E.IMG_LOAD_ERR ∧
        Keeps s t ([R.STK_IMG_STAT_SHADOW, R.STK_IMG_STAT_LOAD_CODE, R.STK_IMG_ERR_SECTION, R.STK_IMG_ERR_OFS_OFS, R.SEC_AUD_STAT_LOST] ++ (List.range 64).map R.CELL_STAT_PWR) ∧
        (s.dev.get R.RST_PWR_STATE ≠ 1 → ∀ n, n < 64 → t.dev.get (R.CELL_STAT_PWR n) = s.dev.get (R.CELL_STAT_PWR n)))) ∧
      (st = 2 → s.dev.flag R.STK_STAT_RUNNING = true →
        (s.dev.org.num < s.dev.imgStroke → Answers (.changeover w req) s (fun t => t.dev.get R.STK_IMG_STAT_SHADOW = 3 ∧
          Leaves s t w [R.STK_IMG_STAT_SHADOW] [] (fun d => { d with img := { d.img with stroke := s.dev.imgStroke } }))) ∧
        (s.dev.imgStroke ≤ s.dev.org.num → Answers (.changeover w req) s (fun t => t.dev.get R.STK_IMG_STAT_SHADOW = 2 ∧ t.dev.get R.STK_IMG_STAT_MISSED = 1 ∧
          Raised t E.CHANGEOVER_MISSED ∧ t.dev.img = s.dev.img ∧ Keeps s t [R.STK_IMG_STAT_SHADOW, R.STK_IMG_STAT_MISSED, R.SEC_AUD_STAT_LOST]))) ∧
      (st = 3 → Answers (.imgDisarm w req) s (fun t => t.dev.get R.STK_IMG_STAT_SHADOW = 2 ∧ Leaves s t w [R.STK_IMG_STAT_SHADOW] [] id)) ∧
      (st = 2 ∨ st = 4 → s.dev.audFree = true → Answers (.imgDiscard w req) s (fun t =>
        t.dev.img = { s.dev.img with shadow := none } ∧ t.dev.get R.STK_IMG_STAT_SHADOW = 0 ∧ t.dev.get R.STK_IMG_SHD_ID_ID = 0 ∧
        t.dev.sec.seq = s.dev.sec.seq + 1)))

/-- R493, R494, R499, R508: a load whose image passes its checks leaves it as the shadow, READY, with code 0; one that a check stops leaves its code and its place; one whose bytes cannot be read ends with
code 11. At its stroke the shadow becomes the active image, and CHANGEOVER_DONE fires. -/
def Obligations.LoadAndChangeover : Prop :=
  ∀ s w, Running s →
    (s.dev.get R.STK_IMG_STAT_SHADOW = 1 →
      ((((s.dev.at w).imgWords s.dev.img.src (ceilDiv s.dev.img.len 9)).1 = none) → Answers (.imgLoadEnd w) s (fun t =>
        t.dev.get R.STK_IMG_STAT_SHADOW = 4 ∧ t.dev.get R.STK_IMG_STAT_LOAD_CODE = 11 ∧ t.dev.img = s.dev.img ∧ Raised t E.IMG_LOAD_ERR)) ∧
      (∀ ws d, (s.dev.at w).imgWords s.dev.img.src (ceilDiv s.dev.img.len 9) = (some ws, d) →
        (∀ e d', d.imgCheck ((wordBytes ws).take s.dev.img.len) s.dev.img.len = (.error e, d') → 0 < e.code → Answers (.imgLoadEnd w) s (fun t =>
          t.dev.get R.STK_IMG_STAT_SHADOW = 4 ∧ t.dev.get R.STK_IMG_STAT_LOAD_CODE = e.code % 16 ∧ t.dev.get R.STK_IMG_ERR_SECTION = e.sec % 256 ∧
          t.dev.get R.STK_IMG_ERR_OFS_OFS = e.ofs % 2 ^ 32 ∧ t.dev.img = s.dev.img ∧ Raised t E.IMG_LOAD_ERR)) ∧
        (∀ m d', d.imgCheck ((wordBytes ws).take s.dev.img.len) s.dev.img.len = (.ok m, d') → Answers (.imgLoadEnd w) s (fun t =>
          t.dev.get R.STK_IMG_STAT_SHADOW = 2 ∧ t.dev.get R.STK_IMG_STAT_LOAD_CODE = 0 ∧ t.dev.img = { s.dev.img with shadow := some m.bank } ∧
          t.dev.get R.STK_IMG_SHD_ID_ID = m.bank.id % 2 ^ 32 ∧ Raised t E.IMG_LOAD_DONE)))) ∧
    (∀ b, s.dev.coDue (s.dev.org.num + 1) = true → s.dev.img.shadow = some b → Answers (.changeoverBoundary w) s (fun t =>
      t.dev.img.active = some b ∧ t.dev.img.shadow = none ∧ t.dev.get R.STK_IMG_STAT_SHADOW = 0 ∧ t.dev.get R.STK_IMG_STAT_ACTIVE = 1 ∧
      t.dev.get R.STK_IMG_ACT_ID_ID = b.id % 2 ^ 32 ∧ t.dev.get R.STK_IMG_LAST_LO_N = (s.dev.org.num + 1) % 2 ^ 32 ∧ t.dev.org.num = s.dev.org.num ∧
      Raised t E.CHANGEOVER_DONE))

/-! ### The whole block -/

/-- A step runs exactly the command at the front of the queue, on the state whose queue is the rest; on an empty queue the block idles (the model's choice, log entry 10). -/
def Obligations.StepTakesFront : Prop :=
  (∀ c s, step { s with pending := c :: s.pending } = exec c s) ∧ ∀ s, s.pending = [] → step s = .next s

/-- No command stops the block, whatever the state, and none touches the queue: as many steps as wait empty it, in order, and answer a state. -/
def Obligations.QueueDrains : Prop :=
  ∀ k (s : State), ∃ t : State, Host.Core.run Sys2Proof.core k s = .next t ∧ t.pending = s.pending.drop k

/-- Every step keeps the invariant: no event is left over, and the OTP has its eight zones. -/
def Obligations.StepKeepsInv : Prop := ∀ s t, s.Inv → step s = .next t → t.Inv

/-- R11, R584, R638: after reset every register field holds its Reset value, the queue is empty, the installer and operator zones of the OTP are blank, the maker zones are not, the key store holds a key, and
the invariant of StepKeepsInv holds. What the maker zones and the key store hold is free, and that the domains are released is the model's choice (log entries 4 and 5). -/
def Obligations.ResetState : Prop :=
  (∀ f, f.reset < 2 ^ 32 → State.reset.dev.get f = f.reset) ∧ State.reset.pending = [] ∧ (∀ z, 3 ≤ z → z < 8 → State.reset.otp.zones[z]? = some 0) ∧
    (∀ z, z < 3 → ∃ x, State.reset.otp.zones[z]? = some x ∧ x ≠ 0) ∧ State.reset.otp.keyStore.isSome = true ∧ State.reset.Inv

/-- R524, R583, R584, R598: the key store, once it holds a key, holds it for ever; and only the completion of a WRITE_OTP, a reset that cuts one short, a start and entry to D2 change the OTP. -/
def Obligations.OtpChanges : Prop :=
  ∀ c s t, exec c s = .next t →
    (∀ k, s.otp.keyStore = some k → t.otp.keyStore = some k) ∧
    (t.otp = s.otp ∨ ∃ w, (∃ ok, c = .secCmdDone w ok) ∨ (∃ x, c = .porAssert x) ∨ (∃ b, c = .porRelease w b ∨ c = .rstNRelease w b) ∨ (∃ k, c = .rstNAssert w k) ∨
      ∃ e, c = .strokeBoundary w e)

/-- R572, R573, R640, R647: a command of a register that is busy is refused with code 2, one by a requester without the right with code 3, counted in SEC_CNT[0]; ERR is set, the register's
error event fires where it has one, and nothing else happens. While the main domain is in reset a command does nothing (the model's choice, log entry 11). -/
def Obligations.CommandsRefused : Prop :=
  ∀ s w req q i c r, (i, c, r) ∈ cmdTable w req q →
    (Ready s req → (s.dev.at w).may req r = true → (s.dev.at w).busy c = true → Answers i s (fun t =>
      t.dev.get c.err = 1 ∧ t.dev.get c.code = 2 ∧ Leaves s t w ([c.err, c.code] ++ (if c = C.qf then [R.QF_QCMD_Q] else [])) c.evErr.toList id)) ∧
    (Ready s req → (s.dev.at w).may req r = false → Answers i s (fun t =>
      t.dev.get c.err = 1 ∧ t.dev.get c.code = 3 ∧ t.dev.get (R.SEC_CNT_COUNT 0) = plus1 (s.dev.get (R.SEC_CNT_COUNT 0)) ∧
      Leaves s t w [R.SEC_CNT_COUNT 0, c.err, c.code] c.evErr.toList id)) ∧
    (s.dev.evs = [] → s.dev.rst.mainUp = false → Answers i s (fun t => Leaves s t w [] [] id))

/-- The reservoir and the management SRAM stay in their canonical form under the commands that bytes and items enter them by: strictly rising addresses and no entry equal to what an
unlisted one reads as. -/
def Obligations.MemoryStaysCanonical : Prop :=
  ∀ s w, Memory.wf 0 s.dev.qf.res = true → Memory.wf 0 s.dev.cores.sram = true →
    ∀ c, (∃ q ws p, c = .push w q ws p) ∨ (∃ q f, c = .pop w q f) ∨ (∃ q, c = .flushApply w q) ∨ (∃ o l, c = .hostDataWrite w o l) ∨
      (∃ core a n, c = .coreAccess w core [] a n []) ∨
        (∃ (core a : Nat) (l : List Byte), l ≠ [] ∧ inRow 0x80000000 0x400000 a l.length = true ∧ c = .coreAccess w core [] a l.length l) →
      Answers c s (fun t => Memory.wf 0 t.dev.qf.res = true ∧ Memory.wf 0 t.dev.cores.sram = true)
end

