-- ==== Sys2Proof/Laws/Kv.lean ====
section
/-! SUPPORT. What the operations on sparse maps do, and that they keep the canonical form. -/

namespace Sys2Proof.Machine

theorem kvGet_kvSet_self {α : Type} (k : Nat) (v : α) (m : Kv α) : kvGet k (kvSet k v m) = some v := by
  induction m with
  | nil => simp [kvSet, kvGet]
  | cons a r ih => obtain ⟨i, x⟩ := a; grind [kvSet, kvGet]

theorem kvGet_kvSet_ne {α : Type} {k j : Nat} (h : j ≠ k) (v : α) (m : Kv α) : kvGet j (kvSet k v m) = kvGet j m := by
  induction m with
  | nil => grind [kvSet, kvGet]
  | cons a r ih => obtain ⟨i, x⟩ := a; grind [kvSet, kvGet]

theorem kvGet_kvDel_self {α : Type} (k : Nat) (m : Kv α) : kvGet k (kvDel k m) = none := by
  induction m with
  | nil => rfl
  | cons a r ih => obtain ⟨i, x⟩ := a; grind [kvDel, kvGet]

theorem kvGet_kvDel_ne {α : Type} {k j : Nat} (h : j ≠ k) (m : Kv α) : kvGet j (kvDel k m) = kvGet j m := by
  induction m with
  | nil => rfl
  | cons a r ih => obtain ⟨i, x⟩ := a; grind [kvDel, kvGet]

/-- A read after a write to the same key gives the value written. -/
theorem kvD_kvPut_self {α : Type} [DecidableEq α] (d : α) (k : Nat) (v : α) (m : Kv α) : kvD (kvPut d k v m) k d = v := by
  unfold kvPut kvD
  split
  · rename_i h; simp [kvGet_kvDel_self, h]
  · simp [kvGet_kvSet_self]

/-- A write leaves every other key alone. -/
theorem kvD_kvPut_ne {α : Type} [DecidableEq α] {k j : Nat} (h : j ≠ k) (d e : α) (v : α) (m : Kv α) :
    kvD (kvPut d k v m) j e = kvD m j e := by
  unfold kvPut kvD
  split
  · rw [kvGet_kvDel_ne h]
  · rw [kvGet_kvSet_ne h]

theorem kvD_kvSet_self {α : Type} (k : Nat) (v d : α) (m : Kv α) : kvD (kvSet k v m) k d = v := by
  simp [kvD, kvGet_kvSet_self]

theorem kvD_kvSet_ne {α : Type} {k j : Nat} (h : j ≠ k) (v d : α) (m : Kv α) : kvD (kvSet k v m) j d = kvD m j d := by
  simp [kvD, kvGet_kvSet_ne h]

/-- The first key of a map. -/
def headKey {α : Type} (m : Kv α) : Option Nat := m.head?.map Prod.fst

theorem kvSorted_cons {α : Type} (a : Nat) (x : α) (m : Kv α) :
    kvSorted ((a, x) :: m) = ((headKey m).all (fun b => decide (a < b)) && kvSorted m) := by
  cases m <;> simp [kvSorted, headKey]

/-- In a map whose keys rise, every key past the first is greater. -/
theorem kvSorted_lt {α : Type} (a : Nat) (x : α) (m : Kv α) (h : kvSorted ((a, x) :: m) = true) : ∀ y ∈ m, a < y.1 := by
  induction m generalizing a x with
  | nil => simp
  | cons b r ih =>
    obtain ⟨b, y⟩ := b
    rw [kvSorted_cons] at h
    simp [headKey] at h
    intro z hz
    rcases List.mem_cons.mp hz with rfl | hz
    · exact h.1
    · exact Nat.lt_trans h.1 (ih b y h.2 z hz)

theorem headKey_kvSet {α : Type} (k : Nat) (v : α) (m : Kv α) (a : Nat) (ha : a < k) (h : (headKey m).all (fun b => decide (a < b)) = true) :
    (headKey (kvSet k v m)).all (fun b => decide (a < b)) = true := by
  cases m with
  | nil => simp [kvSet, headKey, ha]
  | cons b r => obtain ⟨b, y⟩ := b; grind [kvSet, headKey]

theorem kvSorted_kvSet {α : Type} (k : Nat) (v : α) (m : Kv α) (h : kvSorted m = true) : kvSorted (kvSet k v m) = true := by
  induction m with
  | nil => simp [kvSet, kvSorted]
  | cons b r ih =>
    obtain ⟨b, y⟩ := b
    have h' := h
    rw [kvSorted_cons] at h'
    simp only [Bool.and_eq_true] at h'
    simp only [kvSet]
    split
    · rename_i hk; rw [kvSorted_cons]; simp [headKey, hk, h]
    · split
      · rename_i hk hkb; subst hkb; rw [kvSorted_cons]; simp [h'.1, h'.2]
      · rename_i hk hkb
        rw [kvSorted_cons]
        simp only [Bool.and_eq_true]
        exact ⟨headKey_kvSet k v r b (by omega) h'.1, ih h'.2⟩

theorem mem_kvDel {α : Type} (k : Nat) (m : Kv α) (y : Nat × α) (h : y ∈ kvDel k m) : y ∈ m := by
  induction m with
  | nil => simp [kvDel] at h
  | cons b r ih => obtain ⟨b, x⟩ := b; grind [kvDel]

theorem kvSorted_kvDel {α : Type} (k : Nat) (m : Kv α) (h : kvSorted m = true) : kvSorted (kvDel k m) = true := by
  induction m with
  | nil => rfl
  | cons b r ih =>
    obtain ⟨b, x⟩ := b
    have h' := h
    rw [kvSorted_cons] at h'
    simp only [Bool.and_eq_true] at h'
    simp only [kvDel]
    split
    · exact ih h'.2
    · rw [kvSorted_cons]
      simp only [Bool.and_eq_true]
      refine ⟨?_, ih h'.2⟩
      cases hd : kvDel k r with
      | nil => simp [headKey]
      | cons c s =>
        have := kvSorted_lt b x r h c (mem_kvDel k r c (by rw [hd]; simp))
        simp [headKey, this]

theorem mem_kvSet {α : Type} (k : Nat) (v : α) (m : Kv α) (y : Nat × α) (h : y ∈ kvSet k v m) : y = (k, v) ∨ y ∈ m := by
  induction m with
  | nil => simp [kvSet] at h; exact .inl h
  | cons b r ih => obtain ⟨b, x⟩ := b; grind [kvSet]

/-- A write keeps a memory's canonical form. -/
theorem Memory.wf_kvPut {α : Type} [DecidableEq α] (d : α) (k : Nat) (v : α) (m : Kv α) (h : Memory.wf d m = true) :
    Memory.wf d (kvPut d k v m) = true := by
  unfold Memory.wf at *
  simp only [Bool.and_eq_true, List.all_eq_true, bne_iff_ne, ne_eq] at *
  unfold kvPut
  split
  · exact ⟨kvSorted_kvDel k m h.1, fun x hx => h.2 x (mem_kvDel k m x hx)⟩
  · rename_i hv
    refine ⟨kvSorted_kvSet k v m h.1, fun x hx => ?_⟩
    rcases mem_kvSet k v m x hx with rfl | hm
    · exact hv
    · exact h.2 x hm

/-- The empty memory is canonical. -/
theorem Memory.wf_nil {α : Type} [DecidableEq α] (d : α) : Memory.wf d ([] : Kv α) = true := rfl

end Sys2Proof.Machine
end

