-- ==== Sys2Proof/Laws/Regs.lean ====
section
/-! SUPPORT. Reading a register field after it, or another, was written. -/

namespace Sys2Proof.Machine

theorem RegStore.part_withPart_self (r : RegStore) (k : Kept) (m : Kv Word) : (r.withPart k m).part k = m := by cases k <;> rfl

theorem RegStore.part_withPart_ne (r : RegStore) {j k : Kept} (h : j ≠ k) (m : Kv Word) : (r.withPart k m).part j = r.part j := by
  cases j <;> cases k <;> first | rfl | exact absurd rfl h

@[simp] theorem RegStore.part_withCyc (r : RegStore) (k : Kept) (c : Cyc) : (r.withCyc c).part k = r.part k := by cases k <;> rfl

/-- A field reads what was written, reduced to its width. -/
theorem Dev.get_set_self (d : Dev) (f : Fld) (v : Nat) (h : f.width ≤ 32) : (d.set f v).get f = v % 2 ^ f.width := by
  simp only [Dev.get, Dev.set, RegStore.get, RegStore.set, RegStore.part_withCyc, RegStore.part_withPart_self, kvD_kvPut_self, BitVec.toNat_ofNat]
  exact Nat.mod_eq_of_lt (Nat.lt_of_lt_of_le (Nat.mod_lt _ (Nat.two_pow_pos _)) (Nat.pow_le_pow_right (by decide) h))

/-- A write to one field leaves a field at another place alone. -/
theorem Dev.get_set_ne (d : Dev) {f g : Fld} (v : Nat) (h : f.key ≠ g.key) : (d.set g v).get f = d.get f := by
  simp only [Dev.get, Dev.set, RegStore.get, RegStore.set, RegStore.part_withCyc]
  by_cases hk : f.kept = g.kept
  · rw [hk, RegStore.part_withPart_self, kvD_kvPut_ne h]
  · rw [RegStore.part_withPart_ne _ hk]

theorem Dev.get_set_evFree (d : Dev) {f g : Fld} (v : Nat) (hf : evFree f) (hg : evRec g.key) :
    (d.set g v).get f = d.get f := Dev.get_set_ne d v (fun h => hf (h ▸ hg))

@[simp] theorem Dev.get_markRc (d : Dev) (f g : Fld) (x n : Nat) : (d.markRc g x n).get f = d.get f := by
  simp [Dev.get, RegStore.get, Dev.markRc]

@[simp] theorem Dev.get_markHw (d : Dev) (f g : Fld) (m : Nat) : (d.markHw g m).get f = d.get f := by
  simp [Dev.get, RegStore.get, Dev.markHw]

@[simp] theorem Dev.get_onCyc (d : Dev) (f : Fld) (g : Cyc → Cyc) : (d.onCyc g).get f = d.get f := by simp [Dev.get, RegStore.get, Dev.onCyc]

theorem Dev.get_count (d : Dev) (f g : Fld) (n : Nat) : (d.count g n).get f = (d.set g (min (d.get g + n) (2 ^ g.width - 1))).get f := Dev.get_markRc ..

theorem Dev.get_count_ne (d : Dev) {f g : Fld} (n : Nat) (h : f.key ≠ g.key) : (d.count g n).get f = d.get f := by
  rw [Dev.count, Dev.get_markRc, Dev.get_set_ne d _ h]

theorem Dev.get_countMod_ne (d : Dev) {f g : Fld} (n : Nat) (h : f.key ≠ g.key) : (d.countMod g n).get f = d.get f := Dev.get_set_ne d _ h

@[simp] theorem Dev.get_ev (d : Dev) (f : Fld) (n a b c : Nat) : (d.ev n a b c).get f = d.get f := rfl

@[simp] theorem Dev.get_at (d : Dev) (f : Fld) (w : When) : (d.at w).get f = d.get f := rfl

/-- A fold of steps, each of which keeps a value, keeps it. -/
theorem Dev.each_keeps {α β : Type} (p : Dev → β) (g : Dev → α → Dev) (h : ∀ d a, p (g d a) = p d) (l : List α) (d : Dev) :
    p (d.each l g) = p d := by
  unfold Dev.each
  induction l generalizing d with
  | nil => rfl
  | cons a r ih => simp only [List.foldl_cons]; rw [ih, h]

/-! ### What settling leaves alone -/

@[simp] theorem Dev.body_set (d : Dev) (f : Fld) (v : Nat) : (d.set f v).body = d.body := rfl
@[simp] theorem Dev.body_ev (d : Dev) (n a b c : Nat) : (d.ev n a b c).body = d.body := rfl
@[simp] theorem Dev.body_count (d : Dev) (f : Fld) (n : Nat) : (d.count f n).body = d.body := rfl
@[simp] theorem Dev.body_countMod (d : Dev) (f : Fld) (n : Nat) : (d.countMod f n).body = d.body := rfl

@[simp] theorem Dev.body_markRc (d : Dev) (g : Fld) (x n : Nat) : (d.markRc g x n).body = d.body := rfl
@[simp] theorem Dev.body_markHw (d : Dev) (g : Fld) (m : Nat) : (d.markHw g m).body = d.body := rfl

@[simp] theorem Dev.body_onCyc (d : Dev) (g : Cyc → Cyc) : (d.onCyc g).body = d.body := rfl

/-- A field and the body, together. -/
def Dev.view (d : Dev) (f : Fld) : Nat × Dev := (d.get f, d.body)

theorem Dev.view_set (d : Dev) {f g : Fld} (v : Nat) (hf : evFree f) (hg : evRec g.key) :
    (d.set g v).view f = d.view f := by simp only [Dev.view, Dev.get_set_evFree d v hf hg, Dev.body_set]

@[simp] theorem Dev.view_markRc (d : Dev) (f g : Fld) (x n : Nat) : (d.markRc g x n).view f = d.view f := by simp [Dev.view]
@[simp] theorem Dev.view_markHw (d : Dev) (f g : Fld) (m : Nat) : (d.markHw g m).view f = d.view f := by simp [Dev.view]
@[simp] theorem Dev.view_onCyc (d : Dev) (f : Fld) (g : Cyc → Cyc) : (d.onCyc g).view f = d.view f := by simp [Dev.view]
theorem Dev.view_ring (d : Dev) (f : Fld) (r : Kv (BitVec 128)) : ({ d with sump := { d.sump with ring := r } } : Dev).view f = d.view f := rfl
theorem Dev.view_ev (d : Dev) (f : Fld) (n a b c : Nat) : (d.ev n a b c).view f = d.view f := rfl
theorem Dev.view_msix (d : Dev) (f : Fld) (m : Msix) : ({ d with msix := m } : Dev).view f = d.view f := rfl

/-- `p` reads nothing of the sump log: not its ring, not its registers, not what the present cycle holds. -/
def Dev.OffLog {β : Type} (p : Dev → β) : Prop :=
  (∀ d g v, g ∈ sumpFlds → p (d.set g v) = p d) ∧ (∀ d f, p (d.onCyc f) = p d) ∧ (∀ d r, p { d with sump := { d.sump with ring := r } } = p d)

theorem Dev.OffLog.count {β : Type} {p : Dev → β} (h : Dev.OffLog p) (d : Dev) (g : Fld) (n : Nat) (hg : g ∈ sumpFlds) : p (d.count g n) = p d :=
  (h.2.1 (d.set g _) (fun c => if g.ty = .rc then { c with rc := kvSet g.key _ c.rc } else c)).trans (h.1 _ _ _ hg)

theorem Dev.OffLog.write {β : Type} {p : Dev → β} (h : Dev.OffLog p) (d : Dev) (r : BitVec 128) : p (d.sumpWrite r) = p d := by
  have hs : ∀ d g v, g ∈ sumpFlds → p (d.set g v) = p d := h.1
  unfold Dev.sumpWrite
  split
  · exact h.count _ _ _ (by simp [sumpFlds])
  · dsimp only
    split <;> split <;>
      simp only [Dev.countMod, hs _ R.SUMP_FREEZE_USED _ (by simp [sumpFlds]), hs _ R.SUMP_WP_WRAPPED _ (by simp [sumpFlds]),
        hs _ R.SUMP_TOTAL_N _ (by simp [sumpFlds]), hs _ R.SUMP_WP_IDX _ (by simp [sumpFlds]), h.2.2]

theorem Dev.OffLog.frozen {β : Type} {p : Dev → β} (h : Dev.OffLog p) (d : Dev) (z : SumpFz) : p (d.sumpFreeze z) = p d := by
  have hs : ∀ d g v, g ∈ sumpFlds → p (d.set g v) = p d := h.1
  unfold Dev.sumpFreeze
  dsimp only
  split <;> simp only [hs _ R.SUMP_FREEZE_USED _ (by simp [sumpFlds]), hs _ R.SUMP_FREEZE_IDX _ (by simp [sumpFlds]), hs _ R.SUMP_STAT_CAUSE _ (by simp [sumpFlds]),
    hs _ R.SUMP_STAT_FROZEN _ (by simp [sumpFlds]), h.write, h.count _ R.SUMP_STAT_FREEZE_CNT _ (by simp [sumpFlds])]

/-- Writing a cycle's records and freezes changes nothing outside the log. -/
theorem Dev.OffLog.redo {β : Type} {p : Dev → β} (h : Dev.OffLog p) (d : Dev) (snap : List Nat) (recs : List SumpRec) (fzs : List SumpFz) :
    p (d.sumpRedo snap recs fzs) = p d := by
  have hz : ∀ (l : List (Fld × Nat)), (∀ x ∈ l, x.1 ∈ sumpFlds) → ∀ d : Dev, p (d.each l (fun d x => d.set x.1 x.2)) = p d := by
    intro l
    induction l with
    | nil => exact fun _ _ => rfl
    | cons a r ih => exact fun hl d => (ih (fun x hx => hl x (by simp [hx])) (d.set a.1 a.2)).trans (h.1 _ _ _ (hl a (by simp)))
  unfold Dev.sumpRedo
  dsimp only
  rw [Dev.each_keeps p _ (fun d z => h.frozen d z), h.count _ _ _ (by simp [sumpFlds]), Dev.each_keeps p _ (fun d (r : SumpRec) => h.write d r.word),
    hz _ (fun x hx => (List.of_mem_zip (a := x.1) (b := x.2) hx).1), h.2.1]

theorem Dev.sumpFlds_evRec {g : Fld} (h : g ∈ sumpFlds) : evRec g.key := by
  have : ∀ g ∈ sumpFlds, evRec g.key := by unfold evRec; decide
  exact this g h

theorem Dev.view_offLog (f : Fld) (hf : evFree f) : Dev.OffLog (fun d => d.view f) :=
  ⟨fun _ _ _ hg => Dev.view_set _ _ hf (Dev.sumpFlds_evRec hg), fun _ _ => Dev.view_onCyc .., fun _ _ => rfl⟩

theorem Dev.freeze_view (d : Dev) (f : Fld) (hf : evFree f) (z : SumpFz) : (d.freeze z).view f = d.view f := (Dev.view_offLog f hf).redo d ..

theorem Dev.settleSump_view (d : Dev) (f : Fld) (hf : evFree f) : d.settleSump.view f = d.view f := by
  have h := (Dev.view_offLog f hf).redo d
  unfold Dev.settleSump
  split
  · rfl
  · dsimp only
    split
    · split <;> simp only [Dev.view_ev, Dev.view_set _ _ hf (g := R.SUMP_STAT_FAULT) (by decide)] <;> exact h ..
    · exact h ..

theorem Dev.orBit_view (d : Dev) (f : Fld) (hf : evFree f) (g : Fld) (n : Nat) (hg : evRec g.key) :
    (d.orBit g n).view f = d.view f := Dev.view_set _ _ hf hg

theorem Dev.vecDue_view (d : Dev) (f : Fld) (v : Nat) : (d.vecDue v).view f = d.view f := by
  unfold Dev.vecDue; split
  · rfl
  · exact Dev.view_msix _ _ _

theorem Dev.deliverCores_view (d : Dev) (f : Fld) (hf : evFree f) (n : Nat) (hn : n < 256) : (d.deliverCores n).view f = d.view f := by
  have h : ∀ (d : Dev) (c : Nat), c < 4 →
      (if bit (d.before (R.EVT_ROUTE_CORES n)) c = true then d.orBit (R.EVT_CPEND_BITS c (n / 32)) n else d).view f = d.view f := by
    intro d c hc
    split
    · exact Dev.orBit_view _ _ hf _ _ (by simp only [evRec, Fld.key, R.EVT_CPEND_BITS]; omega)
    · rfl
  unfold Dev.deliverCores Dev.each
  simp only [List.foldl_cons, List.foldl_nil]
  rw [h _ 3 (by decide), h _ 2 (by decide), h _ 1 (by decide), h _ 0 (by decide)]

theorem Dev.deliverHost_view (d : Dev) (f : Fld) (hf : evFree f) (n : Nat) (hn : n < 256) : (d.deliverHost n).view f = d.view f := by
  have h : (d.orBit (R.EVT_HPEND_BITS (n / 32)) n).view f = d.view f :=
    Dev.orBit_view _ _ hf _ _ (by simp only [evRec, Fld.key, R.EVT_HPEND_BITS]; omega)
  unfold Dev.deliverHost
  dsimp only
  split
  · rfl
  · split
    · exact h
    · exact (Dev.vecDue_view _ _ _).trans h

theorem Dev.deliver_view (d : Dev) (f : Fld) (hf : evFree f) (n : Nat) (hn : n < 256) : (d.deliver n).view f = d.view f := by
  unfold Dev.deliver Dev.deliverAlert
  split
  · rw [Dev.orBit_view _ _ hf _ _ (by simp only [evRec, Fld.key, R.EVT_APEND_BITS]; omega), Dev.deliverHost_view _ _ hf _ hn,
      Dev.deliverCores_view _ _ hf _ hn, Dev.orBit_view _ _ hf _ _ (by simp only [evRec, Fld.key, R.EVT_RAW_BITS]; omega)]
  · rw [Dev.deliverHost_view _ _ hf _ hn,
      Dev.deliverCores_view _ _ hf _ hn, Dev.orBit_view _ _ hf _ _ (by simp only [evRec, Fld.key, R.EVT_RAW_BITS]; omega)]

theorem mem_insNat (x y : Nat) (l : List Nat) (h : y ∈ insNat x l) : y = x ∨ y ∈ l := by
  induction l with
  | nil => simp [insNat] at h; exact .inl h
  | cons a r ih => grind [insNat]

theorem Dev.raised_lt (d : Dev) : ∀ n ∈ d.raised, n < 256 := by
  unfold Dev.raised
  have : ∀ (l : List Ev) (acc : List Nat), (∀ n ∈ acc, n < 256) → ∀ n ∈ l.foldl (fun l e => insNat (e.num % 256) l) acc, n < 256 := by
    intro l
    induction l with
    | nil => intro acc h; exact h
    | cons e r ih =>
      intro acc h
      refine ih _ (fun n hn => ?_)
      rcases mem_insNat _ _ _ hn with rfl | hn
      · exact Nat.mod_lt _ (by decide)
      · exact h n hn
  exact this _ _ (by simp)

theorem Dev.vecCycle_get (d : Dev) (f : Fld) (on : Bool) : (d.vecCycle on).get f = d.get f := by
  unfold Dev.vecCycle; split
  · exact Dev.get_onCyc ..
  · rfl

@[simp] theorem Dev.vecCycle_view (d : Dev) (f : Fld) (on : Bool) : (d.vecCycle on).view f = d.view f := by
  unfold Dev.vecCycle; split
  · exact Dev.view_onCyc ..
  · rfl

theorem Dev.settleEvt_view (d : Dev) (f : Fld) (hf : evFree f) : d.settleEvt.view f = d.view f := by
  unfold Dev.settleEvt
  split
  · dsimp only
    have h : ∀ (l : List Nat), (∀ n ∈ l, n < 256) → ∀ d : Dev, (d.each l Dev.deliver).view f = d.view f := by
      intro l
      induction l with
      | nil => intro _ d; rfl
      | cons a r ih =>
        intro hl d
        have : d.each (a :: r) Dev.deliver = (d.deliver a).each r Dev.deliver := rfl
        rw [this, ih (fun n hn => hl n (by simp [hn])), Dev.deliver_view _ _ hf _ (hl a (by simp))]
    split
    · exact (h _ (Dev.raised_lt d) _).trans (Dev.vecCycle_view ..)
    · simp only [Dev.count, Dev.view_markRc, Dev.view_set _ _ hf (g := R.EVT_TOTAL_COUNT) (by decide), Dev.view_set _ _ hf (g := R.EVT_LAST_STROKE) (by decide),
        Dev.view_set _ _ hf (g := R.EVT_LAST_EVENT) (by decide), Dev.view_onCyc]
      exact (h _ (Dev.raised_lt d) _).trans (Dev.vecCycle_view ..)
  · rfl

/-- Settling changes a field only in EVT and SUMP, and beside the registers only the sump log and the event controller. -/
theorem Dev.settle_view (d : Dev) (f : Fld) (hf : evFree f) : d.settle.view f = d.view f := by
  have : d.settle.view f = d.settleSump.settleEvt.view f := rfl
  rw [this, Dev.settleEvt_view _ _ hf, Dev.settleSump_view _ _ hf]

theorem Dev.settle_get (d : Dev) (f : Fld) (hf : evFree f) : d.settle.get f = d.get f := congrArg Prod.fst (Dev.settle_view d f hf)

theorem Dev.settle_body (d : Dev) : d.settle.body = d.body := congrArg Prod.snd (Dev.settle_view d ⟨0, 0, 0, .ro, 0, .main⟩ (by unfold evFree; decide))

@[simp] theorem Dev.settle_evs (d : Dev) : d.settle.evs = [] := rfl

theorem Dev.mediaEv_view (d : Dev) (b : Bool) (f : Fld) : (d.mediaEv b).view f = d.view f := by unfold Dev.mediaEv; split <;> rfl

end Sys2Proof.Machine
end

