-- ==== Sys2Proof/Laws/Events.lean ====
section
/-! SUPPORT. Every event that a step raises is in EVT_RAW when the step ends (R602). -/

namespace Sys2Proof.Machine

theorem bit_eq_testBit (x i : Nat) : bit x i = x.testBit i := by
  simp only [bit, bits, Nat.testBit, Nat.shiftRight_eq_div_pow, Nat.pow_one, Nat.one_and_eq_mod_two]
  have : x / 2 ^ i % 2 = 0 ∨ x / 2 ^ i % 2 = 1 := by omega
  rcases this with h | h <;> simp [h]

/-- The word of a bitmap after one of its bits was set. -/
theorem Dev.get_orBit_self (d : Dev) (f : Fld) (n : Nat) (h : f.width ≤ 32) :
    (d.orBit f n).get f = (d.get f ||| 2 ^ (n % 32)) % 2 ^ f.width := Dev.get_set_self d f _ h

theorem Dev.get_orBit_ne (d : Dev) {f g : Fld} (n : Nat) (h : f.key ≠ g.key) : (d.orBit g n).get f = d.get f := Dev.get_set_ne d _ h

theorem Dev.get_vecDue (d : Dev) (f : Fld) (v : Nat) : (d.vecDue v).get f = d.get f := by unfold Dev.vecDue; split <;> rfl

/-- A bit of EVT_RAW that is set stays set through a delivery. -/
theorem Dev.deliver_raw_keep (d : Dev) (m k i : Nat) (hm : m < 256) (hk : k < 8) (hi : i < 32) (h : bit (d.get (R.EVT_RAW_BITS k)) i = true) :
    bit ((d.deliver m).get (R.EVT_RAW_BITS k)) i = true := by
  have hA : ∀ d : Dev, (d.deliverAlert m).get (R.EVT_RAW_BITS k) = d.get (R.EVT_RAW_BITS k) := by
    intro d; unfold Dev.deliverAlert; split
    · exact Dev.get_orBit_ne _ _ (by simp only [Fld.key, R.EVT_APEND_BITS, R.EVT_RAW_BITS]; omega)
    · rfl
  have hH : ∀ d : Dev, (d.deliverHost m).get (R.EVT_RAW_BITS k) = d.get (R.EVT_RAW_BITS k) := by
    intro d; unfold Dev.deliverHost; dsimp only; split
    · rfl
    · split
      · exact Dev.get_orBit_ne _ _ (by simp only [Fld.key, R.EVT_HPEND_BITS, R.EVT_RAW_BITS]; omega)
      · rw [Dev.get_vecDue]
        exact Dev.get_orBit_ne _ _ (by simp only [Fld.key, R.EVT_HPEND_BITS, R.EVT_RAW_BITS]; omega)
  have hC : ∀ d : Dev, (d.deliverCores m).get (R.EVT_RAW_BITS k) = d.get (R.EVT_RAW_BITS k) := by
    intro d
    unfold Dev.deliverCores
    refine Dev.each_keeps (fun d => d.get (R.EVT_RAW_BITS k)) _ (fun d c => ?_) _ _
    split
    · exact Dev.get_orBit_ne _ _ (by simp only [Fld.key, R.EVT_CPEND_BITS, R.EVT_RAW_BITS]; omega)
    · rfl
  unfold Dev.deliver
  rw [hA, hH, hC]
  by_cases e : m / 32 = k
  · subst e
    rw [Dev.get_orBit_self _ _ _ (Nat.le_refl 32), bit_eq_testBit, Nat.testBit_mod_two_pow]
    rw [bit_eq_testBit] at h
    simp [R.EVT_RAW_BITS, hi] at h ⊢
    exact .inl h
  · rw [Dev.get_orBit_ne _ _ (by simp only [Fld.key, R.EVT_RAW_BITS]; omega)]
    exact h

/-- A delivery sets the event's bit of EVT_RAW. -/
theorem Dev.deliver_raw_set (d : Dev) (m : Nat) (_hm : m < 256) : bit ((d.deliver m).get (R.EVT_RAW_BITS (m / 32))) (m % 32) = true := by
  have hA : ∀ d : Dev, (d.deliverAlert m).get (R.EVT_RAW_BITS (m / 32)) = d.get (R.EVT_RAW_BITS (m / 32)) := by
    intro d; unfold Dev.deliverAlert; split
    · exact Dev.get_orBit_ne _ _ (by simp only [Fld.key, R.EVT_APEND_BITS, R.EVT_RAW_BITS]; omega)
    · rfl
  have hH : ∀ d : Dev, (d.deliverHost m).get (R.EVT_RAW_BITS (m / 32)) = d.get (R.EVT_RAW_BITS (m / 32)) := by
    intro d; unfold Dev.deliverHost; dsimp only; split
    · rfl
    · split
      · exact Dev.get_orBit_ne _ _ (by simp only [Fld.key, R.EVT_HPEND_BITS, R.EVT_RAW_BITS]; omega)
      · rw [Dev.get_vecDue]
        exact Dev.get_orBit_ne _ _ (by simp only [Fld.key, R.EVT_HPEND_BITS, R.EVT_RAW_BITS]; omega)
  have hC : ∀ d : Dev, (d.deliverCores m).get (R.EVT_RAW_BITS (m / 32)) = d.get (R.EVT_RAW_BITS (m / 32)) := by
    intro d
    unfold Dev.deliverCores
    refine Dev.each_keeps (fun d => d.get (R.EVT_RAW_BITS (m / 32))) _ (fun d c => ?_) _ _
    split
    · exact Dev.get_orBit_ne _ _ (by simp only [Fld.key, R.EVT_CPEND_BITS, R.EVT_RAW_BITS]; omega)
    · rfl
  unfold Dev.deliver
  rw [hA, hH, hC, Dev.get_orBit_self _ _ _ (Nat.le_refl 32), bit_eq_testBit, Nat.testBit_mod_two_pow]
  simp [R.EVT_RAW_BITS, Nat.mod_lt, Nat.testBit_two_pow_self]

theorem mem_insNat_self (x : Nat) (l : List Nat) : x ∈ insNat x l := by
  induction l with
  | nil => simp [insNat]
  | cons a r ih => grind [insNat]

theorem mem_insNat_of_mem (x y : Nat) (l : List Nat) (h : y ∈ l) : y ∈ insNat x l := by
  induction l with
  | nil => simp at h
  | cons a r ih => grind [insNat]

/-- The numbers raised are those of the step's events. -/
theorem Dev.mem_raised (d : Dev) (e : Ev) (h : e ∈ d.evs) (hs : e.silent = false) : e.num % 256 ∈ d.raised := by
  unfold Dev.raised
  have keep : ∀ (l : List Ev) (acc : List Nat) (n : Nat), n ∈ acc → n ∈ l.foldl (fun l e => insNat (e.num % 256) l) acc := by
    intro l
    induction l with
    | nil => intro acc n h; exact h
    | cons a r ih => intro acc n h; exact ih _ _ (mem_insNat_of_mem _ _ _ h)
  have : ∀ (l : List Ev) (acc : List Nat), e ∈ l → e.num % 256 ∈ l.foldl (fun l e => insNat (e.num % 256) l) acc := by
    intro l
    induction l with
    | nil => intro acc h; simp at h
    | cons a r ih =>
      intro acc h
      rcases List.mem_cons.mp h with rfl | h
      · exact keep r _ _ (mem_insNat_self _ _)
      · exact ih _ h
  exact this _ _ (by simp [h, hs])

theorem Dev.evs_set (d : Dev) (f : Fld) (v : Nat) : (d.set f v).evs = d.evs := rfl

theorem Dev.evs_ev (d : Dev) (n a b c : Nat) : (d.ev n a b c).evs = d.evs ++ [{ num := n, arg0 := a, arg1 := b, code := c, logs := evLogged n }] := rfl
theorem Dev.evs_count (d : Dev) (f : Fld) (n : Nat) : (d.count f n).evs = d.evs := rfl
@[simp] theorem Dev.evs_onCyc (d : Dev) (g : Cyc → Cyc) : (d.onCyc g).evs = d.evs := rfl

theorem Dev.evs_offLog : Dev.OffLog Dev.evs := ⟨fun _ _ _ _ => rfl, fun _ _ => rfl, fun _ _ => rfl⟩

theorem Dev.mem_settleSump_evs (d : Dev) (e : Ev) (h : e ∈ d.evs) : e ∈ d.settleSump.evs := by
  have hr := Dev.evs_offLog.redo d
  unfold Dev.settleSump
  split
  · exact h
  · dsimp only
    split
    · split <;> simp only [Dev.evs_ev, Dev.evs_set, hr, List.mem_append] <;> simp [h]
    · rw [hr]; exact h

/-- An event that a step raises while the main domain is released is in EVT_RAW when it ends. -/
theorem Dev.settle_raw (d : Dev) (hm : d.rst.mainUp = true) (e : Ev) (h : e ∈ d.evs) (hs : e.silent = false) (hn : e.num < 256) :
    bit (d.settle.get (R.EVT_RAW_BITS (e.num / 32))) (e.num % 32) = true := by
  show bit (d.settleSump.settleEvt.get _) _ = true
  have hm' : d.settleSump.rst.mainUp = true := by
    have := congrArg Prod.snd (Dev.settleSump_view d ⟨0, 0, 0, .ro, 0, .main⟩ (by unfold evFree; decide))
    have := congrArg (fun x : Dev => x.rst.mainUp) this
    exact this.trans hm
  have hr := Dev.mem_raised _ e (Dev.mem_settleSump_evs d e h) hs
  rw [Nat.mod_eq_of_lt hn] at hr
  have hl := Dev.raised_lt d.settleSump
  generalize hx : d.settleSump = x at *
  unfold Dev.settleEvt
  rw [if_pos hm']
  dsimp only
  have step : ∀ (l : List Nat), (∀ n ∈ l, n < 256) → ∀ x : Dev,
      (e.num ∈ l ∨ bit (x.get (R.EVT_RAW_BITS (e.num / 32))) (e.num % 32) = true) →
      bit ((x.each l Dev.deliver).get (R.EVT_RAW_BITS (e.num / 32))) (e.num % 32) = true := by
    intro l
    induction l with
    | nil => intro _ x h; simpa [Dev.each] using h
    | cons a r ih =>
      intro hl x h
      have ha := hl a (by simp)
      refine ih (fun n hn => hl n (by simp [hn])) (x.deliver a) ?_
      by_cases he : e.num = a
      · subst he; exact .inr (Dev.deliver_raw_set x _ ha)
      · rcases h with h | h
        · rcases List.mem_cons.mp h with h | h
          · exact absurd h he
          · exact .inl h
        · exact .inr (Dev.deliver_raw_keep x a _ _ ha (by omega) (Nat.mod_lt _ (by decide)) h)
  have := step _ hl (x.vecCycle (!x.raised.isEmpty)) (.inl hr)
  split
  · exact this
  · rename_i n _
    have k1 : ∀ (y : Dev) c, (y.count R.EVT_TOTAL_COUNT c).get (R.EVT_RAW_BITS (e.num / 32)) = y.get (R.EVT_RAW_BITS (e.num / 32)) :=
      fun y _ => Dev.get_count_ne _ _ (by simp only [Fld.key, R.EVT_TOTAL_COUNT, R.EVT_RAW_BITS]; omega)
    have k2 : ∀ (y : Dev) v, (y.set R.EVT_LAST_STROKE v).get (R.EVT_RAW_BITS (e.num / 32)) = y.get (R.EVT_RAW_BITS (e.num / 32)) :=
      fun y v => Dev.get_set_ne _ _ (by simp only [Fld.key, R.EVT_LAST_STROKE, R.EVT_RAW_BITS]; omega)
    have k3 : ∀ (y : Dev) v, (y.set R.EVT_LAST_EVENT v).get (R.EVT_RAW_BITS (e.num / 32)) = y.get (R.EVT_RAW_BITS (e.num / 32)) :=
      fun y v => Dev.get_set_ne _ _ (by simp only [Fld.key, R.EVT_LAST_EVENT, R.EVT_RAW_BITS]; omega)
    rw [k1, k2, k3, Dev.get_onCyc]
    exact this

end Sys2Proof.Machine
end

