-- ==== Sys2Proof/Laws/State.lean ====
section
/-! SUPPORT. One lemma per part of the device per update of another part, true by unfolding, so that no later proof unfolds a record update; and what each
table of run-time parts reads after one of its entries was replaced. -/

namespace Sys2Proof.Machine

/-! ### Dev.set -/

@[simp] theorem Dev.set_evs (d : Dev) (f : Fld) (v : Nat) : (d.set f v).evs = d.evs := rfl
@[simp] theorem Dev.set_once (d : Dev) (f : Fld) (v : Nat) : (d.set f v).once = d.once := rfl
@[simp] theorem Dev.set_msix (d : Dev) (f : Fld) (v : Nat) : (d.set f v).msix = d.msix := rfl
@[simp] theorem Dev.set_cores (d : Dev) (f : Fld) (v : Nat) : (d.set f v).cores = d.cores := rfl
@[simp] theorem Dev.set_sump (d : Dev) (f : Fld) (v : Nat) : (d.set f v).sump = d.sump := rfl
@[simp] theorem Dev.set_sec (d : Dev) (f : Fld) (v : Nat) : (d.set f v).sec = d.sec := rfl
@[simp] theorem Dev.set_rst (d : Dev) (f : Fld) (v : Nat) : (d.set f v).rst = d.rst := rfl
@[simp] theorem Dev.set_cal (d : Dev) (f : Fld) (v : Nat) : (d.set f v).cal = d.cal := rfl
@[simp] theorem Dev.set_tim (d : Dev) (f : Fld) (v : Nat) : (d.set f v).tim = d.tim := rfl
@[simp] theorem Dev.set_img (d : Dev) (f : Fld) (v : Nat) : (d.set f v).img = d.img := rfl
@[simp] theorem Dev.set_org (d : Dev) (f : Fld) (v : Nat) : (d.set f v).org = d.org := rfl
@[simp] theorem Dev.set_pump (d : Dev) (f : Fld) (v : Nat) : (d.set f v).pump = d.pump := rfl
@[simp] theorem Dev.set_qf (d : Dev) (f : Fld) (v : Nat) : (d.set f v).qf = d.qf := rfl
@[simp] theorem Dev.set_ports (d : Dev) (f : Fld) (v : Nat) : (d.set f v).ports = d.ports := rfl
@[simp] theorem Dev.set_ddr (d : Dev) (f : Fld) (v : Nat) : (d.set f v).ddr = d.ddr := rfl
@[simp] theorem Dev.set_pcie (d : Dev) (f : Fld) (v : Nat) : (d.set f v).pcie = d.pcie := rfl
@[simp] theorem Dev.set_i2c (d : Dev) (f : Fld) (v : Nat) : (d.set f v).i2c = d.i2c := rfl
@[simp] theorem Dev.set_pkt (d : Dev) (f : Fld) (v : Nat) : (d.set f v).pkt = d.pkt := rfl
@[simp] theorem Dev.set_cis (d : Dev) (f : Fld) (v : Nat) : (d.set f v).cis = d.cis := rfl
@[simp] theorem Dev.set_cnv (d : Dev) (f : Fld) (v : Nat) : (d.set f v).cnv = d.cnv := rfl
@[simp] theorem Dev.set_kern (d : Dev) (f : Fld) (v : Nat) : (d.set f v).kern = d.kern := rfl
@[simp] theorem Dev.set_tone (d : Dev) (f : Fld) (v : Nat) : (d.set f v).tone = d.tone := rfl
@[simp] theorem Dev.set_cmp (d : Dev) (f : Fld) (v : Nat) : (d.set f v).cmp = d.cmp := rfl
@[simp] theorem Dev.set_reply (d : Dev) (f : Fld) (v : Nat) : (d.set f v).reply = d.reply := rfl
@[simp] theorem Dev.set_free (d : Dev) (f : Fld) (v : Nat) : (d.set f v).free = d.free := rfl

/-! ### Dev.count -/

@[simp] theorem Dev.count_evs (d : Dev) (f : Fld) (n : Nat) : (d.count f n).evs = d.evs := rfl
@[simp] theorem Dev.count_once (d : Dev) (f : Fld) (n : Nat) : (d.count f n).once = d.once := rfl
@[simp] theorem Dev.count_msix (d : Dev) (f : Fld) (n : Nat) : (d.count f n).msix = d.msix := rfl
@[simp] theorem Dev.count_cores (d : Dev) (f : Fld) (n : Nat) : (d.count f n).cores = d.cores := rfl
@[simp] theorem Dev.count_sump (d : Dev) (f : Fld) (n : Nat) : (d.count f n).sump = d.sump := rfl
@[simp] theorem Dev.count_sec (d : Dev) (f : Fld) (n : Nat) : (d.count f n).sec = d.sec := rfl
@[simp] theorem Dev.count_rst (d : Dev) (f : Fld) (n : Nat) : (d.count f n).rst = d.rst := rfl
@[simp] theorem Dev.count_cal (d : Dev) (f : Fld) (n : Nat) : (d.count f n).cal = d.cal := rfl
@[simp] theorem Dev.count_tim (d : Dev) (f : Fld) (n : Nat) : (d.count f n).tim = d.tim := rfl
@[simp] theorem Dev.count_img (d : Dev) (f : Fld) (n : Nat) : (d.count f n).img = d.img := rfl
@[simp] theorem Dev.count_org (d : Dev) (f : Fld) (n : Nat) : (d.count f n).org = d.org := rfl
@[simp] theorem Dev.count_pump (d : Dev) (f : Fld) (n : Nat) : (d.count f n).pump = d.pump := rfl
@[simp] theorem Dev.count_qf (d : Dev) (f : Fld) (n : Nat) : (d.count f n).qf = d.qf := rfl
@[simp] theorem Dev.count_ports (d : Dev) (f : Fld) (n : Nat) : (d.count f n).ports = d.ports := rfl
@[simp] theorem Dev.count_ddr (d : Dev) (f : Fld) (n : Nat) : (d.count f n).ddr = d.ddr := rfl
@[simp] theorem Dev.count_pcie (d : Dev) (f : Fld) (n : Nat) : (d.count f n).pcie = d.pcie := rfl
@[simp] theorem Dev.count_i2c (d : Dev) (f : Fld) (n : Nat) : (d.count f n).i2c = d.i2c := rfl
@[simp] theorem Dev.count_pkt (d : Dev) (f : Fld) (n : Nat) : (d.count f n).pkt = d.pkt := rfl
@[simp] theorem Dev.count_cis (d : Dev) (f : Fld) (n : Nat) : (d.count f n).cis = d.cis := rfl
@[simp] theorem Dev.count_cnv (d : Dev) (f : Fld) (n : Nat) : (d.count f n).cnv = d.cnv := rfl
@[simp] theorem Dev.count_kern (d : Dev) (f : Fld) (n : Nat) : (d.count f n).kern = d.kern := rfl
@[simp] theorem Dev.count_tone (d : Dev) (f : Fld) (n : Nat) : (d.count f n).tone = d.tone := rfl
@[simp] theorem Dev.count_cmp (d : Dev) (f : Fld) (n : Nat) : (d.count f n).cmp = d.cmp := rfl
@[simp] theorem Dev.count_reply (d : Dev) (f : Fld) (n : Nat) : (d.count f n).reply = d.reply := rfl
@[simp] theorem Dev.count_free (d : Dev) (f : Fld) (n : Nat) : (d.count f n).free = d.free := rfl

/-! ### Dev.ev -/

@[simp] theorem Dev.ev_regs (d : Dev) (n a b c : Nat) : (d.ev n a b c).regs = d.regs := rfl
@[simp] theorem Dev.ev_once (d : Dev) (n a b c : Nat) : (d.ev n a b c).once = d.once := rfl
@[simp] theorem Dev.ev_msix (d : Dev) (n a b c : Nat) : (d.ev n a b c).msix = d.msix := rfl
@[simp] theorem Dev.ev_cores (d : Dev) (n a b c : Nat) : (d.ev n a b c).cores = d.cores := rfl
@[simp] theorem Dev.ev_sump (d : Dev) (n a b c : Nat) : (d.ev n a b c).sump = d.sump := rfl
@[simp] theorem Dev.ev_sec (d : Dev) (n a b c : Nat) : (d.ev n a b c).sec = d.sec := rfl
@[simp] theorem Dev.ev_rst (d : Dev) (n a b c : Nat) : (d.ev n a b c).rst = d.rst := rfl
@[simp] theorem Dev.ev_cal (d : Dev) (n a b c : Nat) : (d.ev n a b c).cal = d.cal := rfl
@[simp] theorem Dev.ev_tim (d : Dev) (n a b c : Nat) : (d.ev n a b c).tim = d.tim := rfl
@[simp] theorem Dev.ev_img (d : Dev) (n a b c : Nat) : (d.ev n a b c).img = d.img := rfl
@[simp] theorem Dev.ev_org (d : Dev) (n a b c : Nat) : (d.ev n a b c).org = d.org := rfl
@[simp] theorem Dev.ev_pump (d : Dev) (n a b c : Nat) : (d.ev n a b c).pump = d.pump := rfl
@[simp] theorem Dev.ev_qf (d : Dev) (n a b c : Nat) : (d.ev n a b c).qf = d.qf := rfl
@[simp] theorem Dev.ev_ports (d : Dev) (n a b c : Nat) : (d.ev n a b c).ports = d.ports := rfl
@[simp] theorem Dev.ev_ddr (d : Dev) (n a b c : Nat) : (d.ev n a b c).ddr = d.ddr := rfl
@[simp] theorem Dev.ev_pcie (d : Dev) (n a b c : Nat) : (d.ev n a b c).pcie = d.pcie := rfl
@[simp] theorem Dev.ev_i2c (d : Dev) (n a b c : Nat) : (d.ev n a b c).i2c = d.i2c := rfl
@[simp] theorem Dev.ev_pkt (d : Dev) (n a b c : Nat) : (d.ev n a b c).pkt = d.pkt := rfl
@[simp] theorem Dev.ev_cis (d : Dev) (n a b c : Nat) : (d.ev n a b c).cis = d.cis := rfl
@[simp] theorem Dev.ev_cnv (d : Dev) (n a b c : Nat) : (d.ev n a b c).cnv = d.cnv := rfl
@[simp] theorem Dev.ev_kern (d : Dev) (n a b c : Nat) : (d.ev n a b c).kern = d.kern := rfl
@[simp] theorem Dev.ev_tone (d : Dev) (n a b c : Nat) : (d.ev n a b c).tone = d.tone := rfl
@[simp] theorem Dev.ev_cmp (d : Dev) (n a b c : Nat) : (d.ev n a b c).cmp = d.cmp := rfl
@[simp] theorem Dev.ev_reply (d : Dev) (n a b c : Nat) : (d.ev n a b c).reply = d.reply := rfl
@[simp] theorem Dev.ev_free (d : Dev) (n a b c : Nat) : (d.ev n a b c).free = d.free := rfl

/-! ### Dev.setTask -/

@[simp] theorem Dev.setTask_regs (d : Dev) (k : Nat) (r : TaskRt) : (d.setTask k r).regs = d.regs := rfl
@[simp] theorem Dev.setTask_evs (d : Dev) (k : Nat) (r : TaskRt) : (d.setTask k r).evs = d.evs := rfl
@[simp] theorem Dev.setTask_once (d : Dev) (k : Nat) (r : TaskRt) : (d.setTask k r).once = d.once := rfl
@[simp] theorem Dev.setTask_msix (d : Dev) (k : Nat) (r : TaskRt) : (d.setTask k r).msix = d.msix := rfl
@[simp] theorem Dev.setTask_cores (d : Dev) (k : Nat) (r : TaskRt) : (d.setTask k r).cores = d.cores := rfl
@[simp] theorem Dev.setTask_sump (d : Dev) (k : Nat) (r : TaskRt) : (d.setTask k r).sump = d.sump := rfl
@[simp] theorem Dev.setTask_sec (d : Dev) (k : Nat) (r : TaskRt) : (d.setTask k r).sec = d.sec := rfl
@[simp] theorem Dev.setTask_rst (d : Dev) (k : Nat) (r : TaskRt) : (d.setTask k r).rst = d.rst := rfl
@[simp] theorem Dev.setTask_cal (d : Dev) (k : Nat) (r : TaskRt) : (d.setTask k r).cal = d.cal := rfl
@[simp] theorem Dev.setTask_tim (d : Dev) (k : Nat) (r : TaskRt) : (d.setTask k r).tim = d.tim := rfl
@[simp] theorem Dev.setTask_img (d : Dev) (k : Nat) (r : TaskRt) : (d.setTask k r).img = d.img := rfl
@[simp] theorem Dev.setTask_org (d : Dev) (k : Nat) (r : TaskRt) : (d.setTask k r).org = d.org := rfl
@[simp] theorem Dev.setTask_qf (d : Dev) (k : Nat) (r : TaskRt) : (d.setTask k r).qf = d.qf := rfl
@[simp] theorem Dev.setTask_ports (d : Dev) (k : Nat) (r : TaskRt) : (d.setTask k r).ports = d.ports := rfl
@[simp] theorem Dev.setTask_ddr (d : Dev) (k : Nat) (r : TaskRt) : (d.setTask k r).ddr = d.ddr := rfl
@[simp] theorem Dev.setTask_pcie (d : Dev) (k : Nat) (r : TaskRt) : (d.setTask k r).pcie = d.pcie := rfl
@[simp] theorem Dev.setTask_i2c (d : Dev) (k : Nat) (r : TaskRt) : (d.setTask k r).i2c = d.i2c := rfl
@[simp] theorem Dev.setTask_pkt (d : Dev) (k : Nat) (r : TaskRt) : (d.setTask k r).pkt = d.pkt := rfl
@[simp] theorem Dev.setTask_cis (d : Dev) (k : Nat) (r : TaskRt) : (d.setTask k r).cis = d.cis := rfl
@[simp] theorem Dev.setTask_cnv (d : Dev) (k : Nat) (r : TaskRt) : (d.setTask k r).cnv = d.cnv := rfl
@[simp] theorem Dev.setTask_kern (d : Dev) (k : Nat) (r : TaskRt) : (d.setTask k r).kern = d.kern := rfl
@[simp] theorem Dev.setTask_tone (d : Dev) (k : Nat) (r : TaskRt) : (d.setTask k r).tone = d.tone := rfl
@[simp] theorem Dev.setTask_cmp (d : Dev) (k : Nat) (r : TaskRt) : (d.setTask k r).cmp = d.cmp := rfl
@[simp] theorem Dev.setTask_reply (d : Dev) (k : Nat) (r : TaskRt) : (d.setTask k r).reply = d.reply := rfl
@[simp] theorem Dev.setTask_free (d : Dev) (k : Nat) (r : TaskRt) : (d.setTask k r).free = d.free := rfl
@[simp] theorem Dev.setTask_get (d : Dev) (f : Fld) (k : Nat) (r : TaskRt) : (d.setTask k r).get f = d.get f := rfl
@[simp] theorem Dev.task_setTask_self (d : Dev) (k : Nat) (r : TaskRt) : (d.setTask k r).task k = r := kvD_kvSet_self ..
theorem Dev.task_setTask_ne (d : Dev) {j k : Nat} (r : TaskRt) (h : j ≠ k) : (d.setTask k r).task j = d.task j := kvD_kvSet_ne h ..

/-! ### Dev.setCell -/

@[simp] theorem Dev.setCell_regs (d : Dev) (k : Nat) (r : CellRt) : (d.setCell k r).regs = d.regs := rfl
@[simp] theorem Dev.setCell_evs (d : Dev) (k : Nat) (r : CellRt) : (d.setCell k r).evs = d.evs := rfl
@[simp] theorem Dev.setCell_once (d : Dev) (k : Nat) (r : CellRt) : (d.setCell k r).once = d.once := rfl
@[simp] theorem Dev.setCell_msix (d : Dev) (k : Nat) (r : CellRt) : (d.setCell k r).msix = d.msix := rfl
@[simp] theorem Dev.setCell_cores (d : Dev) (k : Nat) (r : CellRt) : (d.setCell k r).cores = d.cores := rfl
@[simp] theorem Dev.setCell_sump (d : Dev) (k : Nat) (r : CellRt) : (d.setCell k r).sump = d.sump := rfl
@[simp] theorem Dev.setCell_sec (d : Dev) (k : Nat) (r : CellRt) : (d.setCell k r).sec = d.sec := rfl
@[simp] theorem Dev.setCell_rst (d : Dev) (k : Nat) (r : CellRt) : (d.setCell k r).rst = d.rst := rfl
@[simp] theorem Dev.setCell_cal (d : Dev) (k : Nat) (r : CellRt) : (d.setCell k r).cal = d.cal := rfl
@[simp] theorem Dev.setCell_tim (d : Dev) (k : Nat) (r : CellRt) : (d.setCell k r).tim = d.tim := rfl
@[simp] theorem Dev.setCell_img (d : Dev) (k : Nat) (r : CellRt) : (d.setCell k r).img = d.img := rfl
@[simp] theorem Dev.setCell_org (d : Dev) (k : Nat) (r : CellRt) : (d.setCell k r).org = d.org := rfl
@[simp] theorem Dev.setCell_qf (d : Dev) (k : Nat) (r : CellRt) : (d.setCell k r).qf = d.qf := rfl
@[simp] theorem Dev.setCell_ports (d : Dev) (k : Nat) (r : CellRt) : (d.setCell k r).ports = d.ports := rfl
@[simp] theorem Dev.setCell_ddr (d : Dev) (k : Nat) (r : CellRt) : (d.setCell k r).ddr = d.ddr := rfl
@[simp] theorem Dev.setCell_pcie (d : Dev) (k : Nat) (r : CellRt) : (d.setCell k r).pcie = d.pcie := rfl
@[simp] theorem Dev.setCell_i2c (d : Dev) (k : Nat) (r : CellRt) : (d.setCell k r).i2c = d.i2c := rfl
@[simp] theorem Dev.setCell_pkt (d : Dev) (k : Nat) (r : CellRt) : (d.setCell k r).pkt = d.pkt := rfl
@[simp] theorem Dev.setCell_cis (d : Dev) (k : Nat) (r : CellRt) : (d.setCell k r).cis = d.cis := rfl
@[simp] theorem Dev.setCell_cnv (d : Dev) (k : Nat) (r : CellRt) : (d.setCell k r).cnv = d.cnv := rfl
@[simp] theorem Dev.setCell_kern (d : Dev) (k : Nat) (r : CellRt) : (d.setCell k r).kern = d.kern := rfl
@[simp] theorem Dev.setCell_tone (d : Dev) (k : Nat) (r : CellRt) : (d.setCell k r).tone = d.tone := rfl
@[simp] theorem Dev.setCell_cmp (d : Dev) (k : Nat) (r : CellRt) : (d.setCell k r).cmp = d.cmp := rfl
@[simp] theorem Dev.setCell_reply (d : Dev) (k : Nat) (r : CellRt) : (d.setCell k r).reply = d.reply := rfl
@[simp] theorem Dev.setCell_free (d : Dev) (k : Nat) (r : CellRt) : (d.setCell k r).free = d.free := rfl
@[simp] theorem Dev.setCell_get (d : Dev) (f : Fld) (k : Nat) (r : CellRt) : (d.setCell k r).get f = d.get f := rfl
@[simp] theorem Dev.cell_setCell_self (d : Dev) (k : Nat) (r : CellRt) : (d.setCell k r).cell k = r := kvD_kvSet_self ..
theorem Dev.cell_setCell_ne (d : Dev) {j k : Nat} (r : CellRt) (h : j ≠ k) : (d.setCell k r).cell j = d.cell j := kvD_kvSet_ne h ..

/-! ### Dev.setQ -/

@[simp] theorem Dev.setQ_regs (d : Dev) (k : Nat) (r : QRt) : (d.setQ k r).regs = d.regs := rfl
@[simp] theorem Dev.setQ_evs (d : Dev) (k : Nat) (r : QRt) : (d.setQ k r).evs = d.evs := rfl
@[simp] theorem Dev.setQ_once (d : Dev) (k : Nat) (r : QRt) : (d.setQ k r).once = d.once := rfl
@[simp] theorem Dev.setQ_msix (d : Dev) (k : Nat) (r : QRt) : (d.setQ k r).msix = d.msix := rfl
@[simp] theorem Dev.setQ_cores (d : Dev) (k : Nat) (r : QRt) : (d.setQ k r).cores = d.cores := rfl
@[simp] theorem Dev.setQ_sump (d : Dev) (k : Nat) (r : QRt) : (d.setQ k r).sump = d.sump := rfl
@[simp] theorem Dev.setQ_sec (d : Dev) (k : Nat) (r : QRt) : (d.setQ k r).sec = d.sec := rfl
@[simp] theorem Dev.setQ_rst (d : Dev) (k : Nat) (r : QRt) : (d.setQ k r).rst = d.rst := rfl
@[simp] theorem Dev.setQ_cal (d : Dev) (k : Nat) (r : QRt) : (d.setQ k r).cal = d.cal := rfl
@[simp] theorem Dev.setQ_tim (d : Dev) (k : Nat) (r : QRt) : (d.setQ k r).tim = d.tim := rfl
@[simp] theorem Dev.setQ_img (d : Dev) (k : Nat) (r : QRt) : (d.setQ k r).img = d.img := rfl
@[simp] theorem Dev.setQ_org (d : Dev) (k : Nat) (r : QRt) : (d.setQ k r).org = d.org := rfl
@[simp] theorem Dev.setQ_pump (d : Dev) (k : Nat) (r : QRt) : (d.setQ k r).pump = d.pump := rfl
@[simp] theorem Dev.setQ_ports (d : Dev) (k : Nat) (r : QRt) : (d.setQ k r).ports = d.ports := rfl
@[simp] theorem Dev.setQ_ddr (d : Dev) (k : Nat) (r : QRt) : (d.setQ k r).ddr = d.ddr := rfl
@[simp] theorem Dev.setQ_pcie (d : Dev) (k : Nat) (r : QRt) : (d.setQ k r).pcie = d.pcie := rfl
@[simp] theorem Dev.setQ_i2c (d : Dev) (k : Nat) (r : QRt) : (d.setQ k r).i2c = d.i2c := rfl
@[simp] theorem Dev.setQ_pkt (d : Dev) (k : Nat) (r : QRt) : (d.setQ k r).pkt = d.pkt := rfl
@[simp] theorem Dev.setQ_cis (d : Dev) (k : Nat) (r : QRt) : (d.setQ k r).cis = d.cis := rfl
@[simp] theorem Dev.setQ_cnv (d : Dev) (k : Nat) (r : QRt) : (d.setQ k r).cnv = d.cnv := rfl
@[simp] theorem Dev.setQ_kern (d : Dev) (k : Nat) (r : QRt) : (d.setQ k r).kern = d.kern := rfl
@[simp] theorem Dev.setQ_tone (d : Dev) (k : Nat) (r : QRt) : (d.setQ k r).tone = d.tone := rfl
@[simp] theorem Dev.setQ_cmp (d : Dev) (k : Nat) (r : QRt) : (d.setQ k r).cmp = d.cmp := rfl
@[simp] theorem Dev.setQ_reply (d : Dev) (k : Nat) (r : QRt) : (d.setQ k r).reply = d.reply := rfl
@[simp] theorem Dev.setQ_free (d : Dev) (k : Nat) (r : QRt) : (d.setQ k r).free = d.free := rfl
@[simp] theorem Dev.setQ_get (d : Dev) (f : Fld) (k : Nat) (r : QRt) : (d.setQ k r).get f = d.get f := rfl
@[simp] theorem Dev.q_setQ_self (d : Dev) (k : Nat) (r : QRt) : (d.setQ k r).q k = r := kvD_kvSet_self ..
theorem Dev.q_setQ_ne (d : Dev) {j k : Nat} (r : QRt) (h : j ≠ k) : (d.setQ k r).q j = d.q j := kvD_kvSet_ne h ..

/-! ### Dev.setLink -/

@[simp] theorem Dev.setLink_regs (d : Dev) (k : Nat) (r : LinkRt) : (d.setLink k r).regs = d.regs := rfl
@[simp] theorem Dev.setLink_evs (d : Dev) (k : Nat) (r : LinkRt) : (d.setLink k r).evs = d.evs := rfl
@[simp] theorem Dev.setLink_once (d : Dev) (k : Nat) (r : LinkRt) : (d.setLink k r).once = d.once := rfl
@[simp] theorem Dev.setLink_msix (d : Dev) (k : Nat) (r : LinkRt) : (d.setLink k r).msix = d.msix := rfl
@[simp] theorem Dev.setLink_cores (d : Dev) (k : Nat) (r : LinkRt) : (d.setLink k r).cores = d.cores := rfl
@[simp] theorem Dev.setLink_sump (d : Dev) (k : Nat) (r : LinkRt) : (d.setLink k r).sump = d.sump := rfl
@[simp] theorem Dev.setLink_sec (d : Dev) (k : Nat) (r : LinkRt) : (d.setLink k r).sec = d.sec := rfl
@[simp] theorem Dev.setLink_rst (d : Dev) (k : Nat) (r : LinkRt) : (d.setLink k r).rst = d.rst := rfl
@[simp] theorem Dev.setLink_cal (d : Dev) (k : Nat) (r : LinkRt) : (d.setLink k r).cal = d.cal := rfl
@[simp] theorem Dev.setLink_tim (d : Dev) (k : Nat) (r : LinkRt) : (d.setLink k r).tim = d.tim := rfl
@[simp] theorem Dev.setLink_img (d : Dev) (k : Nat) (r : LinkRt) : (d.setLink k r).img = d.img := rfl
@[simp] theorem Dev.setLink_org (d : Dev) (k : Nat) (r : LinkRt) : (d.setLink k r).org = d.org := rfl
@[simp] theorem Dev.setLink_pump (d : Dev) (k : Nat) (r : LinkRt) : (d.setLink k r).pump = d.pump := rfl
@[simp] theorem Dev.setLink_ports (d : Dev) (k : Nat) (r : LinkRt) : (d.setLink k r).ports = d.ports := rfl
@[simp] theorem Dev.setLink_ddr (d : Dev) (k : Nat) (r : LinkRt) : (d.setLink k r).ddr = d.ddr := rfl
@[simp] theorem Dev.setLink_pcie (d : Dev) (k : Nat) (r : LinkRt) : (d.setLink k r).pcie = d.pcie := rfl
@[simp] theorem Dev.setLink_i2c (d : Dev) (k : Nat) (r : LinkRt) : (d.setLink k r).i2c = d.i2c := rfl
@[simp] theorem Dev.setLink_pkt (d : Dev) (k : Nat) (r : LinkRt) : (d.setLink k r).pkt = d.pkt := rfl
@[simp] theorem Dev.setLink_cis (d : Dev) (k : Nat) (r : LinkRt) : (d.setLink k r).cis = d.cis := rfl
@[simp] theorem Dev.setLink_cnv (d : Dev) (k : Nat) (r : LinkRt) : (d.setLink k r).cnv = d.cnv := rfl
@[simp] theorem Dev.setLink_kern (d : Dev) (k : Nat) (r : LinkRt) : (d.setLink k r).kern = d.kern := rfl
@[simp] theorem Dev.setLink_tone (d : Dev) (k : Nat) (r : LinkRt) : (d.setLink k r).tone = d.tone := rfl
@[simp] theorem Dev.setLink_cmp (d : Dev) (k : Nat) (r : LinkRt) : (d.setLink k r).cmp = d.cmp := rfl
@[simp] theorem Dev.setLink_reply (d : Dev) (k : Nat) (r : LinkRt) : (d.setLink k r).reply = d.reply := rfl
@[simp] theorem Dev.setLink_free (d : Dev) (k : Nat) (r : LinkRt) : (d.setLink k r).free = d.free := rfl
@[simp] theorem Dev.setLink_get (d : Dev) (f : Fld) (k : Nat) (r : LinkRt) : (d.setLink k r).get f = d.get f := rfl
@[simp] theorem Dev.link_setLink_self (d : Dev) (k : Nat) (r : LinkRt) : (d.setLink k r).link k = r := kvD_kvPut_self ..
theorem Dev.link_setLink_ne (d : Dev) {j k : Nat} (r : LinkRt) (h : j ≠ k) : (d.setLink k r).link j = d.link j := kvD_kvPut_ne h ..

/-! ### Dev.setCis -/

@[simp] theorem Dev.setCis_regs (d : Dev) (k : Nat) (r : CisRt) : (d.setCis k r).regs = d.regs := rfl
@[simp] theorem Dev.setCis_evs (d : Dev) (k : Nat) (r : CisRt) : (d.setCis k r).evs = d.evs := rfl
@[simp] theorem Dev.setCis_once (d : Dev) (k : Nat) (r : CisRt) : (d.setCis k r).once = d.once := rfl
@[simp] theorem Dev.setCis_msix (d : Dev) (k : Nat) (r : CisRt) : (d.setCis k r).msix = d.msix := rfl
@[simp] theorem Dev.setCis_cores (d : Dev) (k : Nat) (r : CisRt) : (d.setCis k r).cores = d.cores := rfl
@[simp] theorem Dev.setCis_sump (d : Dev) (k : Nat) (r : CisRt) : (d.setCis k r).sump = d.sump := rfl
@[simp] theorem Dev.setCis_sec (d : Dev) (k : Nat) (r : CisRt) : (d.setCis k r).sec = d.sec := rfl
@[simp] theorem Dev.setCis_rst (d : Dev) (k : Nat) (r : CisRt) : (d.setCis k r).rst = d.rst := rfl
@[simp] theorem Dev.setCis_cal (d : Dev) (k : Nat) (r : CisRt) : (d.setCis k r).cal = d.cal := rfl
@[simp] theorem Dev.setCis_tim (d : Dev) (k : Nat) (r : CisRt) : (d.setCis k r).tim = d.tim := rfl
@[simp] theorem Dev.setCis_img (d : Dev) (k : Nat) (r : CisRt) : (d.setCis k r).img = d.img := rfl
@[simp] theorem Dev.setCis_org (d : Dev) (k : Nat) (r : CisRt) : (d.setCis k r).org = d.org := rfl
@[simp] theorem Dev.setCis_pump (d : Dev) (k : Nat) (r : CisRt) : (d.setCis k r).pump = d.pump := rfl
@[simp] theorem Dev.setCis_qf (d : Dev) (k : Nat) (r : CisRt) : (d.setCis k r).qf = d.qf := rfl
@[simp] theorem Dev.setCis_ports (d : Dev) (k : Nat) (r : CisRt) : (d.setCis k r).ports = d.ports := rfl
@[simp] theorem Dev.setCis_ddr (d : Dev) (k : Nat) (r : CisRt) : (d.setCis k r).ddr = d.ddr := rfl
@[simp] theorem Dev.setCis_pcie (d : Dev) (k : Nat) (r : CisRt) : (d.setCis k r).pcie = d.pcie := rfl
@[simp] theorem Dev.setCis_i2c (d : Dev) (k : Nat) (r : CisRt) : (d.setCis k r).i2c = d.i2c := rfl
@[simp] theorem Dev.setCis_pkt (d : Dev) (k : Nat) (r : CisRt) : (d.setCis k r).pkt = d.pkt := rfl
@[simp] theorem Dev.setCis_cnv (d : Dev) (k : Nat) (r : CisRt) : (d.setCis k r).cnv = d.cnv := rfl
@[simp] theorem Dev.setCis_kern (d : Dev) (k : Nat) (r : CisRt) : (d.setCis k r).kern = d.kern := rfl
@[simp] theorem Dev.setCis_tone (d : Dev) (k : Nat) (r : CisRt) : (d.setCis k r).tone = d.tone := rfl
@[simp] theorem Dev.setCis_cmp (d : Dev) (k : Nat) (r : CisRt) : (d.setCis k r).cmp = d.cmp := rfl
@[simp] theorem Dev.setCis_reply (d : Dev) (k : Nat) (r : CisRt) : (d.setCis k r).reply = d.reply := rfl
@[simp] theorem Dev.setCis_free (d : Dev) (k : Nat) (r : CisRt) : (d.setCis k r).free = d.free := rfl
@[simp] theorem Dev.setCis_get (d : Dev) (f : Fld) (k : Nat) (r : CisRt) : (d.setCis k r).get f = d.get f := rfl
@[simp] theorem Dev.cistern_setCis_self (d : Dev) (k : Nat) (r : CisRt) : (d.setCis k r).cistern k = r := kvD_kvSet_self ..
theorem Dev.cistern_setCis_ne (d : Dev) {j k : Nat} (r : CisRt) (h : j ≠ k) : (d.setCis k r).cistern j = d.cistern j := kvD_kvSet_ne h ..

/-! ### Dev.setChain -/

@[simp] theorem Dev.setChain_regs (d : Dev) (k : Nat) (r : ChainRt) : (d.setChain k r).regs = d.regs := rfl
@[simp] theorem Dev.setChain_evs (d : Dev) (k : Nat) (r : ChainRt) : (d.setChain k r).evs = d.evs := rfl
@[simp] theorem Dev.setChain_once (d : Dev) (k : Nat) (r : ChainRt) : (d.setChain k r).once = d.once := rfl
@[simp] theorem Dev.setChain_msix (d : Dev) (k : Nat) (r : ChainRt) : (d.setChain k r).msix = d.msix := rfl
@[simp] theorem Dev.setChain_cores (d : Dev) (k : Nat) (r : ChainRt) : (d.setChain k r).cores = d.cores := rfl
@[simp] theorem Dev.setChain_sump (d : Dev) (k : Nat) (r : ChainRt) : (d.setChain k r).sump = d.sump := rfl
@[simp] theorem Dev.setChain_sec (d : Dev) (k : Nat) (r : ChainRt) : (d.setChain k r).sec = d.sec := rfl
@[simp] theorem Dev.setChain_rst (d : Dev) (k : Nat) (r : ChainRt) : (d.setChain k r).rst = d.rst := rfl
@[simp] theorem Dev.setChain_cal (d : Dev) (k : Nat) (r : ChainRt) : (d.setChain k r).cal = d.cal := rfl
@[simp] theorem Dev.setChain_tim (d : Dev) (k : Nat) (r : ChainRt) : (d.setChain k r).tim = d.tim := rfl
@[simp] theorem Dev.setChain_img (d : Dev) (k : Nat) (r : ChainRt) : (d.setChain k r).img = d.img := rfl
@[simp] theorem Dev.setChain_org (d : Dev) (k : Nat) (r : ChainRt) : (d.setChain k r).org = d.org := rfl
@[simp] theorem Dev.setChain_pump (d : Dev) (k : Nat) (r : ChainRt) : (d.setChain k r).pump = d.pump := rfl
@[simp] theorem Dev.setChain_qf (d : Dev) (k : Nat) (r : ChainRt) : (d.setChain k r).qf = d.qf := rfl
@[simp] theorem Dev.setChain_ports (d : Dev) (k : Nat) (r : ChainRt) : (d.setChain k r).ports = d.ports := rfl
@[simp] theorem Dev.setChain_ddr (d : Dev) (k : Nat) (r : ChainRt) : (d.setChain k r).ddr = d.ddr := rfl
@[simp] theorem Dev.setChain_pcie (d : Dev) (k : Nat) (r : ChainRt) : (d.setChain k r).pcie = d.pcie := rfl
@[simp] theorem Dev.setChain_i2c (d : Dev) (k : Nat) (r : ChainRt) : (d.setChain k r).i2c = d.i2c := rfl
@[simp] theorem Dev.setChain_pkt (d : Dev) (k : Nat) (r : ChainRt) : (d.setChain k r).pkt = d.pkt := rfl
@[simp] theorem Dev.setChain_cis (d : Dev) (k : Nat) (r : ChainRt) : (d.setChain k r).cis = d.cis := rfl
@[simp] theorem Dev.setChain_kern (d : Dev) (k : Nat) (r : ChainRt) : (d.setChain k r).kern = d.kern := rfl
@[simp] theorem Dev.setChain_tone (d : Dev) (k : Nat) (r : ChainRt) : (d.setChain k r).tone = d.tone := rfl
@[simp] theorem Dev.setChain_cmp (d : Dev) (k : Nat) (r : ChainRt) : (d.setChain k r).cmp = d.cmp := rfl
@[simp] theorem Dev.setChain_reply (d : Dev) (k : Nat) (r : ChainRt) : (d.setChain k r).reply = d.reply := rfl
@[simp] theorem Dev.setChain_free (d : Dev) (k : Nat) (r : ChainRt) : (d.setChain k r).free = d.free := rfl
@[simp] theorem Dev.setChain_get (d : Dev) (f : Fld) (k : Nat) (r : ChainRt) : (d.setChain k r).get f = d.get f := rfl
@[simp] theorem Dev.chain_setChain_self (d : Dev) (k : Nat) (r : ChainRt) : (d.setChain k r).chain k = r := kvD_kvSet_self ..
theorem Dev.chain_setChain_ne (d : Dev) {j k : Nat} (r : ChainRt) (h : j ≠ k) : (d.setChain k r).chain j = d.chain j := kvD_kvSet_ne h ..

/-! ### Dev.setFset -/

@[simp] theorem Dev.setFset_regs (d : Dev) (k : Nat) (r : SetRt) : (d.setFset k r).regs = d.regs := rfl
@[simp] theorem Dev.setFset_evs (d : Dev) (k : Nat) (r : SetRt) : (d.setFset k r).evs = d.evs := rfl
@[simp] theorem Dev.setFset_once (d : Dev) (k : Nat) (r : SetRt) : (d.setFset k r).once = d.once := rfl
@[simp] theorem Dev.setFset_msix (d : Dev) (k : Nat) (r : SetRt) : (d.setFset k r).msix = d.msix := rfl
@[simp] theorem Dev.setFset_cores (d : Dev) (k : Nat) (r : SetRt) : (d.setFset k r).cores = d.cores := rfl
@[simp] theorem Dev.setFset_sump (d : Dev) (k : Nat) (r : SetRt) : (d.setFset k r).sump = d.sump := rfl
@[simp] theorem Dev.setFset_sec (d : Dev) (k : Nat) (r : SetRt) : (d.setFset k r).sec = d.sec := rfl
@[simp] theorem Dev.setFset_rst (d : Dev) (k : Nat) (r : SetRt) : (d.setFset k r).rst = d.rst := rfl
@[simp] theorem Dev.setFset_cal (d : Dev) (k : Nat) (r : SetRt) : (d.setFset k r).cal = d.cal := rfl
@[simp] theorem Dev.setFset_tim (d : Dev) (k : Nat) (r : SetRt) : (d.setFset k r).tim = d.tim := rfl
@[simp] theorem Dev.setFset_img (d : Dev) (k : Nat) (r : SetRt) : (d.setFset k r).img = d.img := rfl
@[simp] theorem Dev.setFset_org (d : Dev) (k : Nat) (r : SetRt) : (d.setFset k r).org = d.org := rfl
@[simp] theorem Dev.setFset_pump (d : Dev) (k : Nat) (r : SetRt) : (d.setFset k r).pump = d.pump := rfl
@[simp] theorem Dev.setFset_qf (d : Dev) (k : Nat) (r : SetRt) : (d.setFset k r).qf = d.qf := rfl
@[simp] theorem Dev.setFset_ports (d : Dev) (k : Nat) (r : SetRt) : (d.setFset k r).ports = d.ports := rfl
@[simp] theorem Dev.setFset_ddr (d : Dev) (k : Nat) (r : SetRt) : (d.setFset k r).ddr = d.ddr := rfl
@[simp] theorem Dev.setFset_pcie (d : Dev) (k : Nat) (r : SetRt) : (d.setFset k r).pcie = d.pcie := rfl
@[simp] theorem Dev.setFset_i2c (d : Dev) (k : Nat) (r : SetRt) : (d.setFset k r).i2c = d.i2c := rfl
@[simp] theorem Dev.setFset_pkt (d : Dev) (k : Nat) (r : SetRt) : (d.setFset k r).pkt = d.pkt := rfl
@[simp] theorem Dev.setFset_cis (d : Dev) (k : Nat) (r : SetRt) : (d.setFset k r).cis = d.cis := rfl
@[simp] theorem Dev.setFset_kern (d : Dev) (k : Nat) (r : SetRt) : (d.setFset k r).kern = d.kern := rfl
@[simp] theorem Dev.setFset_tone (d : Dev) (k : Nat) (r : SetRt) : (d.setFset k r).tone = d.tone := rfl
@[simp] theorem Dev.setFset_cmp (d : Dev) (k : Nat) (r : SetRt) : (d.setFset k r).cmp = d.cmp := rfl
@[simp] theorem Dev.setFset_reply (d : Dev) (k : Nat) (r : SetRt) : (d.setFset k r).reply = d.reply := rfl
@[simp] theorem Dev.setFset_free (d : Dev) (k : Nat) (r : SetRt) : (d.setFset k r).free = d.free := rfl
@[simp] theorem Dev.setFset_get (d : Dev) (f : Fld) (k : Nat) (r : SetRt) : (d.setFset k r).get f = d.get f := rfl
@[simp] theorem Dev.fset_setFset_self (d : Dev) (k : Nat) (r : SetRt) : (d.setFset k r).fset k = r := kvD_kvSet_self ..
theorem Dev.fset_setFset_ne (d : Dev) {j k : Nat} (r : SetRt) (h : j ≠ k) : (d.setFset k r).fset j = d.fset j := kvD_kvSet_ne h ..

/-! ### Dev.setLane -/

@[simp] theorem Dev.setLane_regs (d : Dev) (k : Nat) (r : LaneRt) : (d.setLane k r).regs = d.regs := rfl
@[simp] theorem Dev.setLane_evs (d : Dev) (k : Nat) (r : LaneRt) : (d.setLane k r).evs = d.evs := rfl
@[simp] theorem Dev.setLane_once (d : Dev) (k : Nat) (r : LaneRt) : (d.setLane k r).once = d.once := rfl
@[simp] theorem Dev.setLane_msix (d : Dev) (k : Nat) (r : LaneRt) : (d.setLane k r).msix = d.msix := rfl
@[simp] theorem Dev.setLane_cores (d : Dev) (k : Nat) (r : LaneRt) : (d.setLane k r).cores = d.cores := rfl
@[simp] theorem Dev.setLane_sump (d : Dev) (k : Nat) (r : LaneRt) : (d.setLane k r).sump = d.sump := rfl
@[simp] theorem Dev.setLane_sec (d : Dev) (k : Nat) (r : LaneRt) : (d.setLane k r).sec = d.sec := rfl
@[simp] theorem Dev.setLane_rst (d : Dev) (k : Nat) (r : LaneRt) : (d.setLane k r).rst = d.rst := rfl
@[simp] theorem Dev.setLane_cal (d : Dev) (k : Nat) (r : LaneRt) : (d.setLane k r).cal = d.cal := rfl
@[simp] theorem Dev.setLane_tim (d : Dev) (k : Nat) (r : LaneRt) : (d.setLane k r).tim = d.tim := rfl
@[simp] theorem Dev.setLane_img (d : Dev) (k : Nat) (r : LaneRt) : (d.setLane k r).img = d.img := rfl
@[simp] theorem Dev.setLane_org (d : Dev) (k : Nat) (r : LaneRt) : (d.setLane k r).org = d.org := rfl
@[simp] theorem Dev.setLane_pump (d : Dev) (k : Nat) (r : LaneRt) : (d.setLane k r).pump = d.pump := rfl
@[simp] theorem Dev.setLane_qf (d : Dev) (k : Nat) (r : LaneRt) : (d.setLane k r).qf = d.qf := rfl
@[simp] theorem Dev.setLane_ports (d : Dev) (k : Nat) (r : LaneRt) : (d.setLane k r).ports = d.ports := rfl
@[simp] theorem Dev.setLane_ddr (d : Dev) (k : Nat) (r : LaneRt) : (d.setLane k r).ddr = d.ddr := rfl
@[simp] theorem Dev.setLane_pcie (d : Dev) (k : Nat) (r : LaneRt) : (d.setLane k r).pcie = d.pcie := rfl
@[simp] theorem Dev.setLane_i2c (d : Dev) (k : Nat) (r : LaneRt) : (d.setLane k r).i2c = d.i2c := rfl
@[simp] theorem Dev.setLane_pkt (d : Dev) (k : Nat) (r : LaneRt) : (d.setLane k r).pkt = d.pkt := rfl
@[simp] theorem Dev.setLane_cis (d : Dev) (k : Nat) (r : LaneRt) : (d.setLane k r).cis = d.cis := rfl
@[simp] theorem Dev.setLane_kern (d : Dev) (k : Nat) (r : LaneRt) : (d.setLane k r).kern = d.kern := rfl
@[simp] theorem Dev.setLane_tone (d : Dev) (k : Nat) (r : LaneRt) : (d.setLane k r).tone = d.tone := rfl
@[simp] theorem Dev.setLane_cmp (d : Dev) (k : Nat) (r : LaneRt) : (d.setLane k r).cmp = d.cmp := rfl
@[simp] theorem Dev.setLane_reply (d : Dev) (k : Nat) (r : LaneRt) : (d.setLane k r).reply = d.reply := rfl
@[simp] theorem Dev.setLane_free (d : Dev) (k : Nat) (r : LaneRt) : (d.setLane k r).free = d.free := rfl
@[simp] theorem Dev.setLane_get (d : Dev) (f : Fld) (k : Nat) (r : LaneRt) : (d.setLane k r).get f = d.get f := rfl
@[simp] theorem Dev.lane_setLane_self (d : Dev) (k : Nat) (r : LaneRt) : (d.setLane k r).lane k = r := kvD_kvSet_self ..
theorem Dev.lane_setLane_ne (d : Dev) {j k : Nat} (r : LaneRt) (h : j ≠ k) : (d.setLane k r).lane j = d.lane j := kvD_kvSet_ne h ..

/-! ### Dev.setFlow -/

@[simp] theorem Dev.setFlow_regs (d : Dev) (k v : Nat) : (d.setFlow k v).regs = d.regs := rfl
@[simp] theorem Dev.setFlow_evs (d : Dev) (k v : Nat) : (d.setFlow k v).evs = d.evs := rfl
@[simp] theorem Dev.setFlow_once (d : Dev) (k v : Nat) : (d.setFlow k v).once = d.once := rfl
@[simp] theorem Dev.setFlow_msix (d : Dev) (k v : Nat) : (d.setFlow k v).msix = d.msix := rfl
@[simp] theorem Dev.setFlow_cores (d : Dev) (k v : Nat) : (d.setFlow k v).cores = d.cores := rfl
@[simp] theorem Dev.setFlow_sump (d : Dev) (k v : Nat) : (d.setFlow k v).sump = d.sump := rfl
@[simp] theorem Dev.setFlow_sec (d : Dev) (k v : Nat) : (d.setFlow k v).sec = d.sec := rfl
@[simp] theorem Dev.setFlow_rst (d : Dev) (k v : Nat) : (d.setFlow k v).rst = d.rst := rfl
@[simp] theorem Dev.setFlow_cal (d : Dev) (k v : Nat) : (d.setFlow k v).cal = d.cal := rfl
@[simp] theorem Dev.setFlow_tim (d : Dev) (k v : Nat) : (d.setFlow k v).tim = d.tim := rfl
@[simp] theorem Dev.setFlow_img (d : Dev) (k v : Nat) : (d.setFlow k v).img = d.img := rfl
@[simp] theorem Dev.setFlow_org (d : Dev) (k v : Nat) : (d.setFlow k v).org = d.org := rfl
@[simp] theorem Dev.setFlow_pump (d : Dev) (k v : Nat) : (d.setFlow k v).pump = d.pump := rfl
@[simp] theorem Dev.setFlow_qf (d : Dev) (k v : Nat) : (d.setFlow k v).qf = d.qf := rfl
@[simp] theorem Dev.setFlow_ports (d : Dev) (k v : Nat) : (d.setFlow k v).ports = d.ports := rfl
@[simp] theorem Dev.setFlow_ddr (d : Dev) (k v : Nat) : (d.setFlow k v).ddr = d.ddr := rfl
@[simp] theorem Dev.setFlow_pcie (d : Dev) (k v : Nat) : (d.setFlow k v).pcie = d.pcie := rfl
@[simp] theorem Dev.setFlow_i2c (d : Dev) (k v : Nat) : (d.setFlow k v).i2c = d.i2c := rfl
@[simp] theorem Dev.setFlow_cis (d : Dev) (k v : Nat) : (d.setFlow k v).cis = d.cis := rfl
@[simp] theorem Dev.setFlow_cnv (d : Dev) (k v : Nat) : (d.setFlow k v).cnv = d.cnv := rfl
@[simp] theorem Dev.setFlow_kern (d : Dev) (k v : Nat) : (d.setFlow k v).kern = d.kern := rfl
@[simp] theorem Dev.setFlow_tone (d : Dev) (k v : Nat) : (d.setFlow k v).tone = d.tone := rfl
@[simp] theorem Dev.setFlow_cmp (d : Dev) (k v : Nat) : (d.setFlow k v).cmp = d.cmp := rfl
@[simp] theorem Dev.setFlow_reply (d : Dev) (k v : Nat) : (d.setFlow k v).reply = d.reply := rfl
@[simp] theorem Dev.setFlow_free (d : Dev) (k v : Nat) : (d.setFlow k v).free = d.free := rfl
@[simp] theorem Dev.setFlow_get (d : Dev) (f : Fld) (k v : Nat) : (d.setFlow k v).get f = d.get f := rfl

/-! ### Dev.setCtx -/

@[simp] theorem Dev.setCtx_regs (d : Dev) (k : Nat) (r : SrtpCtx) : (d.setCtx k r).regs = d.regs := rfl
@[simp] theorem Dev.setCtx_evs (d : Dev) (k : Nat) (r : SrtpCtx) : (d.setCtx k r).evs = d.evs := rfl
@[simp] theorem Dev.setCtx_once (d : Dev) (k : Nat) (r : SrtpCtx) : (d.setCtx k r).once = d.once := rfl
@[simp] theorem Dev.setCtx_msix (d : Dev) (k : Nat) (r : SrtpCtx) : (d.setCtx k r).msix = d.msix := rfl
@[simp] theorem Dev.setCtx_cores (d : Dev) (k : Nat) (r : SrtpCtx) : (d.setCtx k r).cores = d.cores := rfl
@[simp] theorem Dev.setCtx_sump (d : Dev) (k : Nat) (r : SrtpCtx) : (d.setCtx k r).sump = d.sump := rfl
@[simp] theorem Dev.setCtx_sec (d : Dev) (k : Nat) (r : SrtpCtx) : (d.setCtx k r).sec = d.sec := rfl
@[simp] theorem Dev.setCtx_rst (d : Dev) (k : Nat) (r : SrtpCtx) : (d.setCtx k r).rst = d.rst := rfl
@[simp] theorem Dev.setCtx_cal (d : Dev) (k : Nat) (r : SrtpCtx) : (d.setCtx k r).cal = d.cal := rfl
@[simp] theorem Dev.setCtx_tim (d : Dev) (k : Nat) (r : SrtpCtx) : (d.setCtx k r).tim = d.tim := rfl
@[simp] theorem Dev.setCtx_img (d : Dev) (k : Nat) (r : SrtpCtx) : (d.setCtx k r).img = d.img := rfl
@[simp] theorem Dev.setCtx_org (d : Dev) (k : Nat) (r : SrtpCtx) : (d.setCtx k r).org = d.org := rfl
@[simp] theorem Dev.setCtx_pump (d : Dev) (k : Nat) (r : SrtpCtx) : (d.setCtx k r).pump = d.pump := rfl
@[simp] theorem Dev.setCtx_qf (d : Dev) (k : Nat) (r : SrtpCtx) : (d.setCtx k r).qf = d.qf := rfl
@[simp] theorem Dev.setCtx_ports (d : Dev) (k : Nat) (r : SrtpCtx) : (d.setCtx k r).ports = d.ports := rfl
@[simp] theorem Dev.setCtx_ddr (d : Dev) (k : Nat) (r : SrtpCtx) : (d.setCtx k r).ddr = d.ddr := rfl
@[simp] theorem Dev.setCtx_pcie (d : Dev) (k : Nat) (r : SrtpCtx) : (d.setCtx k r).pcie = d.pcie := rfl
@[simp] theorem Dev.setCtx_i2c (d : Dev) (k : Nat) (r : SrtpCtx) : (d.setCtx k r).i2c = d.i2c := rfl
@[simp] theorem Dev.setCtx_cis (d : Dev) (k : Nat) (r : SrtpCtx) : (d.setCtx k r).cis = d.cis := rfl
@[simp] theorem Dev.setCtx_cnv (d : Dev) (k : Nat) (r : SrtpCtx) : (d.setCtx k r).cnv = d.cnv := rfl
@[simp] theorem Dev.setCtx_kern (d : Dev) (k : Nat) (r : SrtpCtx) : (d.setCtx k r).kern = d.kern := rfl
@[simp] theorem Dev.setCtx_tone (d : Dev) (k : Nat) (r : SrtpCtx) : (d.setCtx k r).tone = d.tone := rfl
@[simp] theorem Dev.setCtx_cmp (d : Dev) (k : Nat) (r : SrtpCtx) : (d.setCtx k r).cmp = d.cmp := rfl
@[simp] theorem Dev.setCtx_reply (d : Dev) (k : Nat) (r : SrtpCtx) : (d.setCtx k r).reply = d.reply := rfl
@[simp] theorem Dev.setCtx_free (d : Dev) (k : Nat) (r : SrtpCtx) : (d.setCtx k r).free = d.free := rfl
@[simp] theorem Dev.setCtx_get (d : Dev) (f : Fld) (k : Nat) (r : SrtpCtx) : (d.setCtx k r).get f = d.get f := rfl
@[simp] theorem Dev.ctx_setCtx_self (d : Dev) (k : Nat) (r : SrtpCtx) : (d.setCtx k r).ctx k = r := kvD_kvSet_self ..
theorem Dev.ctx_setCtx_ne (d : Dev) {j k : Nat} (r : SrtpCtx) (h : j ≠ k) : (d.setCtx k r).ctx j = d.ctx j := kvD_kvSet_ne h ..

/-! ### Dev.setEg -/

@[simp] theorem Dev.setEg_regs (d : Dev) (k : Nat) (r : EgRt) : (d.setEg k r).regs = d.regs := rfl
@[simp] theorem Dev.setEg_evs (d : Dev) (k : Nat) (r : EgRt) : (d.setEg k r).evs = d.evs := rfl
@[simp] theorem Dev.setEg_once (d : Dev) (k : Nat) (r : EgRt) : (d.setEg k r).once = d.once := rfl
@[simp] theorem Dev.setEg_msix (d : Dev) (k : Nat) (r : EgRt) : (d.setEg k r).msix = d.msix := rfl
@[simp] theorem Dev.setEg_cores (d : Dev) (k : Nat) (r : EgRt) : (d.setEg k r).cores = d.cores := rfl
@[simp] theorem Dev.setEg_sump (d : Dev) (k : Nat) (r : EgRt) : (d.setEg k r).sump = d.sump := rfl
@[simp] theorem Dev.setEg_sec (d : Dev) (k : Nat) (r : EgRt) : (d.setEg k r).sec = d.sec := rfl
@[simp] theorem Dev.setEg_rst (d : Dev) (k : Nat) (r : EgRt) : (d.setEg k r).rst = d.rst := rfl
@[simp] theorem Dev.setEg_cal (d : Dev) (k : Nat) (r : EgRt) : (d.setEg k r).cal = d.cal := rfl
@[simp] theorem Dev.setEg_tim (d : Dev) (k : Nat) (r : EgRt) : (d.setEg k r).tim = d.tim := rfl
@[simp] theorem Dev.setEg_img (d : Dev) (k : Nat) (r : EgRt) : (d.setEg k r).img = d.img := rfl
@[simp] theorem Dev.setEg_org (d : Dev) (k : Nat) (r : EgRt) : (d.setEg k r).org = d.org := rfl
@[simp] theorem Dev.setEg_pump (d : Dev) (k : Nat) (r : EgRt) : (d.setEg k r).pump = d.pump := rfl
@[simp] theorem Dev.setEg_qf (d : Dev) (k : Nat) (r : EgRt) : (d.setEg k r).qf = d.qf := rfl
@[simp] theorem Dev.setEg_ports (d : Dev) (k : Nat) (r : EgRt) : (d.setEg k r).ports = d.ports := rfl
@[simp] theorem Dev.setEg_ddr (d : Dev) (k : Nat) (r : EgRt) : (d.setEg k r).ddr = d.ddr := rfl
@[simp] theorem Dev.setEg_pcie (d : Dev) (k : Nat) (r : EgRt) : (d.setEg k r).pcie = d.pcie := rfl
@[simp] theorem Dev.setEg_i2c (d : Dev) (k : Nat) (r : EgRt) : (d.setEg k r).i2c = d.i2c := rfl
@[simp] theorem Dev.setEg_cis (d : Dev) (k : Nat) (r : EgRt) : (d.setEg k r).cis = d.cis := rfl
@[simp] theorem Dev.setEg_cnv (d : Dev) (k : Nat) (r : EgRt) : (d.setEg k r).cnv = d.cnv := rfl
@[simp] theorem Dev.setEg_kern (d : Dev) (k : Nat) (r : EgRt) : (d.setEg k r).kern = d.kern := rfl
@[simp] theorem Dev.setEg_tone (d : Dev) (k : Nat) (r : EgRt) : (d.setEg k r).tone = d.tone := rfl
@[simp] theorem Dev.setEg_cmp (d : Dev) (k : Nat) (r : EgRt) : (d.setEg k r).cmp = d.cmp := rfl
@[simp] theorem Dev.setEg_reply (d : Dev) (k : Nat) (r : EgRt) : (d.setEg k r).reply = d.reply := rfl
@[simp] theorem Dev.setEg_free (d : Dev) (k : Nat) (r : EgRt) : (d.setEg k r).free = d.free := rfl
@[simp] theorem Dev.setEg_get (d : Dev) (f : Fld) (k : Nat) (r : EgRt) : (d.setEg k r).get f = d.get f := rfl
@[simp] theorem Dev.eg_setEg_self (d : Dev) (k : Nat) (r : EgRt) : (d.setEg k r).eg k = r := kvD_kvSet_self ..
theorem Dev.eg_setEg_ne (d : Dev) {j k : Nat} (r : EgRt) (h : j ≠ k) : (d.setEg k r).eg j = d.eg j := kvD_kvSet_ne h ..

/-! ### Dev.onCal -/

@[simp] theorem Dev.onCal_regs (d : Dev) (g : Cal → Cal) : (d.onCal g).regs = d.regs := rfl
@[simp] theorem Dev.onCal_evs (d : Dev) (g : Cal → Cal) : (d.onCal g).evs = d.evs := rfl
@[simp] theorem Dev.onCal_once (d : Dev) (g : Cal → Cal) : (d.onCal g).once = d.once := rfl
@[simp] theorem Dev.onCal_msix (d : Dev) (g : Cal → Cal) : (d.onCal g).msix = d.msix := rfl
@[simp] theorem Dev.onCal_cores (d : Dev) (g : Cal → Cal) : (d.onCal g).cores = d.cores := rfl
@[simp] theorem Dev.onCal_sump (d : Dev) (g : Cal → Cal) : (d.onCal g).sump = d.sump := rfl
@[simp] theorem Dev.onCal_sec (d : Dev) (g : Cal → Cal) : (d.onCal g).sec = d.sec := rfl
@[simp] theorem Dev.onCal_rst (d : Dev) (g : Cal → Cal) : (d.onCal g).rst = d.rst := rfl
@[simp] theorem Dev.onCal_tim (d : Dev) (g : Cal → Cal) : (d.onCal g).tim = d.tim := rfl
@[simp] theorem Dev.onCal_img (d : Dev) (g : Cal → Cal) : (d.onCal g).img = d.img := rfl
@[simp] theorem Dev.onCal_org (d : Dev) (g : Cal → Cal) : (d.onCal g).org = d.org := rfl
@[simp] theorem Dev.onCal_pump (d : Dev) (g : Cal → Cal) : (d.onCal g).pump = d.pump := rfl
@[simp] theorem Dev.onCal_qf (d : Dev) (g : Cal → Cal) : (d.onCal g).qf = d.qf := rfl
@[simp] theorem Dev.onCal_ports (d : Dev) (g : Cal → Cal) : (d.onCal g).ports = d.ports := rfl
@[simp] theorem Dev.onCal_ddr (d : Dev) (g : Cal → Cal) : (d.onCal g).ddr = d.ddr := rfl
@[simp] theorem Dev.onCal_pcie (d : Dev) (g : Cal → Cal) : (d.onCal g).pcie = d.pcie := rfl
@[simp] theorem Dev.onCal_i2c (d : Dev) (g : Cal → Cal) : (d.onCal g).i2c = d.i2c := rfl
@[simp] theorem Dev.onCal_pkt (d : Dev) (g : Cal → Cal) : (d.onCal g).pkt = d.pkt := rfl
@[simp] theorem Dev.onCal_cis (d : Dev) (g : Cal → Cal) : (d.onCal g).cis = d.cis := rfl
@[simp] theorem Dev.onCal_cnv (d : Dev) (g : Cal → Cal) : (d.onCal g).cnv = d.cnv := rfl
@[simp] theorem Dev.onCal_kern (d : Dev) (g : Cal → Cal) : (d.onCal g).kern = d.kern := rfl
@[simp] theorem Dev.onCal_tone (d : Dev) (g : Cal → Cal) : (d.onCal g).tone = d.tone := rfl
@[simp] theorem Dev.onCal_cmp (d : Dev) (g : Cal → Cal) : (d.onCal g).cmp = d.cmp := rfl
@[simp] theorem Dev.onCal_reply (d : Dev) (g : Cal → Cal) : (d.onCal g).reply = d.reply := rfl
@[simp] theorem Dev.onCal_free (d : Dev) (g : Cal → Cal) : (d.onCal g).free = d.free := rfl
@[simp] theorem Dev.onCal_get (d : Dev) (f : Fld) (g : Cal → Cal) : (d.onCal g).get f = d.get f := rfl

/-! ### Dev.onRst -/

@[simp] theorem Dev.onRst_regs (d : Dev) (g : Rst → Rst) : (d.onRst g).regs = d.regs := rfl
@[simp] theorem Dev.onRst_evs (d : Dev) (g : Rst → Rst) : (d.onRst g).evs = d.evs := rfl
@[simp] theorem Dev.onRst_once (d : Dev) (g : Rst → Rst) : (d.onRst g).once = d.once := rfl
@[simp] theorem Dev.onRst_msix (d : Dev) (g : Rst → Rst) : (d.onRst g).msix = d.msix := rfl
@[simp] theorem Dev.onRst_cores (d : Dev) (g : Rst → Rst) : (d.onRst g).cores = d.cores := rfl
@[simp] theorem Dev.onRst_sump (d : Dev) (g : Rst → Rst) : (d.onRst g).sump = d.sump := rfl
@[simp] theorem Dev.onRst_sec (d : Dev) (g : Rst → Rst) : (d.onRst g).sec = d.sec := rfl
@[simp] theorem Dev.onRst_cal (d : Dev) (g : Rst → Rst) : (d.onRst g).cal = d.cal := rfl
@[simp] theorem Dev.onRst_tim (d : Dev) (g : Rst → Rst) : (d.onRst g).tim = d.tim := rfl
@[simp] theorem Dev.onRst_img (d : Dev) (g : Rst → Rst) : (d.onRst g).img = d.img := rfl
@[simp] theorem Dev.onRst_org (d : Dev) (g : Rst → Rst) : (d.onRst g).org = d.org := rfl
@[simp] theorem Dev.onRst_pump (d : Dev) (g : Rst → Rst) : (d.onRst g).pump = d.pump := rfl
@[simp] theorem Dev.onRst_qf (d : Dev) (g : Rst → Rst) : (d.onRst g).qf = d.qf := rfl
@[simp] theorem Dev.onRst_ports (d : Dev) (g : Rst → Rst) : (d.onRst g).ports = d.ports := rfl
@[simp] theorem Dev.onRst_ddr (d : Dev) (g : Rst → Rst) : (d.onRst g).ddr = d.ddr := rfl
@[simp] theorem Dev.onRst_pcie (d : Dev) (g : Rst → Rst) : (d.onRst g).pcie = d.pcie := rfl
@[simp] theorem Dev.onRst_i2c (d : Dev) (g : Rst → Rst) : (d.onRst g).i2c = d.i2c := rfl
@[simp] theorem Dev.onRst_pkt (d : Dev) (g : Rst → Rst) : (d.onRst g).pkt = d.pkt := rfl
@[simp] theorem Dev.onRst_cis (d : Dev) (g : Rst → Rst) : (d.onRst g).cis = d.cis := rfl
@[simp] theorem Dev.onRst_cnv (d : Dev) (g : Rst → Rst) : (d.onRst g).cnv = d.cnv := rfl
@[simp] theorem Dev.onRst_kern (d : Dev) (g : Rst → Rst) : (d.onRst g).kern = d.kern := rfl
@[simp] theorem Dev.onRst_tone (d : Dev) (g : Rst → Rst) : (d.onRst g).tone = d.tone := rfl
@[simp] theorem Dev.onRst_cmp (d : Dev) (g : Rst → Rst) : (d.onRst g).cmp = d.cmp := rfl
@[simp] theorem Dev.onRst_reply (d : Dev) (g : Rst → Rst) : (d.onRst g).reply = d.reply := rfl
@[simp] theorem Dev.onRst_free (d : Dev) (g : Rst → Rst) : (d.onRst g).free = d.free := rfl
@[simp] theorem Dev.onRst_get (d : Dev) (f : Fld) (g : Rst → Rst) : (d.onRst g).get f = d.get f := rfl

/-! ### Dev.onOrg -/

@[simp] theorem Dev.onOrg_regs (d : Dev) (g : Origin → Origin) : (d.onOrg g).regs = d.regs := rfl
@[simp] theorem Dev.onOrg_evs (d : Dev) (g : Origin → Origin) : (d.onOrg g).evs = d.evs := rfl
@[simp] theorem Dev.onOrg_once (d : Dev) (g : Origin → Origin) : (d.onOrg g).once = d.once := rfl
@[simp] theorem Dev.onOrg_msix (d : Dev) (g : Origin → Origin) : (d.onOrg g).msix = d.msix := rfl
@[simp] theorem Dev.onOrg_cores (d : Dev) (g : Origin → Origin) : (d.onOrg g).cores = d.cores := rfl
@[simp] theorem Dev.onOrg_sump (d : Dev) (g : Origin → Origin) : (d.onOrg g).sump = d.sump := rfl
@[simp] theorem Dev.onOrg_sec (d : Dev) (g : Origin → Origin) : (d.onOrg g).sec = d.sec := rfl
@[simp] theorem Dev.onOrg_rst (d : Dev) (g : Origin → Origin) : (d.onOrg g).rst = d.rst := rfl
@[simp] theorem Dev.onOrg_cal (d : Dev) (g : Origin → Origin) : (d.onOrg g).cal = d.cal := rfl
@[simp] theorem Dev.onOrg_tim (d : Dev) (g : Origin → Origin) : (d.onOrg g).tim = d.tim := rfl
@[simp] theorem Dev.onOrg_img (d : Dev) (g : Origin → Origin) : (d.onOrg g).img = d.img := rfl
@[simp] theorem Dev.onOrg_pump (d : Dev) (g : Origin → Origin) : (d.onOrg g).pump = d.pump := rfl
@[simp] theorem Dev.onOrg_qf (d : Dev) (g : Origin → Origin) : (d.onOrg g).qf = d.qf := rfl
@[simp] theorem Dev.onOrg_ports (d : Dev) (g : Origin → Origin) : (d.onOrg g).ports = d.ports := rfl
@[simp] theorem Dev.onOrg_ddr (d : Dev) (g : Origin → Origin) : (d.onOrg g).ddr = d.ddr := rfl
@[simp] theorem Dev.onOrg_pcie (d : Dev) (g : Origin → Origin) : (d.onOrg g).pcie = d.pcie := rfl
@[simp] theorem Dev.onOrg_i2c (d : Dev) (g : Origin → Origin) : (d.onOrg g).i2c = d.i2c := rfl
@[simp] theorem Dev.onOrg_pkt (d : Dev) (g : Origin → Origin) : (d.onOrg g).pkt = d.pkt := rfl
@[simp] theorem Dev.onOrg_cis (d : Dev) (g : Origin → Origin) : (d.onOrg g).cis = d.cis := rfl
@[simp] theorem Dev.onOrg_cnv (d : Dev) (g : Origin → Origin) : (d.onOrg g).cnv = d.cnv := rfl
@[simp] theorem Dev.onOrg_kern (d : Dev) (g : Origin → Origin) : (d.onOrg g).kern = d.kern := rfl
@[simp] theorem Dev.onOrg_tone (d : Dev) (g : Origin → Origin) : (d.onOrg g).tone = d.tone := rfl
@[simp] theorem Dev.onOrg_cmp (d : Dev) (g : Origin → Origin) : (d.onOrg g).cmp = d.cmp := rfl
@[simp] theorem Dev.onOrg_reply (d : Dev) (g : Origin → Origin) : (d.onOrg g).reply = d.reply := rfl
@[simp] theorem Dev.onOrg_free (d : Dev) (g : Origin → Origin) : (d.onOrg g).free = d.free := rfl
@[simp] theorem Dev.onOrg_get (d : Dev) (f : Fld) (g : Origin → Origin) : (d.onOrg g).get f = d.get f := rfl

/-! ### Dev.onTim -/

@[simp] theorem Dev.onTim_regs (d : Dev) (g : Tim → Tim) : (d.onTim g).regs = d.regs := rfl
@[simp] theorem Dev.onTim_evs (d : Dev) (g : Tim → Tim) : (d.onTim g).evs = d.evs := rfl
@[simp] theorem Dev.onTim_once (d : Dev) (g : Tim → Tim) : (d.onTim g).once = d.once := rfl
@[simp] theorem Dev.onTim_msix (d : Dev) (g : Tim → Tim) : (d.onTim g).msix = d.msix := rfl
@[simp] theorem Dev.onTim_cores (d : Dev) (g : Tim → Tim) : (d.onTim g).cores = d.cores := rfl
@[simp] theorem Dev.onTim_sump (d : Dev) (g : Tim → Tim) : (d.onTim g).sump = d.sump := rfl
@[simp] theorem Dev.onTim_sec (d : Dev) (g : Tim → Tim) : (d.onTim g).sec = d.sec := rfl
@[simp] theorem Dev.onTim_rst (d : Dev) (g : Tim → Tim) : (d.onTim g).rst = d.rst := rfl
@[simp] theorem Dev.onTim_cal (d : Dev) (g : Tim → Tim) : (d.onTim g).cal = d.cal := rfl
@[simp] theorem Dev.onTim_img (d : Dev) (g : Tim → Tim) : (d.onTim g).img = d.img := rfl
@[simp] theorem Dev.onTim_org (d : Dev) (g : Tim → Tim) : (d.onTim g).org = d.org := rfl
@[simp] theorem Dev.onTim_pump (d : Dev) (g : Tim → Tim) : (d.onTim g).pump = d.pump := rfl
@[simp] theorem Dev.onTim_qf (d : Dev) (g : Tim → Tim) : (d.onTim g).qf = d.qf := rfl
@[simp] theorem Dev.onTim_ports (d : Dev) (g : Tim → Tim) : (d.onTim g).ports = d.ports := rfl
@[simp] theorem Dev.onTim_ddr (d : Dev) (g : Tim → Tim) : (d.onTim g).ddr = d.ddr := rfl
@[simp] theorem Dev.onTim_pcie (d : Dev) (g : Tim → Tim) : (d.onTim g).pcie = d.pcie := rfl
@[simp] theorem Dev.onTim_i2c (d : Dev) (g : Tim → Tim) : (d.onTim g).i2c = d.i2c := rfl
@[simp] theorem Dev.onTim_pkt (d : Dev) (g : Tim → Tim) : (d.onTim g).pkt = d.pkt := rfl
@[simp] theorem Dev.onTim_cis (d : Dev) (g : Tim → Tim) : (d.onTim g).cis = d.cis := rfl
@[simp] theorem Dev.onTim_cnv (d : Dev) (g : Tim → Tim) : (d.onTim g).cnv = d.cnv := rfl
@[simp] theorem Dev.onTim_kern (d : Dev) (g : Tim → Tim) : (d.onTim g).kern = d.kern := rfl
@[simp] theorem Dev.onTim_tone (d : Dev) (g : Tim → Tim) : (d.onTim g).tone = d.tone := rfl
@[simp] theorem Dev.onTim_cmp (d : Dev) (g : Tim → Tim) : (d.onTim g).cmp = d.cmp := rfl
@[simp] theorem Dev.onTim_reply (d : Dev) (g : Tim → Tim) : (d.onTim g).reply = d.reply := rfl
@[simp] theorem Dev.onTim_free (d : Dev) (g : Tim → Tim) : (d.onTim g).free = d.free := rfl
@[simp] theorem Dev.onTim_get (d : Dev) (f : Fld) (g : Tim → Tim) : (d.onTim g).get f = d.get f := rfl

/-! ### Dev.setTrig -/

@[simp] theorem Dev.setTrig_regs (d : Dev) (k : Nat) (r : TrigRt) : (d.setTrig k r).regs = d.regs := rfl
@[simp] theorem Dev.setTrig_evs (d : Dev) (k : Nat) (r : TrigRt) : (d.setTrig k r).evs = d.evs := rfl
@[simp] theorem Dev.setTrig_once (d : Dev) (k : Nat) (r : TrigRt) : (d.setTrig k r).once = d.once := rfl
@[simp] theorem Dev.setTrig_msix (d : Dev) (k : Nat) (r : TrigRt) : (d.setTrig k r).msix = d.msix := rfl
@[simp] theorem Dev.setTrig_cores (d : Dev) (k : Nat) (r : TrigRt) : (d.setTrig k r).cores = d.cores := rfl
@[simp] theorem Dev.setTrig_sump (d : Dev) (k : Nat) (r : TrigRt) : (d.setTrig k r).sump = d.sump := rfl
@[simp] theorem Dev.setTrig_sec (d : Dev) (k : Nat) (r : TrigRt) : (d.setTrig k r).sec = d.sec := rfl
@[simp] theorem Dev.setTrig_rst (d : Dev) (k : Nat) (r : TrigRt) : (d.setTrig k r).rst = d.rst := rfl
@[simp] theorem Dev.setTrig_cal (d : Dev) (k : Nat) (r : TrigRt) : (d.setTrig k r).cal = d.cal := rfl
@[simp] theorem Dev.setTrig_img (d : Dev) (k : Nat) (r : TrigRt) : (d.setTrig k r).img = d.img := rfl
@[simp] theorem Dev.setTrig_org (d : Dev) (k : Nat) (r : TrigRt) : (d.setTrig k r).org = d.org := rfl
@[simp] theorem Dev.setTrig_pump (d : Dev) (k : Nat) (r : TrigRt) : (d.setTrig k r).pump = d.pump := rfl
@[simp] theorem Dev.setTrig_qf (d : Dev) (k : Nat) (r : TrigRt) : (d.setTrig k r).qf = d.qf := rfl
@[simp] theorem Dev.setTrig_ports (d : Dev) (k : Nat) (r : TrigRt) : (d.setTrig k r).ports = d.ports := rfl
@[simp] theorem Dev.setTrig_ddr (d : Dev) (k : Nat) (r : TrigRt) : (d.setTrig k r).ddr = d.ddr := rfl
@[simp] theorem Dev.setTrig_pcie (d : Dev) (k : Nat) (r : TrigRt) : (d.setTrig k r).pcie = d.pcie := rfl
@[simp] theorem Dev.setTrig_i2c (d : Dev) (k : Nat) (r : TrigRt) : (d.setTrig k r).i2c = d.i2c := rfl
@[simp] theorem Dev.setTrig_pkt (d : Dev) (k : Nat) (r : TrigRt) : (d.setTrig k r).pkt = d.pkt := rfl
@[simp] theorem Dev.setTrig_cis (d : Dev) (k : Nat) (r : TrigRt) : (d.setTrig k r).cis = d.cis := rfl
@[simp] theorem Dev.setTrig_cnv (d : Dev) (k : Nat) (r : TrigRt) : (d.setTrig k r).cnv = d.cnv := rfl
@[simp] theorem Dev.setTrig_kern (d : Dev) (k : Nat) (r : TrigRt) : (d.setTrig k r).kern = d.kern := rfl
@[simp] theorem Dev.setTrig_tone (d : Dev) (k : Nat) (r : TrigRt) : (d.setTrig k r).tone = d.tone := rfl
@[simp] theorem Dev.setTrig_cmp (d : Dev) (k : Nat) (r : TrigRt) : (d.setTrig k r).cmp = d.cmp := rfl
@[simp] theorem Dev.setTrig_reply (d : Dev) (k : Nat) (r : TrigRt) : (d.setTrig k r).reply = d.reply := rfl
@[simp] theorem Dev.setTrig_free (d : Dev) (k : Nat) (r : TrigRt) : (d.setTrig k r).free = d.free := rfl
@[simp] theorem Dev.setTrig_get (d : Dev) (f : Fld) (k : Nat) (r : TrigRt) : (d.setTrig k r).get f = d.get f := rfl
@[simp] theorem Dev.trig_setTrig_self (d : Dev) (k : Nat) (r : TrigRt) : (d.setTrig k r).trig k = r := kvD_kvSet_self ..
theorem Dev.trig_setTrig_ne (d : Dev) {j k : Nat} (r : TrigRt) (h : j ≠ k) : (d.setTrig k r).trig j = d.trig j := kvD_kvSet_ne h ..

/-! ### Dev.setDet -/

@[simp] theorem Dev.setDet_regs (d : Dev) (k : Nat) (r : DetRt) : (d.setDet k r).regs = d.regs := rfl
@[simp] theorem Dev.setDet_evs (d : Dev) (k : Nat) (r : DetRt) : (d.setDet k r).evs = d.evs := rfl
@[simp] theorem Dev.setDet_once (d : Dev) (k : Nat) (r : DetRt) : (d.setDet k r).once = d.once := rfl
@[simp] theorem Dev.setDet_msix (d : Dev) (k : Nat) (r : DetRt) : (d.setDet k r).msix = d.msix := rfl
@[simp] theorem Dev.setDet_cores (d : Dev) (k : Nat) (r : DetRt) : (d.setDet k r).cores = d.cores := rfl
@[simp] theorem Dev.setDet_sump (d : Dev) (k : Nat) (r : DetRt) : (d.setDet k r).sump = d.sump := rfl
@[simp] theorem Dev.setDet_sec (d : Dev) (k : Nat) (r : DetRt) : (d.setDet k r).sec = d.sec := rfl
@[simp] theorem Dev.setDet_rst (d : Dev) (k : Nat) (r : DetRt) : (d.setDet k r).rst = d.rst := rfl
@[simp] theorem Dev.setDet_cal (d : Dev) (k : Nat) (r : DetRt) : (d.setDet k r).cal = d.cal := rfl
@[simp] theorem Dev.setDet_tim (d : Dev) (k : Nat) (r : DetRt) : (d.setDet k r).tim = d.tim := rfl
@[simp] theorem Dev.setDet_img (d : Dev) (k : Nat) (r : DetRt) : (d.setDet k r).img = d.img := rfl
@[simp] theorem Dev.setDet_org (d : Dev) (k : Nat) (r : DetRt) : (d.setDet k r).org = d.org := rfl
@[simp] theorem Dev.setDet_pump (d : Dev) (k : Nat) (r : DetRt) : (d.setDet k r).pump = d.pump := rfl
@[simp] theorem Dev.setDet_qf (d : Dev) (k : Nat) (r : DetRt) : (d.setDet k r).qf = d.qf := rfl
@[simp] theorem Dev.setDet_ports (d : Dev) (k : Nat) (r : DetRt) : (d.setDet k r).ports = d.ports := rfl
@[simp] theorem Dev.setDet_ddr (d : Dev) (k : Nat) (r : DetRt) : (d.setDet k r).ddr = d.ddr := rfl
@[simp] theorem Dev.setDet_pcie (d : Dev) (k : Nat) (r : DetRt) : (d.setDet k r).pcie = d.pcie := rfl
@[simp] theorem Dev.setDet_i2c (d : Dev) (k : Nat) (r : DetRt) : (d.setDet k r).i2c = d.i2c := rfl
@[simp] theorem Dev.setDet_pkt (d : Dev) (k : Nat) (r : DetRt) : (d.setDet k r).pkt = d.pkt := rfl
@[simp] theorem Dev.setDet_cis (d : Dev) (k : Nat) (r : DetRt) : (d.setDet k r).cis = d.cis := rfl
@[simp] theorem Dev.setDet_cnv (d : Dev) (k : Nat) (r : DetRt) : (d.setDet k r).cnv = d.cnv := rfl
@[simp] theorem Dev.setDet_kern (d : Dev) (k : Nat) (r : DetRt) : (d.setDet k r).kern = d.kern := rfl
@[simp] theorem Dev.setDet_cmp (d : Dev) (k : Nat) (r : DetRt) : (d.setDet k r).cmp = d.cmp := rfl
@[simp] theorem Dev.setDet_reply (d : Dev) (k : Nat) (r : DetRt) : (d.setDet k r).reply = d.reply := rfl
@[simp] theorem Dev.setDet_free (d : Dev) (k : Nat) (r : DetRt) : (d.setDet k r).free = d.free := rfl
@[simp] theorem Dev.setDet_get (d : Dev) (f : Fld) (k : Nat) (r : DetRt) : (d.setDet k r).get f = d.get f := rfl
@[simp] theorem Dev.det_setDet_self (d : Dev) (k : Nat) (r : DetRt) : (d.setDet k r).det k = r := kvD_kvSet_self ..
theorem Dev.det_setDet_ne (d : Dev) {j k : Nat} (r : DetRt) (h : j ≠ k) : (d.setDet k r).det j = d.det j := kvD_kvSet_ne h ..

/-! ### Dev.setGen -/

@[simp] theorem Dev.setGen_regs (d : Dev) (k : Nat) (r : GenRt) : (d.setGen k r).regs = d.regs := rfl
@[simp] theorem Dev.setGen_evs (d : Dev) (k : Nat) (r : GenRt) : (d.setGen k r).evs = d.evs := rfl
@[simp] theorem Dev.setGen_once (d : Dev) (k : Nat) (r : GenRt) : (d.setGen k r).once = d.once := rfl
@[simp] theorem Dev.setGen_msix (d : Dev) (k : Nat) (r : GenRt) : (d.setGen k r).msix = d.msix := rfl
@[simp] theorem Dev.setGen_cores (d : Dev) (k : Nat) (r : GenRt) : (d.setGen k r).cores = d.cores := rfl
@[simp] theorem Dev.setGen_sump (d : Dev) (k : Nat) (r : GenRt) : (d.setGen k r).sump = d.sump := rfl
@[simp] theorem Dev.setGen_sec (d : Dev) (k : Nat) (r : GenRt) : (d.setGen k r).sec = d.sec := rfl
@[simp] theorem Dev.setGen_rst (d : Dev) (k : Nat) (r : GenRt) : (d.setGen k r).rst = d.rst := rfl
@[simp] theorem Dev.setGen_cal (d : Dev) (k : Nat) (r : GenRt) : (d.setGen k r).cal = d.cal := rfl
@[simp] theorem Dev.setGen_tim (d : Dev) (k : Nat) (r : GenRt) : (d.setGen k r).tim = d.tim := rfl
@[simp] theorem Dev.setGen_img (d : Dev) (k : Nat) (r : GenRt) : (d.setGen k r).img = d.img := rfl
@[simp] theorem Dev.setGen_org (d : Dev) (k : Nat) (r : GenRt) : (d.setGen k r).org = d.org := rfl
@[simp] theorem Dev.setGen_pump (d : Dev) (k : Nat) (r : GenRt) : (d.setGen k r).pump = d.pump := rfl
@[simp] theorem Dev.setGen_qf (d : Dev) (k : Nat) (r : GenRt) : (d.setGen k r).qf = d.qf := rfl
@[simp] theorem Dev.setGen_ports (d : Dev) (k : Nat) (r : GenRt) : (d.setGen k r).ports = d.ports := rfl
@[simp] theorem Dev.setGen_ddr (d : Dev) (k : Nat) (r : GenRt) : (d.setGen k r).ddr = d.ddr := rfl
@[simp] theorem Dev.setGen_pcie (d : Dev) (k : Nat) (r : GenRt) : (d.setGen k r).pcie = d.pcie := rfl
@[simp] theorem Dev.setGen_i2c (d : Dev) (k : Nat) (r : GenRt) : (d.setGen k r).i2c = d.i2c := rfl
@[simp] theorem Dev.setGen_pkt (d : Dev) (k : Nat) (r : GenRt) : (d.setGen k r).pkt = d.pkt := rfl
@[simp] theorem Dev.setGen_cis (d : Dev) (k : Nat) (r : GenRt) : (d.setGen k r).cis = d.cis := rfl
@[simp] theorem Dev.setGen_cnv (d : Dev) (k : Nat) (r : GenRt) : (d.setGen k r).cnv = d.cnv := rfl
@[simp] theorem Dev.setGen_kern (d : Dev) (k : Nat) (r : GenRt) : (d.setGen k r).kern = d.kern := rfl
@[simp] theorem Dev.setGen_cmp (d : Dev) (k : Nat) (r : GenRt) : (d.setGen k r).cmp = d.cmp := rfl
@[simp] theorem Dev.setGen_reply (d : Dev) (k : Nat) (r : GenRt) : (d.setGen k r).reply = d.reply := rfl
@[simp] theorem Dev.setGen_free (d : Dev) (k : Nat) (r : GenRt) : (d.setGen k r).free = d.free := rfl
@[simp] theorem Dev.setGen_get (d : Dev) (f : Fld) (k : Nat) (r : GenRt) : (d.setGen k r).get f = d.get f := rfl
@[simp] theorem Dev.gen_setGen_self (d : Dev) (k : Nat) (r : GenRt) : (d.setGen k r).gen k = r := kvD_kvSet_self ..
theorem Dev.gen_setGen_ne (d : Dev) {j k : Nat} (r : GenRt) (h : j ≠ k) : (d.setGen k r).gen j = d.gen j := kvD_kvSet_ne h ..

/-! ### Dev.setCmpS -/

@[simp] theorem Dev.setCmpS_regs (d : Dev) (k : Nat) (r : CmpRt) : (d.setCmpS k r).regs = d.regs := rfl
@[simp] theorem Dev.setCmpS_evs (d : Dev) (k : Nat) (r : CmpRt) : (d.setCmpS k r).evs = d.evs := rfl
@[simp] theorem Dev.setCmpS_once (d : Dev) (k : Nat) (r : CmpRt) : (d.setCmpS k r).once = d.once := rfl
@[simp] theorem Dev.setCmpS_msix (d : Dev) (k : Nat) (r : CmpRt) : (d.setCmpS k r).msix = d.msix := rfl
@[simp] theorem Dev.setCmpS_cores (d : Dev) (k : Nat) (r : CmpRt) : (d.setCmpS k r).cores = d.cores := rfl
@[simp] theorem Dev.setCmpS_sump (d : Dev) (k : Nat) (r : CmpRt) : (d.setCmpS k r).sump = d.sump := rfl
@[simp] theorem Dev.setCmpS_sec (d : Dev) (k : Nat) (r : CmpRt) : (d.setCmpS k r).sec = d.sec := rfl
@[simp] theorem Dev.setCmpS_rst (d : Dev) (k : Nat) (r : CmpRt) : (d.setCmpS k r).rst = d.rst := rfl
@[simp] theorem Dev.setCmpS_cal (d : Dev) (k : Nat) (r : CmpRt) : (d.setCmpS k r).cal = d.cal := rfl
@[simp] theorem Dev.setCmpS_tim (d : Dev) (k : Nat) (r : CmpRt) : (d.setCmpS k r).tim = d.tim := rfl
@[simp] theorem Dev.setCmpS_img (d : Dev) (k : Nat) (r : CmpRt) : (d.setCmpS k r).img = d.img := rfl
@[simp] theorem Dev.setCmpS_org (d : Dev) (k : Nat) (r : CmpRt) : (d.setCmpS k r).org = d.org := rfl
@[simp] theorem Dev.setCmpS_pump (d : Dev) (k : Nat) (r : CmpRt) : (d.setCmpS k r).pump = d.pump := rfl
@[simp] theorem Dev.setCmpS_qf (d : Dev) (k : Nat) (r : CmpRt) : (d.setCmpS k r).qf = d.qf := rfl
@[simp] theorem Dev.setCmpS_ports (d : Dev) (k : Nat) (r : CmpRt) : (d.setCmpS k r).ports = d.ports := rfl
@[simp] theorem Dev.setCmpS_ddr (d : Dev) (k : Nat) (r : CmpRt) : (d.setCmpS k r).ddr = d.ddr := rfl
@[simp] theorem Dev.setCmpS_pcie (d : Dev) (k : Nat) (r : CmpRt) : (d.setCmpS k r).pcie = d.pcie := rfl
@[simp] theorem Dev.setCmpS_i2c (d : Dev) (k : Nat) (r : CmpRt) : (d.setCmpS k r).i2c = d.i2c := rfl
@[simp] theorem Dev.setCmpS_pkt (d : Dev) (k : Nat) (r : CmpRt) : (d.setCmpS k r).pkt = d.pkt := rfl
@[simp] theorem Dev.setCmpS_cis (d : Dev) (k : Nat) (r : CmpRt) : (d.setCmpS k r).cis = d.cis := rfl
@[simp] theorem Dev.setCmpS_cnv (d : Dev) (k : Nat) (r : CmpRt) : (d.setCmpS k r).cnv = d.cnv := rfl
@[simp] theorem Dev.setCmpS_kern (d : Dev) (k : Nat) (r : CmpRt) : (d.setCmpS k r).kern = d.kern := rfl
@[simp] theorem Dev.setCmpS_tone (d : Dev) (k : Nat) (r : CmpRt) : (d.setCmpS k r).tone = d.tone := rfl
@[simp] theorem Dev.setCmpS_reply (d : Dev) (k : Nat) (r : CmpRt) : (d.setCmpS k r).reply = d.reply := rfl
@[simp] theorem Dev.setCmpS_free (d : Dev) (k : Nat) (r : CmpRt) : (d.setCmpS k r).free = d.free := rfl
@[simp] theorem Dev.setCmpS_get (d : Dev) (f : Fld) (k : Nat) (r : CmpRt) : (d.setCmpS k r).get f = d.get f := rfl
@[simp] theorem Dev.cmpS_setCmpS_self (d : Dev) (k : Nat) (r : CmpRt) : (d.setCmpS k r).cmpS k = r := kvD_kvSet_self ..
theorem Dev.cmpS_setCmpS_ne (d : Dev) {j k : Nat} (r : CmpRt) (h : j ≠ k) : (d.setCmpS k r).cmpS j = d.cmpS j := kvD_kvSet_ne h ..

/-! ### Dev.setConf -/

@[simp] theorem Dev.setConf_regs (d : Dev) (k : Nat) (r : ConfRt) : (d.setConf k r).regs = d.regs := rfl
@[simp] theorem Dev.setConf_evs (d : Dev) (k : Nat) (r : ConfRt) : (d.setConf k r).evs = d.evs := rfl
@[simp] theorem Dev.setConf_once (d : Dev) (k : Nat) (r : ConfRt) : (d.setConf k r).once = d.once := rfl
@[simp] theorem Dev.setConf_msix (d : Dev) (k : Nat) (r : ConfRt) : (d.setConf k r).msix = d.msix := rfl
@[simp] theorem Dev.setConf_cores (d : Dev) (k : Nat) (r : ConfRt) : (d.setConf k r).cores = d.cores := rfl
@[simp] theorem Dev.setConf_sump (d : Dev) (k : Nat) (r : ConfRt) : (d.setConf k r).sump = d.sump := rfl
@[simp] theorem Dev.setConf_sec (d : Dev) (k : Nat) (r : ConfRt) : (d.setConf k r).sec = d.sec := rfl
@[simp] theorem Dev.setConf_rst (d : Dev) (k : Nat) (r : ConfRt) : (d.setConf k r).rst = d.rst := rfl
@[simp] theorem Dev.setConf_cal (d : Dev) (k : Nat) (r : ConfRt) : (d.setConf k r).cal = d.cal := rfl
@[simp] theorem Dev.setConf_tim (d : Dev) (k : Nat) (r : ConfRt) : (d.setConf k r).tim = d.tim := rfl
@[simp] theorem Dev.setConf_img (d : Dev) (k : Nat) (r : ConfRt) : (d.setConf k r).img = d.img := rfl
@[simp] theorem Dev.setConf_org (d : Dev) (k : Nat) (r : ConfRt) : (d.setConf k r).org = d.org := rfl
@[simp] theorem Dev.setConf_pump (d : Dev) (k : Nat) (r : ConfRt) : (d.setConf k r).pump = d.pump := rfl
@[simp] theorem Dev.setConf_qf (d : Dev) (k : Nat) (r : ConfRt) : (d.setConf k r).qf = d.qf := rfl
@[simp] theorem Dev.setConf_ports (d : Dev) (k : Nat) (r : ConfRt) : (d.setConf k r).ports = d.ports := rfl
@[simp] theorem Dev.setConf_ddr (d : Dev) (k : Nat) (r : ConfRt) : (d.setConf k r).ddr = d.ddr := rfl
@[simp] theorem Dev.setConf_pcie (d : Dev) (k : Nat) (r : ConfRt) : (d.setConf k r).pcie = d.pcie := rfl
@[simp] theorem Dev.setConf_i2c (d : Dev) (k : Nat) (r : ConfRt) : (d.setConf k r).i2c = d.i2c := rfl
@[simp] theorem Dev.setConf_pkt (d : Dev) (k : Nat) (r : ConfRt) : (d.setConf k r).pkt = d.pkt := rfl
@[simp] theorem Dev.setConf_cis (d : Dev) (k : Nat) (r : ConfRt) : (d.setConf k r).cis = d.cis := rfl
@[simp] theorem Dev.setConf_cnv (d : Dev) (k : Nat) (r : ConfRt) : (d.setConf k r).cnv = d.cnv := rfl
@[simp] theorem Dev.setConf_tone (d : Dev) (k : Nat) (r : ConfRt) : (d.setConf k r).tone = d.tone := rfl
@[simp] theorem Dev.setConf_cmp (d : Dev) (k : Nat) (r : ConfRt) : (d.setConf k r).cmp = d.cmp := rfl
@[simp] theorem Dev.setConf_reply (d : Dev) (k : Nat) (r : ConfRt) : (d.setConf k r).reply = d.reply := rfl
@[simp] theorem Dev.setConf_free (d : Dev) (k : Nat) (r : ConfRt) : (d.setConf k r).free = d.free := rfl
@[simp] theorem Dev.setConf_get (d : Dev) (f : Fld) (k : Nat) (r : ConfRt) : (d.setConf k r).get f = d.get f := rfl
@[simp] theorem Dev.conf_setConf_self (d : Dev) (k : Nat) (r : ConfRt) : (d.setConf k r).conf k = r := kvD_kvSet_self ..
theorem Dev.conf_setConf_ne (d : Dev) {j k : Nat} (r : ConfRt) (h : j ≠ k) : (d.setConf k r).conf j = d.conf j := kvD_kvSet_ne h ..

/-! ### Dev.setMat -/

@[simp] theorem Dev.setMat_regs (d : Dev) (k : Nat) (r : MatRt) : (d.setMat k r).regs = d.regs := rfl
@[simp] theorem Dev.setMat_evs (d : Dev) (k : Nat) (r : MatRt) : (d.setMat k r).evs = d.evs := rfl
@[simp] theorem Dev.setMat_once (d : Dev) (k : Nat) (r : MatRt) : (d.setMat k r).once = d.once := rfl
@[simp] theorem Dev.setMat_msix (d : Dev) (k : Nat) (r : MatRt) : (d.setMat k r).msix = d.msix := rfl
@[simp] theorem Dev.setMat_cores (d : Dev) (k : Nat) (r : MatRt) : (d.setMat k r).cores = d.cores := rfl
@[simp] theorem Dev.setMat_sump (d : Dev) (k : Nat) (r : MatRt) : (d.setMat k r).sump = d.sump := rfl
@[simp] theorem Dev.setMat_sec (d : Dev) (k : Nat) (r : MatRt) : (d.setMat k r).sec = d.sec := rfl
@[simp] theorem Dev.setMat_rst (d : Dev) (k : Nat) (r : MatRt) : (d.setMat k r).rst = d.rst := rfl
@[simp] theorem Dev.setMat_cal (d : Dev) (k : Nat) (r : MatRt) : (d.setMat k r).cal = d.cal := rfl
@[simp] theorem Dev.setMat_tim (d : Dev) (k : Nat) (r : MatRt) : (d.setMat k r).tim = d.tim := rfl
@[simp] theorem Dev.setMat_img (d : Dev) (k : Nat) (r : MatRt) : (d.setMat k r).img = d.img := rfl
@[simp] theorem Dev.setMat_org (d : Dev) (k : Nat) (r : MatRt) : (d.setMat k r).org = d.org := rfl
@[simp] theorem Dev.setMat_pump (d : Dev) (k : Nat) (r : MatRt) : (d.setMat k r).pump = d.pump := rfl
@[simp] theorem Dev.setMat_qf (d : Dev) (k : Nat) (r : MatRt) : (d.setMat k r).qf = d.qf := rfl
@[simp] theorem Dev.setMat_ports (d : Dev) (k : Nat) (r : MatRt) : (d.setMat k r).ports = d.ports := rfl
@[simp] theorem Dev.setMat_ddr (d : Dev) (k : Nat) (r : MatRt) : (d.setMat k r).ddr = d.ddr := rfl
@[simp] theorem Dev.setMat_pcie (d : Dev) (k : Nat) (r : MatRt) : (d.setMat k r).pcie = d.pcie := rfl
@[simp] theorem Dev.setMat_i2c (d : Dev) (k : Nat) (r : MatRt) : (d.setMat k r).i2c = d.i2c := rfl
@[simp] theorem Dev.setMat_pkt (d : Dev) (k : Nat) (r : MatRt) : (d.setMat k r).pkt = d.pkt := rfl
@[simp] theorem Dev.setMat_cis (d : Dev) (k : Nat) (r : MatRt) : (d.setMat k r).cis = d.cis := rfl
@[simp] theorem Dev.setMat_cnv (d : Dev) (k : Nat) (r : MatRt) : (d.setMat k r).cnv = d.cnv := rfl
@[simp] theorem Dev.setMat_tone (d : Dev) (k : Nat) (r : MatRt) : (d.setMat k r).tone = d.tone := rfl
@[simp] theorem Dev.setMat_cmp (d : Dev) (k : Nat) (r : MatRt) : (d.setMat k r).cmp = d.cmp := rfl
@[simp] theorem Dev.setMat_reply (d : Dev) (k : Nat) (r : MatRt) : (d.setMat k r).reply = d.reply := rfl
@[simp] theorem Dev.setMat_free (d : Dev) (k : Nat) (r : MatRt) : (d.setMat k r).free = d.free := rfl
@[simp] theorem Dev.setMat_get (d : Dev) (f : Fld) (k : Nat) (r : MatRt) : (d.setMat k r).get f = d.get f := rfl
@[simp] theorem Dev.mat_setMat_self (d : Dev) (k : Nat) (r : MatRt) : (d.setMat k r).mat k = r := kvD_kvSet_self ..
theorem Dev.mat_setMat_ne (d : Dev) {j k : Nat} (r : MatRt) (h : j ≠ k) : (d.setMat k r).mat j = d.mat j := kvD_kvSet_ne h ..

/-! ### Dev.setWords -/

/-- Words written elsewhere leave a field alone. -/
theorem Dev.setWords_get_ne (d : Dev) (f : Nat → Fld) (n x : Nat) (g : Fld) (h : ∀ k < n, g.key ≠ (f k).key) : (d.setWords f n x).get g = d.get g := by
  unfold Dev.setWords
  induction n generalizing d with
  | zero => rfl
  | succ n ih =>
    simp only [List.range_succ, List.foldl_append, List.foldl_cons, List.foldl_nil]
    rw [Dev.get_set_ne _ _ (h n (by omega)), ih _ (fun k hk => h k (by omega))]

/-- A register file holds the words it was given. -/
theorem Dev.setWords_get_self (d : Dev) (f : Nat → Fld) (n x k : Nat) (hk : k < n) (hw : (f k).width = 32)
    (h : ∀ j < n, j ≠ k → (f k).key ≠ (f j).key) : (d.setWords f n x).get (f k) = bits x (32 * k) 32 := by
  unfold Dev.setWords
  induction n generalizing d with
  | zero => omega
  | succ n ih =>
    simp only [List.range_succ, List.foldl_append, List.foldl_cons, List.foldl_nil]
    by_cases e : k = n
    · subst e
      rw [Dev.get_set_self _ _ _ (by omega), hw]
      simp [bits]
    · rw [Dev.get_set_ne _ _ (h n (by omega) (by omega))]
      exact ih _ (by omega) (fun j hj => h j (by omega))

@[simp] theorem Dev.setWords_body (d : Dev) (f : Nat → Fld) (n x : Nat) : (d.setWords f n x).body = d.body := by
  unfold Dev.setWords
  exact Dev.each_keeps (fun d => d.body) (fun d k => d.set (f k) (bits x (32 * k) 32)) (fun _ _ => rfl) (List.range n) d

@[simp] theorem Dev.setWords_evs (d : Dev) (f : Nat → Fld) (n x : Nat) : (d.setWords f n x).evs = d.evs := by
  unfold Dev.setWords
  exact Dev.each_keeps (fun d => d.evs) (fun d k => d.set (f k) (bits x (32 * k) 32)) (fun _ _ => rfl) (List.range n) d

/-- What stands beside registers and events is read off the body. -/
theorem Dev.eq_of_body {α : Type} (p : Dev → α) (hp : ∀ d, p d.body = p d) {d e : Dev} (h : d.body = e.body) : p d = p e := by
  rw [← hp d, h, hp]

end Sys2Proof.Machine
end

