-- ==== Sys2Proof/Laws/Queue.lean ====
section
/-! SUPPORT. What the operations of the reservoir and of the queues can change: the queues' own state, the registers, the events and the reply, and of the
reservoir what is written, its canonical form kept. -/

namespace Sys2Proof.Machine

/-- What stands in the device beside the queues' state, the registers, the events and the reply. -/
def Dev.offQueue (d : Dev) : Dev := { d with regs := {}, evs := [], once := [], qf := {}, reply := {} }

@[simp] theorem Dev.offQueue_set (d : Dev) (f : Fld) (v : Nat) : (d.set f v).offQueue = d.offQueue := rfl
@[simp] theorem Dev.offQueue_ev (d : Dev) (n a b c : Nat) : (d.ev n a b c).offQueue = d.offQueue := rfl
@[simp] theorem Dev.offQueue_setQ (d : Dev) (q : Nat) (r : QRt) : (d.setQ q r).offQueue = d.offQueue := rfl
@[simp] theorem Dev.offQueue_resWrite (d : Dev) (a : Nat) (w : MWord) : (d.resWrite a w).offQueue = d.offQueue := rfl
@[simp] theorem Dev.offQueue_reply (d : Dev) (r : Reply) : ({ d with reply := r } : Dev).offQueue = d.offQueue := rfl

/-! ### The reservoir -/

@[simp] theorem Dev.offQueue_resRead (d : Dev) (a : Nat) : (d.resRead a).2.offQueue = d.offQueue := by
  unfold Dev.resRead; dsimp only; repeat' split
  all_goals rfl

/-- A read changes no word of the reservoir and no queue. -/
@[simp] theorem Dev.resRead_qf (d : Dev) (a : Nat) : (d.resRead a).2.qf = d.qf := by
  unfold Dev.resRead; dsimp only; repeat' split
  all_goals rfl

@[simp] theorem Dev.offQueue_resReadN (d : Dev) (a n : Nat) : (d.resReadN a n).2.offQueue = d.offQueue := by
  induction n generalizing d a with
  | zero => rfl
  | succ n ih => simp only [Dev.resReadN, ih, Dev.offQueue_resRead]

@[simp] theorem Dev.resReadN_qf (d : Dev) (a n : Nat) : (d.resReadN a n).2.qf = d.qf := by
  induction n generalizing d a with
  | zero => rfl
  | succ n ih => simp only [Dev.resReadN, ih, Dev.resRead_qf]

/-- A word without an error reads as it stands, and the read does nothing else. -/
theorem Dev.resRead_clean (d : Dev) (a : Nat) (hu : d.qf.resUe.contains a = false) (hc : d.qf.resCe.contains a = false) :
    d.resRead a = (kvD d.qf.res a 0, d) := by
  unfold Dev.resRead; simp [-List.contains_eq_mem, hu, hc]

/-- A run of words without errors reads as it stands, and the read does nothing else. -/
theorem Dev.resReadN_clean (d : Dev) (a n : Nat) (h : ∀ k, k < n → d.qf.resUe.contains (a + k) = false ∧ d.qf.resCe.contains (a + k) = false) :
    d.resReadN a n = ((List.range n).map (fun k => kvD d.qf.res (a + k) 0), d) := by
  induction n generalizing a with
  | zero => rfl
  | succ n ih =>
    have h0 := h 0 (by omega)
    have hs := ih (a + 1) (fun k hk => by have := h (k + 1) (by omega); rwa [← Nat.add_assoc, Nat.add_right_comm] at this)
    rw [Dev.resReadN, Dev.resRead_clean d a h0.1 h0.2]
    dsimp only
    rw [hs, List.range_succ_eq_map, List.map_cons, List.map_map]
    simp only [Nat.add_zero]
    exact congrArg (fun l => (_ :: l, d)) (List.map_congr_left (fun k _ => by simp only [Function.comp, Nat.succ_eq_add_one]; rw [Nat.add_assoc, Nat.add_comm 1 k]))

/-- A word reads as written. -/
theorem Dev.resWrite_self (d : Dev) (a : Nat) (w : MWord) : kvD (d.resWrite a w).qf.res a 0 = w := kvD_kvPut_self ..

/-- A write leaves every other word alone. -/
theorem Dev.resWrite_ne (d : Dev) {a b : Nat} (w : MWord) (h : b ≠ a) : kvD (d.resWrite a w).qf.res b 0 = kvD d.qf.res b 0 := kvD_kvPut_ne h ..

@[simp] theorem Dev.offQueue_resWriteN (d : Dev) (a : Nat) (l : List MWord) : (d.resWriteN a l).offQueue = d.offQueue := by
  induction l generalizing d a with
  | nil => rfl
  | cons w r ih => rw [Dev.resWriteN, ih, Dev.offQueue_resWrite]

@[simp] theorem Dev.resWriteN_q (d : Dev) (a : Nat) (l : List MWord) (q : Nat) : (d.resWriteN a l).q q = d.q q := by
  induction l generalizing d a with
  | nil => rfl
  | cons w r ih => rw [Dev.resWriteN, ih]; rfl

/-- A run of words leaves every word outside it alone. -/
theorem Dev.resWriteN_outside (d : Dev) (a : Nat) (l : List MWord) (b : Nat) (h : b < a ∨ a + l.length ≤ b) :
    kvD (d.resWriteN a l).qf.res b 0 = kvD d.qf.res b 0 := by
  induction l generalizing d a with
  | nil => rfl
  | cons w r ih =>
    simp only [List.length_cons] at h
    rw [Dev.resWriteN, ih _ _ (by omega), Dev.resWrite_ne _ _ (by omega)]

/-- A run of words reads as written. -/
theorem Dev.resWriteN_inside (d : Dev) (a : Nat) (l : List MWord) (k : Nat) (h : k < l.length) :
    kvD (d.resWriteN a l).qf.res (a + k) 0 = l[k] := by
  induction l generalizing d a k with
  | nil => exact absurd h (by simp)
  | cons w r ih =>
    rw [Dev.resWriteN]
    cases k with
    | zero => rw [Dev.resWriteN_outside _ _ _ _ (by omega)]; exact Dev.resWrite_self ..
    | succ k =>
      have := ih (d.resWrite a w) (a + 1) k (by simpa using h)
      rwa [Nat.add_assoc, Nat.add_comm 1 k] at this

/-! ### The canonical form -/

/-- A write keeps the reservoir in its canonical form. -/
theorem Dev.resWrite_wf (d : Dev) (a : Nat) (w : MWord) (h : Memory.wf 0 d.qf.res = true) : Memory.wf 0 (d.resWrite a w).qf.res = true :=
  Memory.wf_kvPut _ _ _ _ h

theorem Dev.resWriteN_wf (d : Dev) (a : Nat) (l : List MWord) (h : Memory.wf 0 d.qf.res = true) : Memory.wf 0 (d.resWriteN a l).qf.res = true := by
  induction l generalizing d a with
  | nil => exact h
  | cons w r ih => exact ih _ _ (Dev.resWrite_wf _ _ _ h)

/-- The reservoir and the SRAM have their canonical form after reset. -/
theorem State.reset_wf : Memory.wf 0 State.reset.dev.qf.res = true ∧ Memory.wf 0 State.reset.dev.cores.sram = true := ⟨rfl, rfl⟩

/-! ### The queues -/

@[simp] theorem Dev.offQueue_evOnce (d : Dev) (n a b : Nat) : (d.evOnce n a b).offQueue = d.offQueue := by
  unfold Dev.evOnce; split <;> rfl

@[simp] theorem Dev.offQueue_qCheck (d : Dev) (q n : Nat) : (d.qCheck q n).offQueue = d.offQueue := by
  unfold Dev.qCheck; dsimp only; repeat' split
  all_goals rfl

@[simp] theorem Dev.offQueue_qStore (d : Dev) (q : Nat) (it : List MWord) : (d.qStore q it).offQueue = d.offQueue := by
  unfold Dev.qStore; dsimp only; rw [Dev.offQueue_setQ, Dev.offQueue_resWriteN]

@[simp] theorem Dev.offQueue_qDropped (d : Dev) (q : Nat) : (d.qDropped q).offQueue = d.offQueue := by
  unfold Dev.qDropped; dsimp only; split <;> simp

theorem Dev.offQueue_qAcceptOne (d : Dev) (q : Nat) (it : List MWord) (b : Bool) (g : Dev → Dev) (hg : ∀ d, (g d).offQueue = d.offQueue) :
    (d.qAcceptOne q it b g).offQueue = d.offQueue := by
  unfold Dev.qAcceptOne; dsimp only; repeat' split
  all_goals simp [hg]

@[simp] theorem Dev.offQueue_qAccept (d : Dev) (q : Nat) (it : List MWord) : (d.qAccept q it).offQueue = d.offQueue := by
  refine Dev.offQueue_qAcceptOne _ _ _ _ _ (fun d => ?_)
  dsimp only
  refine (Dev.offQueue_qAcceptOne _ _ _ _ id (fun _ => rfl)).trans ?_
  split <;> simp

@[simp] theorem Dev.offQueue_qMalformed (d : Dev) (q n : Nat) (a b c : Bool) : (d.qMalformed q n a b c).offQueue = d.offQueue := by
  unfold Dev.qMalformed; dsimp only; split <;> rfl

@[simp] theorem Dev.offQueue_qWord (d : Dev) (q : Nat) (w : MWord) : (d.qWord q w).offQueue = d.offQueue := by
  unfold Dev.qWord Dev.qClose; dsimp only; repeat' split
  all_goals simp

@[simp] theorem Dev.offQueue_qRemovedWord (d : Dev) (q : Nat) (w : MWord) : (d.qRemovedWord q w).offQueue = d.offQueue := by
  unfold Dev.qRemovedWord; repeat' split
  all_goals simp

/-- A push changes nothing but the queues, the registers, the events and the reply. -/
theorem Dev.offQueue_qPush (d : Dev) (q : Nat) (ws : List MWord) : (d.qPush q ws).offQueue = d.offQueue := by
  unfold Dev.qPush; repeat' split
  · exact Dev.each_keeps Dev.offQueue (fun d w => d.qRemovedWord q w) (fun _ _ => Dev.offQueue_qRemovedWord ..) _ _
  · rfl
  · rfl
  · exact Dev.each_keeps Dev.offQueue (fun d w => d.qWord q w) (fun _ _ => Dev.offQueue_qWord ..) _ _

@[simp] theorem Dev.offQueue_qIdleItem (d : Dev) (q : Nat) : (d.qIdleItem q).2.offQueue = d.offQueue := by
  unfold Dev.qIdleItem; simp

@[simp] theorem Dev.qIdleItem_qf (d : Dev) (q : Nat) : (d.qIdleItem q).2.qf = d.qf := by
  unfold Dev.qIdleItem; simp

@[simp] theorem Dev.offQueue_qFallbackItem (d : Dev) (q : Nat) : (d.qFallbackItem q).2.offQueue = d.offQueue := by
  unfold Dev.qFallbackItem; dsimp only; repeat' split
  all_goals simp

@[simp] theorem Dev.qFallbackItem_qf (d : Dev) (q : Nat) : (d.qFallbackItem q).2.qf = d.qf := by
  unfold Dev.qFallbackItem; dsimp only; repeat' split
  all_goals simp

@[simp] theorem Dev.offQueue_qFront (d : Dev) (q : Nat) : (d.qFront q).2.offQueue = d.offQueue := by
  unfold Dev.qFront; simp

@[simp] theorem Dev.qFront_qf (d : Dev) (q : Nat) : (d.qFront q).2.qf = d.qf := by
  unfold Dev.qFront; simp

/-- A pop changes nothing but the queues, the registers, the events and the reply. -/
theorem Dev.offQueue_qPop (d : Dev) (q : Nat) (framer : Bool) : (d.qPop q framer).2.offQueue = d.offQueue := by
  unfold Dev.qPop; dsimp only; repeat' split
  all_goals simp

theorem Dev.qCheck_res (d : Dev) (q n : Nat) : (d.qCheck q n).qf.res = d.qf.res := by
  unfold Dev.qCheck; dsimp only; repeat' split
  all_goals rfl

/-- A pop changes no word of the reservoir. -/
theorem Dev.qPop_res (d : Dev) (q : Nat) (framer : Bool) : (d.qPop q framer).2.qf.res = d.qf.res := by
  have h : ∀ (d : Dev) (r : QRt), (d.setQ q r).qf.res = d.qf.res := fun _ _ => rfl
  unfold Dev.qPop; dsimp only; repeat' split
  all_goals simp [h, Dev.qCheck_res]

/-- A flush changes nothing but the queues and the events. -/
theorem Dev.offQueue_qFlushNow (d : Dev) (q : Nat) (b : Bool) : (d.qFlushNow q b).offQueue = d.offQueue := by
  unfold Dev.qFlushNow; dsimp only; split <;> simp

/-- A flush changes no word of the reservoir. -/
theorem Dev.qFlushNow_res (d : Dev) (q : Nat) (b : Bool) : (d.qFlushNow q b).qf.res = d.qf.res := by
  have h : ∀ (d : Dev) (r : QRt), (d.setQ q r).qf.res = d.qf.res := fun _ _ => rfl
  have he : ∀ (d : Dev) (n a b c : Nat), (d.ev n a b c).qf.res = d.qf.res := fun _ _ _ _ _ => rfl
  unfold Dev.qFlushNow; dsimp only; split <;> simp only [h, he, Dev.qCheck_res]

/-! ### The canonical form under pushes -/

theorem Dev.qStore_wf (d : Dev) (q : Nat) (it : List MWord) (h : Memory.wf 0 d.qf.res = true) : Memory.wf 0 (d.qStore q it).qf.res = true :=
  Dev.resWriteN_wf _ _ _ h

theorem Dev.qDropped_res (d : Dev) (q : Nat) : (d.qDropped q).qf.res = d.qf.res := by
  unfold Dev.qDropped Dev.evOnce; dsimp only; repeat' split
  all_goals rfl

theorem Dev.qAcceptOne_wf (d : Dev) (q : Nat) (it : List MWord) (b : Bool) (g : Dev → Dev)
    (hg : ∀ d : Dev, Memory.wf 0 d.qf.res = true → Memory.wf 0 (g d).qf.res = true) (h : Memory.wf 0 d.qf.res = true) :
    Memory.wf 0 (d.qAcceptOne q it b g).qf.res = true := by
  have h0 : ∀ (r : QRt), Memory.wf 0 ((d.qCheck q (b2n !b)).setQ q r).qf.res = true := by
    intro r
    show Memory.wf 0 (d.qCheck q _).qf.res = true
    rwa [Dev.qCheck_res]
  have h1 : ∀ (d : Dev) (r : QRt), Memory.wf 0 d.qf.res = true → Memory.wf 0 (d.setQ q r).qf.res = true := fun _ _ h => h
  unfold Dev.qAcceptOne; dsimp only; repeat' split
  · exact Dev.qStore_wf _ _ _ (h1 _ _ (h0 _))
  · exact Dev.qStore_wf _ _ _ (h0 _)
  · exact Dev.qStore_wf _ _ _ (by rw [Dev.qDropped_res]; exact h1 _ _ (h0 _))
  · exact hg _ (h0 _)
  · rw [Dev.qDropped_res]; exact h0 _

theorem Dev.qAccept_wf (d : Dev) (q : Nat) (it : List MWord) (h : Memory.wf 0 d.qf.res = true) : Memory.wf 0 (d.qAccept q it).qf.res = true := by
  refine Dev.qAcceptOne_wf _ _ _ _ _ (fun d hd => ?_) h
  dsimp only
  refine Dev.qAcceptOne_wf _ _ _ _ _ (fun _ h => h) ?_
  split <;> exact hd

theorem Dev.qMalformed_res (d : Dev) (q n : Nat) (a b c : Bool) : (d.qMalformed q n a b c).qf.res = d.qf.res := by
  unfold Dev.qMalformed; dsimp only; split <;> rfl

theorem Dev.qWord_wf (d : Dev) (q : Nat) (w : MWord) (h : Memory.wf 0 d.qf.res = true) : Memory.wf 0 (d.qWord q w).qf.res = true := by
  have hs : ∀ (d : Dev) (r : QRt), (d.setQ q r).qf.res = d.qf.res := fun _ _ => rfl
  have he : ∀ (d : Dev) (n a b c : Nat), (d.ev n a b c).qf.res = d.qf.res := fun _ _ _ _ _ => rfl
  unfold Dev.qWord; dsimp only
  generalize hd : (if ((d.q q).openW.isSome && wLast w && !wFirst w) = true then d else d.qCheck q) = d'
  have h : Memory.wf 0 d'.qf.res = true := by rw [← hd]; split <;> simpa only [Dev.qCheck_res] using h
  split
  · repeat' split
    all_goals simpa only [hs, he] using h
  · split
    · repeat' split
      all_goals simpa only [hs, Dev.qMalformed_res] using h
    · split
      · split <;> simpa only [hs, Dev.qMalformed_res] using h
      · split
        · simpa only [Dev.qCheck_res, Dev.qMalformed_res] using h
        · split
          · split
            · unfold Dev.qClose; exact Dev.qAccept_wf _ _ _ h
            · simpa only [Dev.qCheck_res, Dev.qMalformed_res] using h
          · simpa only [hs] using h

theorem Dev.qRemovedWord_wf (d : Dev) (q : Nat) (w : MWord) (h : Memory.wf 0 d.qf.res = true) : Memory.wf 0 (d.qRemovedWord q w).qf.res = true := by
  unfold Dev.qRemovedWord; repeat' split
  · exact Dev.qWord_wf d q w h
  · exact h
  · exact h

/-- A fold of steps, each of which keeps a property, keeps it. -/
theorem Dev.each_induction {α : Type} (p : Dev → Prop) (g : Dev → α → Dev) (hg : ∀ d a, p d → p (g d a)) (l : List α) (d : Dev) (h : p d) :
    p (d.each l g) := by
  unfold Dev.each
  induction l generalizing d with
  | nil => exact h
  | cons a r ih => exact ih _ (hg _ _ h)

/-- A push keeps the reservoir in its canonical form. -/
theorem Dev.qPush_wf (d : Dev) (q : Nat) (ws : List MWord) (h : Memory.wf 0 d.qf.res = true) : Memory.wf 0 (d.qPush q ws).qf.res = true := by
  unfold Dev.qPush; repeat' split
  · exact Dev.each_induction (fun d => Memory.wf 0 d.qf.res = true) _ (fun d w h => Dev.qRemovedWord_wf d q w h) ws d h
  · exact h
  · exact h
  · exact Dev.each_induction (fun d => Memory.wf 0 d.qf.res = true) _ (fun d w h => Dev.qWord_wf d q w h) ws d h

end Sys2Proof.Machine
end

