-- ==== Sys2Proof/Laws/Memory.lean ====
section
/-! SUPPORT. The writes of the memories beside the reservoir keep their canonical form: local memory, the SRAM and the coefficients with no entry equal to
what an unlisted address reads as; the DDR, whose unlisted words are free values, with rising addresses. -/

namespace Sys2Proof.Machine

/-- A fold of writes keeps a memory's canonical form. -/
theorem Memory.wf_foldl_kvPut {α β : Type} [DecidableEq α] (d : α) (key : β → Nat) (val : β → α) (l : List β) (m : Kv α) (h : Memory.wf d m = true) :
    Memory.wf d (l.foldl (fun m x => kvPut d (key x) (val x) m) m) = true := by
  induction l generalizing m with
  | nil => exact h
  | cons a r ih => exact ih _ (Memory.wf_kvPut _ _ _ _ h)

theorem kvSorted_of_cons {α : Type} (a : Nat × α) (m : Kv α) (h : kvSorted (a :: m) = true) : kvSorted m = true := by
  obtain ⟨a, x⟩ := a; cases m <;> simp_all [kvSorted]

theorem kvSorted_filter {α : Type} (p : Nat × α → Bool) (m : Kv α) (h : kvSorted m = true) : kvSorted (m.filter p) = true := by
  induction m with
  | nil => rfl
  | cons a r ih =>
    obtain ⟨a, x⟩ := a
    have hr := ih (kvSorted_of_cons _ _ h)
    rw [List.filter_cons]
    split
    · rw [kvSorted_cons]
      refine Bool.and_eq_true_iff.mpr ⟨?_, hr⟩
      cases hf : r.filter p with
      | nil => rfl
      | cons b t =>
        have hb : b ∈ r := (List.mem_filter.mp (hf ▸ List.mem_cons_self : b ∈ r.filter p)).1
        simpa [headKey] using kvSorted_lt _ _ _ h b hb
    · exact hr

/-- Taking entries out keeps a memory's canonical form. -/
theorem Memory.wf_filter {α : Type} [DecidableEq α] (d : α) (p : Nat × α → Bool) (m : Kv α) (h : Memory.wf d m = true) : Memory.wf d (m.filter p) = true := by
  unfold Memory.wf at *
  simp only [Bool.and_eq_true, List.all_eq_true] at *
  exact ⟨kvSorted_filter p m h.1, fun x hx => h.2 x (List.mem_filter.mp hx).1⟩

/-- A write keeps local memory in its canonical form. -/
theorem CellRt.write_wf (c : CellRt) (a : Nat) (w : MWord) (h : Memory.wf 0 c.lm = true) : Memory.wf 0 (c.write a w).lm = true :=
  Memory.wf_kvPut _ _ _ _ h

theorem CellRt.writeN_wf (c : CellRt) (a : Nat) (l : List MWord) (h : Memory.wf 0 c.lm = true) : Memory.wf 0 (c.writeN a l).lm = true := by
  induction l generalizing c a with
  | nil => exact h
  | cons w r ih => exact ih _ _ (CellRt.write_wf _ _ _ h)

/-- Clearing the regions of a cell keeps its local memory in its canonical form. -/
theorem Dev.cellRegions_wf (d : Dev) (n : Nat) (h : Memory.wf 0 (d.cell n).lm = true) : Memory.wf 0 ((d.cellRegions n).cell n).lm = true := by
  unfold Dev.cellRegions; dsimp only
  rw [Dev.cell_setCell_self]
  exact Memory.wf_filter _ _ _ h

/-- A write keeps the addresses of the DDR rising. -/
theorem Dev.ddrWrite_sorted (d : Dev) (a : Nat) (w : MWord) (h : kvSorted d.ddr.mem = true) : kvSorted (d.ddrWrite a w).ddr.mem = true := by
  unfold Dev.ddrWrite
  split
  · exact h
  · exact kvSorted_kvSet _ _ _ h

theorem Dev.ddrWriteN_sorted (d : Dev) (a : Nat) (l : List MWord) (h : kvSorted d.ddr.mem = true) : kvSorted (d.ddrWriteN a l).ddr.mem = true := by
  induction l generalizing d a with
  | nil => exact h
  | cons w r ih => exact ih _ _ (Dev.ddrWrite_sorted _ _ _ h)

/-- A DDR word that lies within the total reads as written, its data and POISON. -/
theorem Dev.ddrWrite_self (d : Dev) (a : Nat) (w : MWord) (h : a < d.ddrTotal) :
    (d.ddrWrite a w).ddrCell a = mkW (wData w) false false false (wPoison w) := by
  unfold Dev.ddrWrite
  rw [if_neg (by omega)]
  unfold Dev.ddrCell
  dsimp only
  rw [kvGet_kvSet_self]

/-- A write leaves every other DDR word alone. -/
theorem Dev.ddrWrite_ne (d : Dev) {a b : Nat} (w : MWord) (h : b ≠ a) : (d.ddrWrite a w).ddrCell b = d.ddrCell b := by
  unfold Dev.ddrWrite
  split
  · rfl
  · unfold Dev.ddrCell
    dsimp only
    rw [kvGet_kvSet_ne h]

end Sys2Proof.Machine
end

