-- ==== Sys2Proof/Laws/Run.lean ====
section
/-! SUPPORT. What the frame of a step leaves in the state it answers: fields, body, and the record of events. -/

namespace Sys2Proof.Machine

/-! ### The bits of EVT_RAW that a step sets -/

theorem Dev.evRec_set_raw (d : Dev) (g : Fld) (v k : Nat) (h : (R.EVT_RAW_BITS k).key ≠ g.key) :
    (d.set g v).get (R.EVT_RAW_BITS k) = d.get (R.EVT_RAW_BITS k) := Dev.get_set_ne d v h

/-- A delivery sets no bit of EVT_RAW but the event's. -/
theorem Dev.deliver_raw_only (d : Dev) (m k i : Nat) (hm : m < 256) (hk : k < 8) (hi : i < 32)
    (h : bit ((d.deliver m).get (R.EVT_RAW_BITS k)) i = true) : bit (d.get (R.EVT_RAW_BITS k)) i = true ∨ 32 * k + i = m := by
  have hA : ∀ d : Dev, (d.deliverAlert m).get (R.EVT_RAW_BITS k) = d.get (R.EVT_RAW_BITS k) := by
    intro d; unfold Dev.deliverAlert; split
    · exact Dev.get_orBit_ne _ _ (by simp only [Fld.key, R.EVT_APEND_BITS, R.EVT_RAW_BITS]; omega)
    · rfl
  have hH : ∀ d : Dev, (d.deliverHost m).get (R.EVT_RAW_BITS k) = d.get (R.EVT_RAW_BITS k) := by
    intro d; unfold Dev.deliverHost; dsimp only; split
    · rfl
    · split
      · exact Dev.get_orBit_ne _ _ (by simp only [Fld.key, R.EVT_HPEND_BITS, R.EVT_RAW_BITS]; omega)
      · rw [Dev.get_vecDue]
        exact Dev.get_orBit_ne _ _ (by simp only [Fld.key, R.EVT_HPEND_BITS, R.EVT_RAW_BITS]; omega)
  have hC : ∀ d : Dev, (d.deliverCores m).get (R.EVT_RAW_BITS k) = d.get (R.EVT_RAW_BITS k) := by
    intro d
    unfold Dev.deliverCores
    refine Dev.each_keeps (fun d => d.get (R.EVT_RAW_BITS k)) _ (fun d c => ?_) _ _
    split
    · exact Dev.get_orBit_ne _ _ (by simp only [Fld.key, R.EVT_CPEND_BITS, R.EVT_RAW_BITS]; omega)
    · rfl
  unfold Dev.deliver at h
  rw [hA, hH, hC] at h
  by_cases e : m / 32 = k
  · subst e
    rw [Dev.get_orBit_self _ _ _ (Nat.le_refl 32), bit_eq_testBit, Nat.testBit_mod_two_pow] at h
    rw [bit_eq_testBit]
    simp only [R.EVT_RAW_BITS, hi, decide_true, Bool.true_and, Nat.testBit_or, Bool.or_eq_true, Nat.testBit_two_pow,
      decide_eq_true_eq] at h
    rcases h with h | h
    · exact .inl h
    · exact .inr (by omega)
  · rw [Dev.get_orBit_ne _ _ (by simp only [Fld.key, R.EVT_RAW_BITS]; omega)] at h
    exact .inl h

theorem Dev.each_deliver_raw_only (l : List Nat) (k i : Nat) (hl : ∀ n ∈ l, n < 256) (hk : k < 8) (hi : i < 32) (d : Dev)
    (h : bit ((d.each l Dev.deliver).get (R.EVT_RAW_BITS k)) i = true) : bit (d.get (R.EVT_RAW_BITS k)) i = true ∨ 32 * k + i ∈ l := by
  induction l generalizing d with
  | nil => exact .inl h
  | cons a r ih =>
    rcases ih (fun n hn => hl n (by simp [hn])) (d.deliver a) h with h | h
    · rcases Dev.deliver_raw_only d a k i (hl a (by simp)) hk hi h with h | h
      · exact .inl h
      · exact .inr (by simp [h])
    · exact .inr (by simp [h])

theorem Dev.settleSump_raw (d : Dev) (k : Nat) (hk : k < 8) : d.settleSump.get (R.EVT_RAW_BITS k) = d.get (R.EVT_RAW_BITS k) := by
  have hs : ∀ (d : Dev) (g : Fld) v, 0x50000 * 32 ≤ g.key → (d.set g v).get (R.EVT_RAW_BITS k) = d.get (R.EVT_RAW_BITS k) :=
    fun d g v hg => Dev.get_set_ne d v (by simp only [Fld.key, R.EVT_RAW_BITS] at *; omega)
  have hl : ∀ g ∈ sumpFlds, 0x50000 * 32 ≤ g.key := by decide
  have h : Dev.OffLog (fun d => d.get (R.EVT_RAW_BITS k)) := ⟨fun d g v hg => hs d g v (hl g hg), fun _ _ => Dev.get_onCyc .., fun _ _ => rfl⟩
  unfold Dev.settleSump
  split
  · rfl
  · dsimp only
    split
    · split <;> simp only [Dev.get_ev, hs _ R.SUMP_STAT_FAULT _ (by decide)] <;> exact h.redo d ..
    · exact h.redo d ..

theorem Dev.raised_only (d : Dev) (n : Nat) (h : n ∈ d.raised) : ∃ e ∈ d.evs, e.silent = false ∧ e.num % 256 = n := by
  unfold Dev.raised at h
  have : ∀ (l : List Ev) (acc : List Nat), n ∈ l.foldl (fun l e => insNat (e.num % 256) l) acc → n ∈ acc ∨ ∃ e ∈ l, e.num % 256 = n := by
    intro l
    induction l with
    | nil => intro acc h; exact .inl h
    | cons e r ih =>
      intro acc h
      rcases ih _ h with h | ⟨x, hx, hn⟩
      · rcases mem_insNat _ _ _ h with h | h
        · exact .inr ⟨e, by simp, h.symm⟩
        · exact .inl h
      · exact .inr ⟨x, by simp [hx], hn⟩
  rcases this _ _ h with h | ⟨e, he, hn⟩
  · simp at h
  · simp at he
    exact ⟨e, he.1, by simpa using he.2, hn⟩

theorem Dev.settleSump_evs (d : Dev) (e : Ev) (h : e ∈ d.settleSump.evs) : e ∈ d.evs ∨ e.num = E.SUMP_FROZEN ∨ e.num = E.FATAL := by
  have hr := Dev.evs_offLog.redo d
  unfold Dev.settleSump at h
  split at h
  · exact .inl h
  · dsimp only at h
    split at h
    · split at h
      · simp only [Dev.evs_ev, Dev.evs_set, hr, List.mem_append, List.mem_singleton] at h
        exact h.imp id (fun h => .inr (by rw [h]))
      · simp only [Dev.evs_ev, Dev.evs_set, hr, List.mem_append, List.mem_singleton] at h
        rcases h with (h | h) | h
        · exact .inl h
        · exact .inr (.inl (by rw [h]))
        · exact .inr (.inr (by rw [h]))
    · rw [hr] at h; exact .inl h

/-- Settling sets no bit of EVT_RAW but those of the step's events and of a freeze. -/
theorem Dev.settle_raw_only (d : Dev) (n : Nat) (hn : n < 256) (h : bit (d.settle.get (R.EVT_RAW_BITS (n / 32))) (n % 32) = true) :
    bit (d.get (R.EVT_RAW_BITS (n / 32))) (n % 32) = true ∨ (∃ e ∈ d.evs, e.silent = false ∧ e.num % 256 = n) ∨ n = E.FATAL ∨ n = E.SUMP_FROZEN := by
  have hk : n / 32 < 8 := by omega
  have hi : n % 32 < 32 := Nat.mod_lt _ (by decide)
  have h : bit (d.settleSump.settleEvt.get (R.EVT_RAW_BITS (n / 32))) (n % 32) = true := h
  have hs : ∀ (x : Dev) (g : Fld) v, g.key < 0x40100 * 32 → (x.set g v).get (R.EVT_RAW_BITS (n / 32)) = x.get (R.EVT_RAW_BITS (n / 32)) :=
    fun d g v hg => Dev.get_set_ne d v (by simp only [Fld.key, R.EVT_RAW_BITS] at *; omega)
  have key : bit (d.settleSump.get (R.EVT_RAW_BITS (n / 32))) (n % 32) = true ∨ n ∈ d.settleSump.raised := by
    unfold Dev.settleEvt at h
    split at h
    · dsimp only at h
      have e : 32 * (n / 32) + n % 32 = n := by omega
      split at h
      · have := Dev.each_deliver_raw_only _ _ _ (Dev.raised_lt _) hk hi _ h
        rwa [e, Dev.vecCycle_get] at this
      · simp only [Dev.count, Dev.get_markRc, hs _ R.EVT_TOTAL_COUNT _ (by decide), hs _ R.EVT_LAST_STROKE _ (by decide), hs _ R.EVT_LAST_EVENT _ (by decide), Dev.get_onCyc] at h
        have := Dev.each_deliver_raw_only _ _ _ (Dev.raised_lt _) hk hi _ h
        rwa [e, Dev.vecCycle_get] at this
    · exact .inl h
  rw [Dev.settleSump_raw _ _ hk] at key
  rcases key with h | h
  · exact .inl h
  · obtain ⟨e, he, hs, hn⟩ := Dev.raised_only _ _ h
    rcases Dev.settleSump_evs _ _ he with h | h | h
    · exact .inr (.inl ⟨e, h, hs, hn⟩)
    · exact .inr (.inr (.inr (by rw [← hn, h]; rfl)))
    · exact .inr (.inr (.inl (by rw [← hn, h]; rfl)))

/-! ### The beginning of a step -/

@[simp] theorem Dev.at_mainUp (d : Dev) (w : When) : (d.at w).rst.mainUp = d.rst.mainUp := rfl
@[simp] theorem Dev.at_fwUp (d : Dev) (w : When) : (d.at w).rst.fwUp = d.rst.fwUp := rfl
@[simp] theorem Dev.at_kaUp (d : Dev) (w : When) : (d.at w).rst.kaUp = d.rst.kaUp := rfl
@[simp] theorem Dev.at_opt (d : Dev) (w : When) : (d.at w).rst.opt = d.rst.opt := rfl
@[simp] theorem Dev.at_evs (d : Dev) (w : When) : (d.at w).evs = d.evs := rfl
@[simp] theorem Dev.at_regs (d : Dev) (w : When) : (d.at w).regs = d.regs := rfl
@[simp] theorem Dev.at_flag (d : Dev) (w : When) (f : Fld) : (d.at w).flag f = d.flag f := rfl
@[simp] theorem Dev.at_obj (d : Dev) (w : When) (ty i : Nat) : (d.at w).obj ty i = d.obj ty i := rfl
@[simp] theorem Dev.at_objD (d : Dev) (w : When) (ty i : Nat) : (d.at w).objD ty i = d.objD ty i := rfl
@[simp] theorem Dev.at_zone (d : Dev) (w : When) (z : Nat) : (d.at w).zone z = d.zone z := by simp [Dev.zone]
@[simp] theorem Dev.at_revoked (d : Dev) (w : When) (z : Nat) : (d.at w).revoked z = d.revoked z := by simp [Dev.revoked]
@[simp] theorem Dev.at_operHash (d : Dev) (w : When) : (d.at w).operHash = d.operHash := by simp [Dev.operHash]
@[simp] theorem Dev.at_reach (d : Dev) (w : When) (req : Requester) : (d.at w).reach req = d.reach req := by cases req <;> simp [Dev.reach]
@[simp] theorem Dev.at_media (d : Dev) (w : When) : (d.at w).media = d.media := by
  unfold Dev.media; rw [Dev.at_mainUp]; rfl

/-- An access reaches the part only while the main domain is released. -/
theorem Dev.reach_mainUp {d : Dev} {req : Requester} (h : d.reach req = true) : d.rst.mainUp = true := by
  cases req
  · exact h
  · exact (Bool.and_eq_true_iff.mp h).1

/-! ### The state after a step -/

/-- The state that a step of `s` answers whose effect leaves the device `d'` before its events take theirs. -/
def State.ended (s : State) (d' : Dev) : State := { s with dev := (d'.mediaEv s.dev.media).settle }

theorem State.run_ended (s : State) (w : When) (f : Dev → Dev) : s.run w f = .next (s.ended (f (s.dev.at w))) := rfl

theorem State.runReq_ended (s : State) (w : When) (req : Requester) (f : Dev → Dev) (h : s.dev.reach req = true) :
    s.runReq w req f = .next (s.ended (f (s.dev.at w))) := by
  have : (s.dev.at w).reach req = true := by simpa using h
  simp only [State.runReq, State.run, State.ended, Dev.when, this, if_true]

theorem State.runMain_ended (s : State) (w : When) (f : Dev → Dev) (h : s.dev.rst.mainUp = true) :
    s.runMain w f = .next (s.ended (f (s.dev.at w))) := by
  have : (s.dev.at w).rst.mainUp = true := by simpa using h
  simp only [State.runMain, State.run, State.ended, Dev.when, this, if_true]

theorem State.runKa_ended (s : State) (w : When) (f : Dev → Dev) (h : s.dev.rst.kaUp = true) :
    s.runKa w f = .next (s.ended (f (s.dev.at w))) := by
  have : (s.dev.at w).rst.kaUp = true := by simpa using h
  simp only [State.runKa, State.run, State.ended, Dev.when, this, if_true]

/-- What a requester's access answers, from the device its effect leaves. -/
theorem State.answers_req {i : Instr} {s : State} {w : When} {req : Requester} {f : Dev → Dev} {P : State → Prop} (hx : exec i s = s.runReq w req f)
    (hr : s.dev.reach req = true) (d' : Dev) (hf : f (s.dev.at w) = d') (h : P (s.ended d')) : Answers i s P :=
  ⟨_, by rw [hx, State.runReq_ended _ _ _ _ hr, hf], h⟩

/-- What a step of the main domain answers, from the device its effect leaves. -/
theorem State.answers_main {i : Instr} {s : State} {w : When} {f : Dev → Dev} {P : State → Prop} (hx : exec i s = s.runMain w f)
    (hm : s.dev.rst.mainUp = true) (d' : Dev) (hf : f (s.dev.at w) = d') (h : P (s.ended d')) : Answers i s P :=
  ⟨_, by rw [hx, State.runMain_ended _ _ _ hm, hf], h⟩

/-- What a step of the keep-alive domain answers, from the device its effect leaves. -/
theorem State.answers_ka {i : Instr} {s : State} {w : When} {f : Dev → Dev} {P : State → Prop} (hx : exec i s = s.runKa w f)
    (hk : s.dev.rst.kaUp = true) (d' : Dev) (hf : f (s.dev.at w) = d') (h : P (s.ended d')) : Answers i s P :=
  ⟨_, by rw [hx, State.runKa_ended _ _ _ hk, hf], h⟩

theorem State.ended_get (s : State) (d' : Dev) (g : Fld) (hg : evFree g) : (s.ended d').dev.get g = d'.get g := by
  show ((d'.mediaEv s.dev.media).settle).get g = _
  rw [Dev.settle_get _ _ hg]
  exact congrArg Prod.fst (Dev.mediaEv_view _ _ g)

theorem State.ended_body (s : State) (d' : Dev) : (s.ended d').dev.body = d'.body := by
  show ((d'.mediaEv s.dev.media).settle).body = _
  rw [Dev.settle_body]
  exact congrArg Prod.snd (Dev.mediaEv_view _ _ ⟨0, 0, 0, .ro, 0, .main⟩)

/-- The frame on registers, from what the effect does to them. -/
theorem State.ended_keeps (s : State) (d' : Dev) (fs : List Fld)
    (h : ∀ g, (∀ x ∈ fs, g.key ≠ x.key) → d'.get g = s.dev.get g) : Keeps s (s.ended d') fs :=
  ⟨fun g hg hx => (State.ended_get s d' g hg).trans (h g hx), rfl, rfl, rfl⟩

/-- The record of events, from those the effect raises. -/
theorem State.ended_raises (s : State) (d' : Dev) (ns : List Nat) (hm : d'.rst.mainUp = true)
    (hr : ∀ k, k < 8 → d'.get (R.EVT_RAW_BITS k) = s.dev.get (R.EVT_RAW_BITS k))
    (hmed : d'.media = s.dev.media)
    (he : ∀ n ∈ ns, n < 256 ∧ ∃ e ∈ d'.evs, e.num = n ∧ e.silent = false)
    (hb : ∀ e ∈ d'.evs, e.silent = true ∨ e.num % 256 ∈ ns) :
    RaisesJust s (s.ended d') ns := by
  have hmid : d'.mediaEv s.dev.media = d' := by unfold Dev.mediaEv; simp [hmed]
  have hx : (s.ended d').dev = d'.settle := by unfold State.ended; rw [hmid]
  refine ⟨fun n hn => ?_, fun n hn h => ?_⟩
  · obtain ⟨hl, e, hem, hen, hes⟩ := he n hn
    subst hen
    unfold Raised; rw [hx]
    exact Dev.settle_raw _ hm e hem hes hl
  · unfold Raised at h; rw [hx] at h
    rcases Dev.settle_raw_only _ n hn h with h | ⟨e, hem, hes, hen⟩ | h
    · left; rw [hr _ (by omega)] at h; exact h
    · rcases hb e hem with h | h
      · rw [h] at hes; cases hes
      · exact .inr (.inl (hen ▸ h))
    · exact .inr (.inr h)

/-- The record of events of a step that changes no register of EVT_RAW and nothing MEDIA reads, and raises just `ns`. -/
theorem State.ended_raises' (s : State) (d' : Dev) (ns : List Nat) (hm : s.dev.rst.mainUp = true)
    (hr : ∀ k, k < 8 → d'.get (R.EVT_RAW_BITS k) = s.dev.get (R.EVT_RAW_BITS k))
    (hrst : d'.rst.mainUp = s.dev.rst.mainUp) (hi : d'.img.active = s.dev.img.active)
    (h1 : d'.get R.RST_PWR_STATE = s.dev.get R.RST_PWR_STATE) (h2 : d'.get R.RST_STAT_RECOVERY = s.dev.get R.RST_STAT_RECOVERY)
    (h3 : d'.get R.STK_STAT_RUNNING = s.dev.get R.STK_STAT_RUNNING)
    (he : d'.evs.map (fun e => (e.num, e.silent)) = ns.map (fun n => (n, false))) (hn : ∀ n ∈ ns, n < 256) :
    RaisesJust s (s.ended d') ns := by
  have conv : ∀ x : Nat × Bool, x ∈ d'.evs.map (fun e => (e.num, e.silent)) ↔ x ∈ ns.map (fun n => (n, false)) := fun x => by rw [he]
  refine State.ended_raises s d' ns (hrst.trans hm) hr ?_ (fun n h => ⟨hn n h, ?_⟩) (fun e h => ?_)
  · simp only [Dev.media, Dev.flag, hrst, hi, h1, h2, h3]
  · have := (conv (n, false)).mpr (List.mem_map.mpr ⟨n, h, rfl⟩)
    obtain ⟨e, h1, h2⟩ := List.mem_map.mp this
    exact ⟨e, h1, congrArg Prod.fst h2, congrArg Prod.snd h2⟩
  · obtain ⟨n, h1, h2⟩ := List.mem_map.mp ((conv (e.num, e.silent)).mp (List.mem_map.mpr ⟨e, h, rfl⟩))
    have h3 : n = e.num := congrArg Prod.fst h2
    have := hn n h1
    exact .inr (by rw [← h3, Nat.mod_eq_of_lt this]; exact h1)

theorem Dev.when_true (f : Dev → Dev) (d : Dev) : Dev.when true f d = f d := rfl
theorem Dev.when_false (f : Dev → Dev) (d : Dev) : Dev.when false f d = d := rfl

/-! ### A command register -/

@[simp] theorem Dev.accepted_get (d : Dev) (c : CmdReg) (f : Fld) : (d.accepted c).get f = d.get f := by
  unfold Dev.accepted; split <;> rfl

@[simp] theorem Dev.accepted_body (d : Dev) (c : CmdReg) : (d.accepted c).body = d.body := by unfold Dev.accepted; split <;> rfl

@[simp] theorem Dev.accepted_evs (d : Dev) (c : CmdReg) : (d.accepted c).evs = d.evs := by unfold Dev.accepted; split <;> rfl

theorem Dev.command_ok {d : Dev} {c : CmdReg} {req : Requester} {r : Right} {body : Dev → Except Nat Dev} {done : Bool} {d' : Dev}
    (hr : d.may req r = true) (hb : d.busy c = false) (h : body d = .ok d') :
    d.command c req r body done = (if done then d'.evOpt c.evDone else d').accepted c := by simp [Dev.command, hr, hb, h]

theorem Dev.command_error {d : Dev} {c : CmdReg} {req : Requester} {r : Right} {body : Dev → Except Nat Dev} {done : Bool} {n : Nat}
    (hr : d.may req r = true) (hb : d.busy c = false) (h : body d = .error n) :
    d.command c req r body done = d.refuse c n := by simp [Dev.command, hr, hb, h]

theorem Dev.command_busy {d : Dev} {c : CmdReg} {req : Requester} {r : Right} {body : Dev → Except Nat Dev} {done : Bool}
    (hr : d.may req r = true) (hb : d.busy c = true) : d.command c req r body done = d.refuse c 2 := by simp [Dev.command, hr, hb]

theorem Dev.command_denied {d : Dev} {c : CmdReg} {req : Requester} {r : Right} {body : Dev → Except Nat Dev} {done : Bool}
    (hr : d.may req r = false) : d.command c req r body done = d.denied.refuse c 3 := by simp [Dev.command, hr]

end Sys2Proof.Machine
end

