-- ==== Sys2Proof/WellFormed.lean ====
section
/-! DEFINITION. Which commands are well formed: the operands lie in the ranges that the spec gives what they name. A command that is not can reach no
part of the device; the meanings answer it all the same. -/

namespace Sys2Proof

/-- `x` lies below `n`. -/
def below (n x : Nat) : Bool := decide (x < n)

/-- A stroke has 156,250 cycles of the cell clock (R2). -/
def okWhen (w : When) : Bool := below 156250 w.cc

/-- A register's address: 4-byte aligned, in BAR0 (R4, R464). -/
def okAddr (a : Nat) : Bool := a % 4 == 0 && below 0x4000000 a

/-- An access of a core moves 1 to 8 bytes; a store of `data` has their number. -/
def okSize (n : Nat) (data : List Byte) : Bool := decide (1 ≤ n ∧ n ≤ 8) && (data.isEmpty || data.length == n)

/-- An operand input has four words, in local memory where it names addresses (R227). -/
def okOp : OpIn → Bool
  | .words l => l.length == 4
  | .mem l => l.length == 4 && l.all (below 32768)

/-- The operands of a load (R230). -/
def okSrc : LoadSrc → Bool
  | .lane x => okOp x
  | .prod x y => okOp x && okOp y

/-- A protection entry is one of 16 (R18), and the console's rate at most 3 Mbaud (R472). -/
def okAct : CoreAct → Bool
  | .pmp i _ _ => below 16 i
  | .baud n => decide (1 ≤ n ∧ n ≤ 3000000)
  | _ => true

/-- An item: at least a header, FIRST on its first word alone and LAST on its last (R96). -/
def okItem (l : List TWord) : Bool :=
  match l with
  | [] => false
  | h :: r => h.first && !(r.any TWord.first)

/-- A block by its number (R538). -/
def okBlk : Blk → Bool
  | .cell n => below 64 n
  | .tdm n => below 32 n
  | .madi m => below 4 m
  | .eth p => below 4 p
  | .pkt => true
  | .cis => true
  | .cnv => true
  | .tone => true
  | .cmp => true
  | .bsd => true

/-- What RST_HELD reports (R547). -/
def okHold : HoldUnit → Bool
  | .blk b => okBlk b
  | .ddr _ => true
  | .pcie => true
  | .tick => true

/-- A TDM port or a MADI framer by its number (R439, R449). -/
def okLine (madi : Bool) (port : Nat) : Bool := below (if madi then 4 else 32) port

/-- A VDDIO bank by its number (R627). -/
def okSupply : Supply → Bool
  | .vddio b => below 4 b
  | _ => true

/-- A received frame's timestamp point lies less than one second back (R400). -/
def okFrame (f : EthFrame) : Bool := below 4000000000 f.age

/-- The command is well formed. -/
def Instr.wf (i : Instr) : Bool :=
  match i with
  | .registerWrite w _ addr _ => okWhen w && okAddr addr
  | .rcRead w _ addr => okWhen w && okAddr addr
  | .badAccess w _ addr => okWhen w && below 0x4000000 addr
  | .coreAccess w core acts addr size data => okWhen w && below 4 core && acts.all okAct && below 0x140000000 addr && okSize size data
  | .strokeBoundary w _ => okWhen w
  | .stkEn w _ => okWhen w
  | .originStart w => okWhen w
  | .reorigin w _ => okWhen w
  | .stkNumLoRead w _ => okWhen w
  | .stage w task => okWhen w && below 131072 task
  | .runAdmit w cell => okWhen w && below 64 cell
  | .firstDrawClose w cell => okWhen w && below 64 cell
  | .fdLatestExpiry w task => okWhen w && below 131072 task
  | .budgetExhausted w cell => okWhen w && below 64 cell
  | .kernelReturn w cell _ => okWhen w && below 64 cell
  | .checkpoint w cell _ done => okWhen w && below 64 cell && below 1024 done
  | .cpForced w cell _ done => okWhen w && below 64 cell && below 1024 done
  | .completion w task => okWhen w && below 131072 task
  | .taskRead w _ => okWhen w
  | .cancel w _ => okWhen w
  | .disable w _ => okWhen w
  | .enable w _ => okWhen w
  | .clearCounters w _ => okWhen w
  | .clearState w _ => okWhen w
  | .push w q words _ => okWhen w && below 65536 q && okItem words
  | .pop w q _ => okWhen w && below 65536 q
  | .descPtrRead w _ q => okWhen w && below 65536 q
  | .queueRead w _ q => okWhen w && below 65536 q
  | .queueFlush w _ q => okWhen w && below 65536 q
  | .flushApply w q => okWhen w && below 65536 q
  | .queueResize w _ q => okWhen w && below 65536 q
  | .flitGrant w node out _ => okWhen w && below 80 node && below 5 out
  | .linkCreditReturn w node dir cls => okWhen w && below 80 node && below 4 dir && below 4 cls
  | .censusComplete w => okWhen w
  | .creditResync w node dir cls => okWhen w && below 80 node && below 4 dir && below 4 cls
  | .isolation w blk _ _ => okWhen w && okBlk blk
  | .isoReturnDone w blk => okWhen w && okBlk blk
  | .ethFrameRx w port frame => okWhen w && below 4 port && okFrame frame
  | .pktIngress w port => okWhen w && below 4 port
  | .cisGoneTimeout w c => okWhen w && below 16384 c
  | .legTimeout w c _ => okWhen w && below 16384 c
  | .fsRead w _ => okWhen w
  | .fsInsert w _ => okWhen w
  | .fsDelete w _ => okWhen w
  | .fsReplace w _ => okWhen w
  | .fsLookup w _ => okWhen w
  | .fsReadLaddr w _ => okWhen w
  | .scSet w _ => okWhen w
  | .scRead w _ => okWhen w
  | .scZero w _ => okWhen w
  | .egRead w _ => okWhen w
  | .egStats w _ => okWhen w
  | .packetLaunch w port sub => okWhen w && below 4 port && below 4 sub
  | .cisRead w _ => okWhen w
  | .cisStats w _ => okWhen w
  | .cisFlush w _ => okWhen w
  | .cisResize w _ => okWhen w
  | .setDelay w _ => okWhen w
  | .cisStart w _ => okWhen w
  | .cisStop w _ => okWhen w
  | .setPt w _ => okWhen w
  | .setOffset w _ => okWhen w
  | .setRef w _ => okWhen w
  | .cnvPass w _ => okWhen w
  | .cnvOverrun w _ _ => okWhen w
  | .laneRead w _ => okWhen w
  | .chainRead w _ => okWhen w
  | .setRead w _ => okWhen w
  | .laneEnable w _ => okWhen w
  | .laneDisable w _ => okWhen w
  | .laneDelay w _ => okWhen w
  | .laneRatio w _ => okWhen w
  | .swap w _ => okWhen w
  | .sync w _ => okWhen w
  | .laneCounters w _ => okWhen w
  | .coefWrite w _ _ => okWhen w
  | .accClear w cell m a _ => okWhen w && below 64 cell && below 12 m && below 8 a
  | .accLoad w cell m a src k => okWhen w && below 64 cell && below 12 m && below 8 a && okSrc src && below 49 k
  | .accAddProduct w cell m a x y _ => okWhen w && below 64 cell && below 12 m && below 8 a && okOp x && okOp y
  | .accAddShifted w cell m a x k _ => okWhen w && below 64 cell && below 12 m && below 8 a && okOp x && below 49 k
  | .crossLaneSum w cell m a _ => okWhen w && below 64 cell && below 12 m && below 8 a
  | .reduction w cell m a sh addr lane => okWhen w && below 64 cell && below 12 m && below 8 a && below 49 sh && below 32768 addr && below 3 lane
  | .blockExponent w cell addr _ _ => okWhen w && below 64 cell && below 32768 addr
  | .minMaxSearch w cell _ addr _ _ _ => okWhen w && below 64 cell && below 32768 addr
  | .agAccess w cell k _ _ => okWhen w && below 64 cell && below 8 k
  | .agLenWrite w cell k len _ => okWhen w && below 64 cell && below 8 k && below 65536 len
  | .transfer w cell _ _ _ _ _ => okWhen w && below 64 cell
  | .cellBrstSet w _ n => okWhen w && below 64 n
  | .cellBrstRelease w _ n => okWhen w && below 64 n
  | .blockRelease w u => okWhen w && okHold u
  | .blockHeld w u => okWhen w && okHold u
  | .wakeDone w n => okWhen w && below 64 n
  | .ecOpen w task _ _ _ => okWhen w && below 131072 task
  | .ecClose w task _ _ => okWhen w && below 131072 task
  | .ecSet w task _ _ _ => okWhen w && below 131072 task
  | .ecReset w task _ _ => okWhen w && below 131072 task
  | .ecFreeze w task _ _ => okWhen w && below 131072 task
  | .ecThaw w task _ _ => okWhen w && below 131072 task
  | .bypassOn w task _ _ => okWhen w && below 131072 task
  | .bypassOff w task _ _ => okWhen w && below 131072 task
  | .codecOpen w task _ _ _ => okWhen w && below 131072 task
  | .codecClose w task _ _ => okWhen w && below 131072 task
  | .codecSet w task _ _ _ => okWhen w && below 131072 task
  | .codecReset w task _ _ => okWhen w && below 131072 task
  | .legAdd w task _ _ _ _ => okWhen w && below 131072 task
  | .legDel w task _ _ _ => okWhen w && below 131072 task
  | .legSet w task _ _ _ _ => okWhen w && below 131072 task
  | .confSet w task _ _ _ => okWhen w && below 131072 task
  | .matrixGain w task _ _ _ => okWhen w && below 131072 task
  | .tonePass w => okWhen w
  | .toneOverrun w _ q => okWhen w && below 65536 q
  | .detRead w _ => okWhen w
  | .genRead w _ => okWhen w
  | .detEnable w _ => okWhen w
  | .detDisable w _ => okWhen w
  | .genStart w _ => okWhen w
  | .genStop w _ => okWhen w
  | .toneSlotCounters w _ => okWhen w
  | .cmpPass w _ => okWhen w
  | .cmpOverrun w stream => okWhen w && below 512 stream
  | .cmpRead w _ => okWhen w
  | .cmpEnable w _ => okWhen w
  | .cmpDisable w _ => okWhen w
  | .cmpStreamCounters w _ => okWhen w
  | .jobStart w _ => okWhen w
  | .jobAbort w _ => okWhen w
  | .cmpJobDone w _ => okWhen w
  | .adjustmentPoint w _ => okWhen w
  | .timeSet w _ => okWhen w
  | .timeStep w _ => okWhen w
  | .timeFreq w _ => okWhen w
  | .timeAdj w _ => okWhen w
  | .timeMode w _ => okWhen w
  | .arm w _ => okWhen w
  | .disarm w _ => okWhen w
  | .trigRead w _ => okWhen w
  | .dcoMode w _ => okWhen w
  | .saMeas w _ => okWhen w
  | .saReset w _ => okWhen w
  | .triggerFire w unit => okWhen w && below 64 unit
  | .pinPulseEnd w unit => okWhen w && below 64 unit
  | .timeNowRead w _ => okWhen w
  | .timeRawRead w _ => okWhen w
  | .ppsTsRead w _ => okWhen w
  | .dcoFreqCommit w _ _ => okWhen w
  | .tsqPop w _ port => okWhen w && below 4 port
  | .captureEdge w unit _ _ sub => okWhen w && below 16 unit && below 4 sub
  | .capPop w _ => okWhen w
  | .refEdge w input sub _ => okWhen w && below 4 input && below 16 sub
  | .refQual w input => okWhen w && below 3 input
  | .refLost w input => okWhen w && below 3 input
  | .dcoLocked w => okWhen w
  | .xoFail w => okWhen w
  | .tickPllLock w => okWhen w
  | .ethLinkUp w port => okWhen w && below 4 port
  | .ethLinkDown w port _ => okWhen w && below 4 port
  | .anRestart w _ port => okWhen w && below 4 port.port
  | .tdmRxPush w group _ => okWhen w && below 1024 group
  | .slaveFrameRx w madi port _ _ => okWhen w && okLine madi port
  | .lineLost w madi port => okWhen w && okLine madi port
  | .madiFrameRx w m _ _ _ => okWhen w && below 4 m
  | .tdmBrst w _ madi port _ => okWhen w && okLine madi port
  | .bsdFault w clk => okWhen w && below 4 clk
  | .patrolScrubPass w _ _ => okWhen w
  | .ddrInitDone w => okWhen w
  | .ddrEccAddrRead w _ => okWhen w
  | .hostDataWrite w off _ => okWhen w && below 0x40000000 off
  | .hostDataRead w off _ => okWhen w && below 0x40000000 off
  | .pciePerst w => okWhen w
  | .flr w => okWhen w
  | .pcieLinkUp w _ _ => okWhen w
  | .pcieLinkDown w => okWhen w
  | .i2cStretchTimeout w => okWhen w
  | .bypass w => okWhen w
  | .idcode w => okWhen w
  | .samplePreload w _ _ => okWhen w
  | .extest w => okWhen w
  | .clamp w => okWhen w
  | .highz w => okWhen w
  | .imgLoad w _ => okWhen w
  | .imgLoadEnd w => okWhen w
  | .imgAbort w _ => okWhen w
  | .changeover w _ => okWhen w
  | .imgDisarm w _ => okWhen w
  | .imgDiscard w _ => okWhen w
  | .changeoverBoundary w => okWhen w
  | .imgLastRead w _ => okWhen w
  | .vbatPor w => okWhen w
  | .porAssert dip => okWhen dip.time && okSupply dip.supply
  | .porRelease w _ => okWhen w
  | .rstNAssert w _ => okWhen w
  | .rstNRelease w _ => okWhen w
  | .startOk w _ => okWhen w
  | .resScrub w _ => okWhen w
  | .resScrubDone w _ _ => okWhen w
  | .recoverNext w _ => okWhen w
  | .pwrD0 w _ => okWhen w
  | .pwrD1 w _ => okWhen w
  | .pwrD2 w _ => okWhen w
  | .wdogKick w _ _ => okWhen w
  | .wdogWarn w => okWhen w
  | .wdogExpire w => okWhen w
  | .wdogPulseEnd w => okWhen w
  | .rstBrstWrite w _ _ => okWhen w
  | .calRun w _ => okWhen w
  | .calRead w _ => okWhen w
  | .calStart w _ => okWhen w
  | .calCommit w _ _ _ => okWhen w
  | .ageingCheck w => okWhen w
  | .calPeriodRequest w target => okWhen w && below 6 target
  | .monitorSample w _ _ => okWhen w
  | .challenge w _ => okWhen w
  | .present w _ => okWhen w
  | .keyLoad w _ => okWhen w
  | .sessionEnd w _ => okWhen w
  | .attest w _ => okWhen w
  | .challengeExpire w _ => okWhen w
  | .sessionExpire w => okWhen w
  | .auditPop w _ => okWhen w
  | .thaw w _ => okWhen w
  | .freeze w _ => okWhen w
  | .faultClr w _ => okWhen w
  | .sumpRecordRead w _ => okWhen w
  | .msixSend w vec => okWhen w && below 256 vec
  | .evtInject w _ _ => okWhen w
  | .hostDoorbell w _ _ => okWhen w
  | .fwDoorbell w _ _ => okWhen w
  | .swEvent w _ _ => okWhen w
  | .secCmdDone w _ => okWhen w
  | .pcieConfigWrite w _ _ ctl => okWhen w && [128, 256, 512].contains ctl.mps && [128, 256, 512].contains ctl.mrrs
  | .dcoLossOfLock w => okWhen w
  | .calLastCheck w _ => okWhen w

end Sys2Proof
end

