-- ==== Sys2Proof/Tests/Slice0.lean ====
section
/-! SUPPORT. Tests: ill-formed commands that WellFormed refuses, for every statement with hypotheses states and operands that meet them, and single
steps whose results are worked out by hand from the rules named. -/

namespace Sys2Proof.Tests

open Sys2Proof Sys2Proof.Machine

set_option Elab.async false

/-! ### Helpers -/

/-- A time of a step. -/
def w0 : When := ⟨100, 1000⟩
/-- A time at which no apply cycle of a command at `w0` is still to come. -/
def w1 : When := ⟨400, 1000⟩

/-- Image bits from fields, each given by its lowest bit and its value. -/
def ob (l : List (Nat × Nat)) : Nat := (l.map (fun x => x.2 * 2 ^ x.1)).sum

/-- The state after reset with an active image of these objects. -/
def base (objs : Kv (Kv Nat)) : State :=
  { State.reset with dev := { State.reset.dev with
    rst := { State.reset.dev.rst with clkBad := [] }, img := { active := some { id := 9, hash := 77, objs := objs } } } }

/-- A state with its device changed. -/
def on (s : State) (f : Dev → Dev) : State := { s with dev := f s.dev }

/-- The state after a command. -/
def after (s : State) (i : Instr) : State := match exec i s with
  | .next t => t
  | _ => s

/-- A word of an item. -/
def tw (x : Nat) (f l : Bool) : TWord := { data := BitVec.ofNat 72 x, first := f, last := l, mark := false, poison := false }

/-- A word without tags. -/
def wd (x : Nat) : MWord := mkW x false false false false

/-- Four operand words whose lanes all hold `x`, and four that are tagged POISON. -/
def opW (x : Nat) : OpIn := .words (List.replicate 4 (tw (packLanes x x x) false false))
def opBad (x : Nat) : OpIn := .words (List.replicate 4 { tw (packLanes x x x) false false with poison := true })

/-- Registers take values. -/
def regs (s : State) (l : List (Fld × Nat)) : State := on s (fun d => l.foldl (fun d x => d.set x.1 x.2) d)

/-! ### Well-formedness -/

/-- One term for each check of WellFormed that the check refuses. -/
def illFormed : List Instr := [
  .stkEn ⟨156250, 0⟩ .fw, .registerWrite w0 .host 0x102 0, .rcRead w0 .host 0x4000000, .badAccess w0 true 0x4000000,
  .coreAccess w0 4 [] 0 4 [], .coreAccess w0 0 [] 0x140000000 4 [], .coreAccess w0 0 [] 0 9 [], .coreAccess w0 0 [] 0 4 [1, 2],
  .stage w0 131072, .runAdmit w0 64, .push w0 65536 [tw 0 true true] false, .push w0 1 [] false, .push w0 1 [tw 0 false true] false,
  .push w0 1 [tw 0 true false, tw 0 true true] false, .flitGrant w0 80 0 [], .flitGrant w0 0 5 [], .linkCreditReturn w0 0 4 0,
  .linkCreditReturn w0 0 0 4, .isolation w0 (.cell 64) [] 0, .isolation w0 (.tdm 32) [] 0, .isolation w0 (.madi 4) [] 0, .isolation w0 (.eth 4) [] 0,
  .ethFrameRx w0 4 ⟨[], true, false, 0⟩, .ethFrameRx w0 0 ⟨[], true, false, 4000000000⟩, .packetLaunch w0 0 4, .porAssert ⟨w0, .vddio 4, 0, 1000⟩,
  .cisGoneTimeout w0 16384, .accClear w0 0 12 0 false, .accClear w0 0 0 8 true, .accLoad w0 0 0 0 (.lane (opW 0)) 49,
  .accLoad w0 0 0 0 (.lane (.words [])) 0, .accLoad w0 0 0 0 (.prod (opW 0) (.mem [0, 1, 2, 32768])) 0, .reduction w0 0 0 0 49 0 0,
  .reduction w0 0 0 0 0 32768 0, .reduction w0 0 0 0 0 0 3, .agAccess w0 0 8 none none, .agLenWrite w0 0 0 65536 none, .blockHeld w0 (.blk (.cell 64)),
  .cmpOverrun w0 512, .triggerFire w0 64, .captureEdge w0 16 true 0 0, .captureEdge w0 0 true 0 4, .refEdge w0 4 0 0, .refEdge w0 0 16 0, .refQual w0 3, .tdmRxPush w0 1024 [],
  .lineLost w0 false 32, .lineLost w0 true 4, .hostDataRead w0 0x40000000 1, .calPeriodRequest w0 6, .msixSend w0 256, .pcieConfigWrite w0 true true ⟨true, 1024, 128, false⟩]

theorem test_wf_refuses : illFormed.all (fun i => !i.wf) = true := by decide

/-- Terms at the end of their ranges, which WellFormed accepts. -/
def wellFormed : List Instr := [
  .stkEn ⟨156249, 0⟩ .fw, .registerWrite w0 .host 0x3FFFFFC 0, .coreAccess w0 3 [] 0x13FFFFFFF 8 [1, 2, 3, 4, 5, 6, 7, 8], .stage w0 131071, .runAdmit w0 63,
  .push w0 65535 [tw 0 true false, tw 0 false true] false, .flitGrant w0 79 4 [], .linkCreditReturn w0 79 3 3, .isolation w0 (.madi 3) [] 0,
  .accLoad w0 63 11 7 (.lane (.mem [0, 1, 2, 32767])) 48, .reduction w0 63 11 7 48 32767 2, .lineLost w0 true 3, .lineLost w0 false 31, .msixSend w0 255]

theorem test_wf_accepts : wellFormed.all Instr.wf = true := by decide

/-! ### What the hypotheses of the statements mean on a state: the pump -/

def cellO : Nat := ob [(0, 1000), (16, 0x2000), (32, 0x4000)]
def t5 : Nat := ob [(0, 3), (6, 1), (32, 500), (50, 1), (64, 1000)]
def t6 : Nat := ob [(0, 3), (6, 0), (32, 200), (50, 1), (64, 1000), (200, 10), (218, 20)]
def inst5 : Inst := { bits := t5 }
/-- Tasks 5 of class 1 and 6 of class L on cell 3; STK_TASK_IDX names task 5. -/
def pumpS : State := regs (base [(4, [(3, cellO)]), (5, [(5, t5), (6, t6)])]) [(R.STK_TASK_IDX_IDX, 5)]
/-- Task 5 in a state. -/
def task5 (r : TaskRt) (s : State := pumpS) : State := on s (fun d => d.setTask 5 r)
/-- Task 5 runs on cell 3, whose first draw is open. -/
def runS (st : TState) : State := task5 { st := st, inst := some inst5 } (on pumpS (fun d => d.setCell 3 { d.cell 3 with running := some 5, fdOpen := true }))
def drawS : State := on pumpS (fun d => d.setCell 3 { d.cell 3 with fdOpen := true })
/-- No task holds a release. -/
def noPend (s : State) : Bool := s.dev.pump.tasks.all (fun x => x.2.pend.isNone)

theorem test_hyp_TaskCommands :
    (Open pumpS w0 .fw C.task .none ∧ (pumpS.dev.obj S.TASKS (pumpS.dev.get R.STK_TASK_IDX_IDX)).isSome = true) ∧
      (Open pumpS w0 .host C.task .oper ∧ pumpS.dev.get R.STK_TASK_IDX_IDX = 5 ∧ (pumpS.dev.obj S.TASKS 5).isSome = true) := by decide +kernel

theorem test_hyp_CancelOfInstances :
    (Open pumpS w0 .fw C.task .oper ∧ pumpS.dev.get R.STK_TASK_IDX_IDX = 5 ∧ (pumpS.dev.obj S.TASKS 5).isSome = true ∧ (pumpS.dev.task 5).inst = none) ∧
      (Open (runS .running) w0 .fw C.task .oper ∧ ((runS .running).dev.task 5).inst = some inst5 ∧ inst5.drain = false ∧
        ((runS .running).dev.task 5).st = .running) ∧
      (let s := task5 { st := .ready, inst := some inst5 }
       Open s w0 .host C.task .oper ∧ s.dev.get R.STK_TASK_IDX_IDX = 5 ∧ (s.dev.obj S.TASKS 5).isSome = true ∧ (s.dev.task 5).inst = some inst5 ∧
        (s.dev.task 5).st = .ready ∧ ∀ x ∈ s.dev.pump.tasks, x.2.pend = none) := by decide +kernel

theorem test_hyp_StagingAndRun :
    (let s := task5 { st := .ready, inst := some inst5 }
     Running s ∧ (s.dev.task 5).inst = some inst5 ∧ (s.dev.task 5).st = .ready ∧ s.dev.halted (.cell (tCell inst5.bits)) = false ∧ tClass inst5.bits ≠ 0) ∧
    (let s := on (regs drawS [(R.STK_STAT_RUNNING, 1)]) (fun d => d.setTask 6 { st := .ready, inst := some { bits := t6 } })
     tClass t6 = 0 ∧ (s.dev.task 6).st = .ready ∧ (s.dev.cell (tCell t6)).fdOpen = true ∧ (s.dev.cell (tCell t6)).fdDone.contains 6 = false ∧
       tFdStart t6 ≤ (s.dev.at w0).org.cc) ∧
    (let s := regs (task5 { st := .staged, inst := some inst5 }) [(R.STK_STAT_RUNNING, 1)]
     let late : When := ⟨155300, 0⟩
     Running s ∧ (s.dev.cell 3).running = none ∧ s.dev.halted (.cell 3) = false ∧ tCell inst5.bits = 3 ∧ (s.dev.task 5).st = .staged ∧
       (s.dev.task 5).inst = some inst5 ∧ (s.dev.cell 3).fdOpen = false ∧ (s.dev.cell 3).parked = false ∧ s.dev.ranked 3 = some (5, inst5) ∧
       noPend s = true ∧ (s.dev.at w0).absCc + tBudget inst5.bits - 1 ≤ dlAbs inst5.bits inst5.rel ∧ (s.dev.at w0).org.cc + tBudget inst5.bits + 512 ≤ 156250 ∧
       (s.dev.at late).absCc + tBudget inst5.bits - 1 ≤ dlAbs inst5.bits inst5.rel ∧ s.dev.fdLen 3 ≠ 0 ∧
       156250 < (s.dev.at late).org.cc + tBudget inst5.bits + 512) ∧
    (let s := task5 { st := .ready, inst := some inst5 } (on pumpS (fun d => { d with org := { d.org with num := 5 } }))
     Running s ∧ s.dev.ranked 3 = some (5, inst5) ∧ (s.dev.cell 3).running = none ∧ s.dev.halted (.cell 3) = false ∧ tClass inst5.bits = 1 ∧
       dlAbs inst5.bits inst5.rel < (s.dev.at w0).absCc + tBudget inst5.bits - 1 ∧ tSuccCount inst5.bits = 0 ∧ noPend s = true) ∧
    (let s := on drawS (fun d => d.setTask 6 { st := .staged, inst := some { bits := t6 } })
     Running s ∧ (s.dev.cell 3).running = none ∧ tCell t6 = 3 ∧ (s.dev.task 6).st = .staged ∧ (s.dev.cell 3).fdOpen = true ∧ s.dev.fdNext 3 = some 6) := by decide +kernel

theorem test_hyp_BudgetAndFirstDraw :
    (Running (runS .running) ∧ ((runS .running).dev.cell 3).running = some 5 ∧ ((runS .running).dev.task 5).inst = some inst5 ∧
      ((runS .running).dev.task 5).st = .running) ∧
    (Running drawS ∧ drawS.dev.obj S.TASKS 6 = some t6 ∧ tClass t6 = 0 ∧ (drawS.dev.cell (tCell t6)).fdOpen = true ∧ (drawS.dev.task 6).st ≠ .ready ∧
      (drawS.dev.task 6).st ≠ .staged ∧
      (drawS.dev.cell (tCell t6)).fdDone.contains 6 = false) := by decide +kernel

theorem test_hyp_RunEndsAndRetires :
    (Running (runS .stopping) ∧ ((runS .stopping).dev.cell 3).running = some 5 ∧ ((runS .stopping).dev.task 5).inst = some inst5 ∧
      tCell inst5.bits = 3 ∧ ((runS .stopping).dev.task 5).st = .stopping ∧ inst5.cancel = false) ∧
    (let s := on (regs (runS .running) [(R.STK_STAT_RUNNING, 1)]) (fun d => d.onOrg (fun o => { o with num := 5 }))
     (s.dev.task 5).st = .running ∧ (s.dev.at w0).overBudget inst5 = true) ∧
    (let i := { inst5 with cancel := true, stopAt := some (((runS .stopping).dev.at w0).absCc) }
     let s := on (runS .stopping) (fun d => d.setTask 5 { d.task 5 with inst := some i })
     Running s ∧ (s.dev.cell 3).running = some 5 ∧ (s.dev.task 5).inst = some i ∧ (s.dev.task 5).st = .stopping ∧ i.stopAt = some (s.dev.at w0).absCc) ∧
    (let s := task5 { st := .stopping, inst := some { inst5 with drain := true } }
     Running s ∧ (s.dev.task 5).inst = some { inst5 with drain := true } ∧ (s.dev.task 5).st = .stopping ∧ tSuccCount t5 = 0 ∧
       ∀ x ∈ s.dev.pump.tasks, x.2.pend = none) ∧
    (let s := task5 { st := .stopping, inst := some { inst5 with drain := true, cancel := true } }
     Running s ∧ (s.dev.task 5).inst = some { inst5 with drain := true, cancel := true } ∧ (s.dev.task 5).st = .stopping) ∧
    (let s := task5 { st := .running, inst := some { inst5 with drain := true } }
     Running s ∧ (s.dev.task 5).inst = some { inst5 with drain := true } ∧ (s.dev.task 5).st = .running) := by decide +kernel

/-! ### Queues and mesh -/

def q9 : Nat := ob [(0, 100), (25, 1), (32, 4), (48, 8), (64, 3), (80, 2), (96, 200), (144, 1)]
/-- Queue 9 of four slots, its idle item in place. -/
def queueS : State := on (base [(7, [(9, q9)])]) (fun d => (d.setQ 9 (qFresh q9)).resWriteN 200 (mkItem 0 5 [wd 7, wd 8]))
/-- An item of one payload word. -/
def item1 : List TWord := [tw (0x10000 + 5 * 2 ^ 56) true false, tw 77 false true]
def pushedS : State := after queueS (.push w0 9 item1 false)
def flushS : State := on pushedS (fun d => d.setQ 9 { d.q 9 with flushPend := true })

theorem test_hyp_PushStoresItem :
    Running queueS ∧ queueS.dev.obj S.QUEUES 9 = some q9 ∧ ((nodeBlk (qProdNode q9) (qProdPort q9)).map queueS.dev.isolated).getD false = false ∧
      GoodItem q9 item1 ∧ queueS.dev.qWaits 9 (item1.map TWord.toW) = false ∧ (queueS.dev.q 9).openW = none ∧ (queueS.dev.q 9).swallow = none ∧
      CopiesAgree (queueS.dev.q 9) ∧ (queueS.dev.q 9).depth < (queueS.dev.q 9).n := by decide +kernel

theorem test_hyp_PopGivesItem :
    (Running pushedS ∧ pushedS.dev.obj S.QUEUES 9 = some q9 ∧ pushedS.dev.consHalted q9 = false ∧ CopiesAgree (pushedS.dev.q 9) ∧
      (pushedS.dev.q 9).visible (pushedS.dev.at w1).stamp ≠ 0 ∧
      hPlen (wData (kvD pushedS.dev.qf.res (slotAt pushedS.dev 9 (pushedS.dev.q 9).rpA) 0)) = 1 ∧ pushedS.dev.qf.resUe = [] ∧ pushedS.dev.qf.resCe = [] ∧
      ∀ k, k ≤ 1 → wPoison (kvD pushedS.dev.qf.res (slotAt pushedS.dev 9 (pushedS.dev.q 9).rpA + k) 0) = false) ∧
    (Running queueS ∧ queueS.dev.obj S.QUEUES 9 = some q9 ∧ queueS.dev.consHalted q9 = false ∧ CopiesAgree (queueS.dev.q 9) ∧ (queueS.dev.q 9).visible (queueS.dev.at w0).stamp = 0 ∧ (queueS.dev.q 9).fbArmed = false ∧
      hPlen (wData (kvD queueS.dev.qf.res (qIdle q9) 0)) = 2 ∧ queueS.dev.qf.resUe = [] ∧ queueS.dev.qf.resCe = []) ∧
    (let s := on queueS (fun d => { d with rst := { d.rst with inRst := [.pkt] } })
     Running s ∧ s.dev.obj S.QUEUES 9 = some q9 ∧ s.dev.consHalted q9 = true) := by decide +kernel

theorem test_hyp_QueueCommands :
    (Ready queueS .fw ∧ (queueS.dev.at w0).busy C.qf = false ∧ queueS.dev.qValid 9 = true ∧ (queueS.dev.at w0).oper .fw = true) ∧
      (let s := regs queueS [(R.QF_QARG_SLOTS, 8)]
       Ready s .host ∧ (s.dev.at w0).busy C.qf = false ∧ s.dev.qValid 9 = true ∧ s.dev.get R.QF_QARG_SLOTS = 8 ∧ 8 ≤ qSlotsMax (s.dev.objD S.QUEUES 9)) ∧
      (Running flushS ∧ flushS.dev.obj S.QUEUES 9 = some q9 ∧ CopiesAgree (flushS.dev.q 9) ∧ (flushS.dev.q 9).flushPend = true ∧ (flushS.dev.q 9).openW = none) := by decide +kernel

theorem test_hyp_DescriptorLatch :
    Ready queueS .fw ∧ Ready (after queueS (.descPtrRead w0 .fw 9)) .fw ∧ (after queueS (.descPtrRead w0 .fw 9)).dev.qf.descLatch6.isSome = true := by decide +kernel

/-- An output of node 3 with its class-L credits. -/
def linkS (l : LinkRt) : State := on (base []) (fun d => d.setLink (linkKey 3 1 0) l)
/-- A census in progress. -/
def snapS (x : Snap) : State := on (base []) (fun d => { d with qf := { d.qf with snap := some x } })

theorem test_hyp_LinksAndCensus :
    (let s := linkS { credits := 4, buf := 20, ret := 3 }
     Running s ∧ (0, 0) ∈ [(1, 2), (0, 0)] ∧ turnOk 0 1 = true ∧ (meshNext 3 1).isSome = true ∧ 0 < (s.dev.link (linkKey 3 1 0)).credits ∧ 0 < (s.dev.link (linkKey 3 1 0)).ret) ∧
    (let s := linkS { credits := 4, buf := 20, bad := true }
     Running s ∧ (s.dev.link (linkKey 3 1 0)).bad = true ∧ (s.dev.link (linkKey 3 1 0)).wire = 0 ∧ (s.dev.link (linkKey 3 1 0)).ret = 0 ∧
       (s.dev.link (linkKey 3 1 0)).buf ≤ 32) ∧
    (Running (snapS { stroke := 5 }) ∧ (snapS { stroke := 5 }).dev.qf.snap = some { stroke := 5 } ∧ ({ stroke := 5 } : Snap).first = none) ∧
    (Running (snapS { credit := [(3, 1)] }) ∧ (snapS { credit := [(3, 1)] }).dev.qf.snap = some { credit := [(3, 1)] } ∧
      ({ credit := [(3, 1)] } : Snap).first.isSome = true) := by decide +kernel

/-! ### Cells -/

def cellS : State := base [(4, [(3, cellO)])]
/-- Accumulator 2 of lane 1 of cell 3. -/
def accS (x : AccRt) : State := on cellS (fun d => d.setCell 3 ((d.cell 3).setAcc 1 2 x))
/-- Words 7 and 8 of cell 3's local memory. -/
def lmS : State := on cellS (fun d => d.setCell 3 ((d.cell 3).writeN 7 [wd (packLanes 5 6 7), wd (packLanes (2 ^ 24 - 1) 0x7FFFFF 0x800000)]))
/-- Generator 1 of cell 3. -/
def agS (g : Ag) : State := on lmS (fun d => d.setAg 3 1 g)
def t7 : Nat := ob [(0, 3), (6, 1), (32, 500), (50, 1), (64, 1000), (128, 400)]
/-- Task 5 in RUN on cell 3, its windows 20 words of the reservoir from 500 and 40 of the DDR from 1,000. -/
def xferS : State := regs (on (base [(4, [(3, cellO)]), (5, [(5, t7)])]) (fun d =>
  ((d.setTask 5 { st := .running, inst := some { bits := t7 } }).setCell 3 { running := some 5 }).resWriteN 401 [wd (500 + 20 * 2 ^ 24), wd (1000 + 40 * 2 ^ 36)]))
    [(R.DDR_STAT_INIT_DONE, 1), (R.DDR_CFG_A_EN, 1), (R.DDR_CFG_SIZE_A, 24)]

/-- Task 5 runs on cell 3, whose kernel 0 has ACC_WRAP. -/
def wrapS : State :=
  let s := base [(4, [(3, ob [(48, 1), (96, 7)])]), (5, [(5, t5)])]
  let s := { s with dev := { s.dev with img := { s.dev.img with active := s.dev.img.active.map (fun b => { b with packs := [{ id := 7, ver := 1, hash := 0, codeWords := 0, kernels := [2 ^ 80], code := [] }] }) } } }
  on s (fun d => (d.setTask 5 { st := .running, inst := some inst5 }).setCell 3 { running := some 5 })

theorem test_hyp_AccumulatorSteps :
    (let s := accS { v := 10 }
     Running s ∧ CellRuns s 3 ∧ (s.dev.cell 3).lmUe = [] ∧ (s.dev.cell 3).lmCe = [] ∧ (s.dev.cell 3).cyc.old = [] ∧ (s.dev.cell 3).cyc.ovf = 0 ∧
       takeLane ((s.dev.cell 3).operand 1 (opW 5)) 1 = (5, false) ∧ takeLane ((s.dev.cell 3).operand 1 (.mem [0, 1, 2, 32767])) 1 = (0, false) ∧ Fits72 (5 * 2 ^ 48) ∧ ((s.dev.cell 3).accAt 1 2).sat = false ∧
       Fits72 (((s.dev.cell 3).accAt 1 2).v.toInt + 3 * (-4)) ∧ Fits72 (((s.dev.cell 3).accAt 1 2).v.toInt - 3 * 2 ^ 48) ∧
       Fits72 ([1].map (fun j => ((s.dev.cell 3).accAt j 2).v.toInt)).sum) ∧
    (Running cellS ∧ CellRuns cellS 3 ∧ takeLane ((cellS.dev.cell 3).operand 1 (opW 0x7FFFFF)) 1 = (8388607, false) ∧
      takeLane ((cellS.dev.cell 3).operand 1 (opBad 0x800000)) 1 = (-8388608, true) ∧ ¬Fits72 (8388607 * (-8388608) * 2 ^ 48) ∧
      cellS.dev.accWrap 3 = false) ∧
    (let s := accS { v := BitVec.ofInt 72 (-(2 ^ 71) + 1) }
     ¬Fits72 (((s.dev.cell 3).accAt 1 2).v.toInt + 3 * (-4)) ∧ ((s.dev.cell 3).accAt 1 2).sat = false) ∧
    (Running wrapS ∧ CellRuns wrapS 3 ∧ wrapS.dev.accWrap 3 = true) ∧
    (let s := accS { v := BitVec.ofInt 72 (2 ^ 71 - 1), sat := true }
     Running s ∧ CellRuns s 3 ∧ ((s.dev.cell 3).accAt 1 2).sat = true) := by decide +kernel

theorem test_hyp_ReductionWritesLane : Running (accS { v := 10 }) ∧ CellRuns (accS { v := 10 }) 63 := by decide +kernel

theorem test_hyp_VectorSearches :
    (Running lmS ∧ CellRuns lmS 3 ∧ 7 + 2 ≤ 32768 ∧ (lmS.dev.cell 3).lmUe = [] ∧ (lmS.dev.cell 3).lmCe = [] ∧ (lmS.dev.cell 3).cyc.old = []) ∧
      ((blockLanes ((lmS.dev.cell 3).words 7 2) 7).1).filter (fun x => !excluded [(0, 1)] x.1) ≠ [] ∧
      ((blockLanes ((lmS.dev.cell 3).words 7 2) 7).1).filter (fun x => !excluded [(0, 100)] x.1) = [] := by decide +kernel

theorem test_hyp_GeneratorsAndTransfers :
    (let g : Ag := { base := 6, off := 1, len := 8, step := 3, mode := .circular }
     Running (agS g) ∧ CellRuns (agS g) 3 ∧ ((agS g).dev.cell 3).ag 1 = g ∧ g.len ≠ 0 ∧ g.next g.len.toNat = some (some 4) ∧
       ((agS g).dev.cell 3).lmUe = [] ∧ ((agS g).dev.cell 3).lmCe = [] ∧ ((agS g).dev.cell 3).cyc.old = []) ∧
    (let g : Ag := { base := 0x7FFF, off := 1, len := 8, step := 3, mode := .circular }
     Running (agS g) ∧ 32768 ≤ g.base.toNat + g.off.toNat) ∧
    (let g : Ag := { base := 6, off := 1, len := 9, step := 3, mode := .bitrev }
     Running (agS g) ∧ CellRuns (agS g) 3 ∧ ((agS g).dev.cell 3).ag 1 = g ∧ ∀ b, b < 16 → g.len.toNat ≠ 2 ^ b) ∧
    (Running xferS ∧ CellRuns xferS 3 ∧ xferS.dev.xferOk 3 true .reservoir 7 500 3 = true ∧ xferS.dev.qf.resUe = [] ∧ xferS.dev.qf.resCe = []) ∧
    (xferS.dev.xferOk 3 true .ddr 7 1000 3 = true ∧ 1000 + 3 ≤ xferS.dev.ddrTotal ∧ xferS.dev.ddr.ue = [] ∧ xferS.dev.ddr.ce = []) ∧
    (xferS.dev.xferOk 3 false .reservoir 7 500 3 = true ∧ xferS.dev.xferOk 3 false .ddr 7 1000 3 = true ∧
      (xferS.dev.cell 3).lmUe = [] ∧ (xferS.dev.cell 3).lmCe = [] ∧ (xferS.dev.cell 3).cyc.old = []) ∧
    xferS.dev.xferOk 3 true .reservoir 7 499 3 = false := by decide +kernel

/-! ### The control space, events and security -/

/-- A state with option zones as loaded. -/
def optS (l : List (BitVec 512)) : State := on (base []) (fun d => { d with rst := { d.rst with opt := l } })
/-- An operator key is in force, so that the host has no operator rights. -/
def lockedS : State := optS [5, 0, 0, 0, 0, 77, 0, 0]

theorem test_hyp_FieldsDisjoint : (fieldsAt 0x100030).isSome = true := by decide

theorem test_hyp_PlainWrites :
    (Ready (base []) .host ∧ PlainReg (base []) .host 0x100030 0x12345 [R.STK_TASK_IDX_IDX] ∧ ((base []).dev.at w0).oper .host = true) ∧
      (Ready lockedS .host ∧ PlainReg lockedS .host 0x200034 0x400 [R.QF_QARG_SLOTS] ∧ needsOper 0x200034 [R.QF_QARG_SLOTS] = true ∧
        (lockedS.dev.at w0).oper .host = false) ∧ fieldsAt 4092 = none := by decide +kernel

theorem test_hyp_RegisterReads :
    (Ready (base []) .host ∧ 0x100030 % 4 = 0 ∧ isDesc 0x100030 = false ∧ ((base []).dev.at w0).readPop 0x100030 = none ∧ fieldsAt 0x100030 = some [R.STK_TASK_IDX_IDX]) ∧
      (isDesc 4092 = false ∧ ((base []).dev.at w0).readPop 4092 = none ∧ fieldsAt 4092 = none) := by decide +kernel

theorem test_hyp_CoreMemory : Ready (base []) .fw ∧ (base []).dev.coreRuns 0 = true ∧ ((base []).dev.core 0).allows 0x80000010 4 true = true ∧
    ((base []).dev.core 0).allows 0x803FFFFC 4 false = true := by decide +kernel

/-- Event 7 is routed to cores 0 and 2, to ALERT_N, and to the host as vector 12. -/
def routeS : State :=
  regs (base []) [(R.EVT_ROUTE_MSIX 7, 1), (R.EVT_ROUTE_CORES 7, 5), (R.EVT_ROUTE_ALERT 7, 1), (R.EVT_ROUTE_VEC 7, 12), (R.EVT_CTL_MSIX_EN, 1)]
/-- Vector 12 is due and may go. -/
def dueS : State :=
  regs (on (after routeS (.evtInject w0 .fw 7)) (fun d => { d with pcie := { msixEn := true, funcMask := false, busMaster := true } }))
    [(R.PCIE_MSIX_CTL_MASK 12, 0), (R.PCIE_STAT_LINK_UP, 1)]

theorem test_hyp_InjectedEventRouted :
    Ready routeS .host ∧ (routeS.dev.at w0).oper .host = true ∧ evReserved 7 = false ∧ routeS.dev.flag (R.EVT_ROUTE_MSIX 7) = true ∧
      (routeS.dev.at w0).thisCyc.evs = [] ∧ (routeS.dev.at w0).before (R.EVT_ROUTE_MSIX 7) = 1 ∧ 7 ∈ ((after routeS (.evtInject w0 .fw 7)).dev.at ⟨100, 0⟩).thisCyc.evs ∧
      pendBit routeS.dev R.EVT_HPEND_BITS 7 = false ∧ evReserved 44 = true ∧ evReserved 207 = true := by decide +kernel

theorem test_hyp_DoorbellsAndMessages :
    (Ready routeS .host ∧ (routeS.dev.at w0).oper .host = true ∧ Ready routeS .fw) ∧
      (Running dueS ∧ dueS.dev.sendable 12 = true ∧ dueS.dev.lowerFirst 12 = false) := by decide +kernel

/-- A P-384 key of the Brainpool curve made for these tests, its hash as an option zone, an operator token and a WRITE_OTP token that it signed, and the
SEC_ARG of the latter. -/
def testPub : Nat :=
  0x5cf50b17a3166502dd1ab47f346e1c05fa45b96849681da260841c34aeba1ed2fd7d7c50dc155f74d2eb124f7202b53579b3779d3548e421e614b2e7d814b9378e523a086aff095cedd1a4201b645923c4d60aa1afabb8044769a34bd4f742ae
def testZone : Nat :=
  0x9adabcd3000000000000000000000000dd1e9e330122882844871858e073d40fb36a58180718ec9c6c3481aec9bb1f21b53241acc24905b4250ff6d989bf668e
def operTok : Nat :=
  0x365d57b344f8f263d14e987a2cac300123e74da9ff6324916208a57c466687b2cb4744d523e45058f3dc969f4c8fc9833de47922cc0c179a9d95199a5d87ca44e5d6e96d5fae5bc8bd96073e9e93bbcfdea878e544fb3236514f43b951fd928bae42f7d44ba3694704b8abafa10ad6c42359641b20a4d1ed5c09ff6a083a528e37b914d8e7b214e621e448359d77b37935b502724f12ebd2745f15dc507c7dfdd21ebaae341c8460a21d684968b945fa051c6e347fb41add026516a3170bf55c000000000000003c0000000000000000000000000000000000000000000000000000000000000000000000000000000000000000000000000000000000000000000000000000000000000000000000000000000000000000000000000000000000000000000000000000000000000000000000000000000500000101544b4e31
def writeTok : Nat :=
  0x4abb8598acc3d3c4a5fb23384c7afcbe4a3fa043115f150efdd3444c4bac902239f3d4275f614dc42cb65616e26677643de47922cc0c179a9d95199a5d87ca44e5d6e96d5fae5bc8bd96073e9e93bbcfdea878e544fb3236514f43b951fd928bae42f7d44ba3694704b8abafa10ad6c42359641b20a4d1ed5c09ff6a083a528e37b914d8e7b214e621e448359d77b37935b502724f12ebd2745f15dc507c7dfdd21ebaae341c8460a21d684968b945fa051c6e347fb41add026516a3170bf55c00000000000000007665712cf151958b52579ec871b343f2bee6682aa0ce3b9cf707370a953c5f4360eaa64e394d36f95f80db33c27c721c0000000000000000000000000000000000000000000000000000000000000000000000000000000000000000000000000000000000000000000000000000000500000202544b4e31
def writeArg : Nat :=
  0x9adabcd3000000000000000000000000dd1e9e330122882844871858e073d40fb36a58180718ec9c6c3481aec9bb1f21b53241acc24905b4250ff6d989bf668e00000003
/-- The host has an outstanding challenge of zeros, a token and an argument. -/
def tokenS (opt : List (BitVec 512)) (t a : Nat) : State :=
  on (optS opt) (fun d => d.setSecBank .host { d.secBank .host with chal := some 0, token := BitVec.ofNat 2560 t, arg := BitVec.ofNat 544 a })

theorem test_hyp_ChallengesAndTokens :
    (Ready (base []) .host ∧ (base []).dev.busy C.sec = false ∧ Running (base []) ∧
      (let s := on (base []) (fun d => d.onRst (fun r => { r with xoUs := 60000000 }))
       Running s ∧ (s.dev.at w0).chalOver .host = true) ∧ ((base []).dev.at w0).tkCheck (base []).otp .host 0 0 = (1, false)) ∧
      (let s := tokenS [5, 0, 0, 0, 0, BitVec.ofNat 512 testZone, 0, 0] (operTok + 2 ^ 2000) 0
       Ready s .host ∧ (s.dev.at w0).busy C.sec = false ∧ (s.dev.at w0).tkCheck s.otp .host (s.dev.secBank .host).token.toNat (s.dev.secBank .host).arg.toNat = (6, true)) := by
  decide +kernel

theorem test_hyp_operToken :
    let s := tokenS [5, 0, 0, 0, 0, BitVec.ofNat 512 testZone, 0, 0] operTok 0
    Ready s .host ∧ (s.dev.at w0).busy C.sec = false ∧ ((s.dev.at w0).tkCheck s.otp .host operTok (s.dev.secBank .host).arg.toNat).1 = 0 ∧ tkAction operTok = 1 := by
  decide +kernel

theorem test_hyp_writeToken :
    let s := tokenS [5, 0, 0, 0, 0, 0, 0, 0] writeTok writeArg
    Ready s .host ∧ (s.dev.at w0).busy C.sec = false ∧ ((s.dev.at w0).tkCheck s.otp .host writeTok (s.dev.secBank .host).arg.toNat).1 = 0 ∧ tkAction writeTok = 2 := by
  decide +kernel

/-- A WRITE_OTP, and an attestation, in hand. -/
def otpS : State := on (base []) (fun d => { d with sec := { d.sec with otpWr := some { req := .host, zone := 3, data := 9, argHash := 0, role := 2 } } })
def attS : State := on (base []) (fun d => { d with sec := { d.sec with attest := some (.host, 5), idOk := true } })

/-- A PRESENT in hand whose checks gave the code. -/
def presS (code : Nat) : State :=
  on (base []) (fun d => { d with sec := { d.sec with pres := some { req := .host, code := code, role := 1, arg := 1, argHash := 0 } } })

theorem test_hyp_SecurityCommands :
    (Running otpS ∧ otpS.dev.sec.attest = none ∧ otpS.dev.sec.otpWr.isSome = true ∧ 3 < otpS.otp.zones.length) ∧
      (Running attS ∧ attS.dev.sec.attest = some (.host, 5)) ∧ (Running (presS 0) ∧ (presS 0).dev.sec.attest = none ∧ (presS 0).dev.sec.otpWr = none) ∧
      (Running (presS 6) ∧ (presS 6).dev.sec.pres.map PresentRt.code = some 6) ∧
      (let s := regs (optS [0, 0, 0, 77, 0, 0, 0, 0]) [(R.SEC_IDX_ROLE, 2)]
       Open s w0 .fw C.sec .fwOnly ∧ s.dev.audFree = true ∧ s.dev.get R.SEC_IDX_ROLE = 2 ∧ s.dev.instHash = some (zHash 77) ∧ keyHash 0 ≠ zHash 77) ∧
      (let s := on (regs (optS [0, 0, 0, BitVec.ofNat 512 testZone, 0, 0, 0, 0]) [(R.SEC_IDX_ROLE, 2)])
         (fun d => d.setSecBank .fw { d.secBank .fw with key := BitVec.ofNat 768 (beReg 96 testPub) })
       Open s w0 .fw C.sec .fwOnly ∧ s.dev.instHash = some (keyHash (BitVec.ofNat 768 (beReg 96 s.dev.sec.fw.key.toNat)))) ∧
      (Open attS w0 .host C.sec .oper ∧ attS.dev.sec.idOk = true) := by decide +kernel

def sessS : State := on (base []) (fun d => { d with sec := { d.sec with sessEnd := some 500, audQ := [[1, 2, 3, 4]] } })

theorem test_hyp_SessionAndAudit :
    ((sessS.dev.at w0).sessOpen = true ∧ Open sessS w0 .host C.sec .none) ∧
      (let s := on sessS (fun d => d.onRst (fun r => { r with xoUs := 500 }))
       s.dev.sec.sessEnd.isSome = true ∧ (s.dev.at w0).sessOpen = false ∧ Running s) ∧
      (Ready sessS .host ∧ sessS.dev.sec.audQ = [[1, 2, 3, 4]]) ∧ (Ready (base []) .fw ∧ (base []).dev.sec.audQ = []) := by decide +kernel

theorem test_hyp_SumpCommands :
    (let s := regs (base []) [(R.SUMP_STAT_FROZEN, 1)]
     Open s w0 .host C.sump .oper ∧ s.dev.flag R.SUMP_STAT_FROZEN = true ∧ LogFresh s w0 ∧ bit (s.dev.get (R.SUMP_FATAL_MASK 0)) E.SEC_CMD_DONE = false) ∧
      (Open (base []) w0 .fw C.sump .oper ∧ (base []).dev.get R.SUMP_STAT_FROZEN = 0 ∧ LogFresh (base []) w0) := by decide +kernel

/-! ### Time -/

def trigO : Nat := ob [(1, 1), (32, 50)]
/-- The clock runs at 5 s, VALID; TIME_IDX names PIN unit 3. -/
def timeS : State :=
  on (regs (base [(25, [(3, trigO)])]) [(R.TIME_STAT_VALID, 1), (R.TIME_IDX_IDX, 3)]) (fun d => d.onTim (fun x => { x with locked := true, t := 5 * 10 ^ 9 * 2 ^ 32 }))
/-- TIME_ARG. -/
def targS (l : List Nat) (s : State := timeS) : State := regs s (l.zipIdx.map (fun x => (R.TIME_ARG_ARG x.2, x.1)))
def armS : State := targS [500, 6, 0, 200, 10]
def filtS (x : Int × Int) : State := on (targS [100 * 2 ^ 16, 0x4000, 1]) (fun d => d.onTim (fun y => { y with saFilt := [(1, x)] }))

theorem test_hyp_ClockCommandsWait :
    (let s := targS [500, 0x20000000, 0x1F]
     Open s w0 .host C.time .oper ∧ s.dev.targ 0 < 10 ^ 9 ∧ s.dev.tim.saVer = none ∧ -(2 ^ 37) ≤ signedOf 38 (s.dev.targ 0 + bits (s.dev.targ 1) 0 6 * 2 ^ 32) ∧
       signedOf 38 (s.dev.targ 0 + bits (s.dev.targ 1) 0 6 * 2 ^ 32) ≤ 2 ^ 37) ∧
      (let s := on timeS (fun d => d.onTim (fun x => { x with saVer := some ⟨3, 4, 5⟩ }))
       Open s w0 .fw C.time .oper ∧ s.dev.tim.saVer.isSome = true) := by decide +kernel

theorem test_hyp_ModeAndServo :
    (let s := targS [5 * 4 + 20 * 256]
     Ready s .host ∧ (s.dev.at w0).oper .host = true ∧ (s.dev.at w0).busy C.time = false ∧ s.dev.clkValid = true ∧ bits (s.dev.targ 0) 0 2 = 0 ∧
       bits (s.dev.targ 0) 8 10 = 20) ∧
      (let s := filtS (1600 * 4096, 0x4000000)
       Open s w0 .fw C.time .oper ∧ s.dev.tim.saVer = none ∧ bits (s.dev.targ 2) 0 2 = 1 ∧ kvGet 1 s.dev.tim.saFilt = some (1600 * 4096, 0x4000000) ∧
         4 * ((s.dev.targ 1 * 4096 : Int) - 0x4000000).natAbs ≤ s.dev.stepThr * 65536) ∧
      (let s := filtS (-30000000000, 9000000000)
       Open s w0 .fw C.time .oper ∧ near (s.dev.saCorrect 1 (signedOf 32 (s.dev.targ 0)) * 4096) (-30000000000) (s.dev.stepThr * 65536) = false ∧
         s.dev.stepThr * 65536 < 4 * ((s.dev.targ 1 * 4096 : Int) - 9000000000).natAbs) := by decide +kernel

theorem test_hyp_TriggerUnits :
    (Ready armS .host ∧ (armS.dev.at w0).busy C.time = false ∧ armS.dev.get R.TIME_IDX_IDX = 3 ∧ (armS.dev.obj S.TRIGGERS 3).isSome = true ∧ (armS.dev.at w0).oper .host = true ∧
      100 ≤ armS.dev.targ 3 ∧ gPwNs (armS.dev.objD S.TRIGGERS 3) + 4 < armS.dev.targ 3 ∧ armS.dev.targ 0 < 10 ^ 9 ∧ armS.dev.targ 4 ≤ 10 ^ 9 ∧
      (armS.dev.at w0).now48 < ({ ns := 500, sec := 6 } : TrigRt).time * 2 ^ 48) ∧
      (let s := on timeS (fun d => d.setTrig 3 { armed := true, sec := 5 })
       Running s ∧ (s.dev.trig 3).armed = true ∧ s.dev.clkValid = true ∧ (s.dev.obj S.TRIGGERS 3).isSome = true ∧ gTarget (s.dev.objD S.TRIGGERS 3) = 1 ∧
         (s.dev.trig 3).time * 2 ^ 48 ≤ (s.dev.at w0).now48 ∧ (s.dev.at w0).disarmed w0 3 s.pending = false) := by decide +kernel

def stampsS : State := on timeS (fun d => d.onTim (fun x => { x with tsq := [(1, [5, 6])], caps := [(0, [9])] }))
def nowS : State := after timeS (.timeNowRead w0 .fw)

theorem test_hyp_TimeReadsAndStamps :
    (Ready nowS .fw ∧ nowS.dev.tim.nowLatch1.isSome = true ∧ nowS.dev.tim.nowLatch2.isSome = true) ∧
      (Ready stampsS .host ∧ stampsS.dev.tsq 1 = 5 :: [6] ∧ stampsS.dev.get R.TIME_CAP_SEL_UNIT = 0 ∧ kvD stampsS.dev.tim.caps 0 [] = 9 :: [] ∧
        kvGet 1 stampsS.dev.tim.tsqAt ≠ some (stampsS.dev.at w0).stamp ∧ kvGet 0 stampsS.dev.tim.capAt ≠ some (stampsS.dev.at w0).stamp) := by
  decide +kernel

/-- What an image gives a capture unit is a free value (log entry 7): a unit whose edges are enabled meets the clause of TimeReadsAndStamps. -/
theorem test_hyp_captureEdge (h : Config.capture 77 3 = (true, true, 20)) :
    Running timeS ∧ (∃ b, timeS.dev.img.active = some b ∧ (Config.capture b.hash 3).1 = true ∧ (Config.capture b.hash 3).2.2 ≤ 30) ∧
      bit timeS.dev.rst.banks.toNat 2 = true ∧ kvGet 3 timeS.dev.tim.capLast = none ∧ (kvD timeS.dev.tim.caps 3 []).length < 16 :=
  ⟨by decide +kernel, ⟨_, rfl, by rw [show (77 : BitVec 384) = 77 from rfl] at h; exact congrArg (·.1) h, by
    rw [show (Config.capture 77 3).2.2 = 20 from congrArg (·.2.2) h]; decide⟩, by decide +kernel, by decide +kernel, by decide +kernel⟩

/-- The edge of these tests, in 1/16 ns of house time: 5/16 ns after the tick of a step at `w0`. -/
def edgeE : Nat := (timeS.dev.at w0).now48 / 2 ^ 44 + 5
/-- Streams 1 and 3 in microsecond 0, and a window of REF10M_IN with 7 edges, the last 100 ns ago. -/
def refS : State := on (regs timeS [(R.STK_STAT_RUNNING, 1)]) (fun d => d.onTim (fun x => { x with
  tdc := [(1, {}), (3, {})], refWin := [(1, (edgeE / 16000000, 7, true))], lastEdge := [(1, edgeE - 1600)] }))

theorem test_hyp_ReferencesAndPll_edges :
    Running refS ∧ refS.dev.flag R.STK_STAT_RUNNING = true ∧ edgeE = (refS.dev.at w0).now48 / 2 ^ 44 + 5 ∧ bit refS.dev.rst.banks.toNat 2 = true ∧
      kvGet 3 refS.dev.tim.tdc = some {} ∧ ({} : TdcRt).nowWords.length = w0.cc / 1250 ∧
      kvGet 1 refS.dev.tim.tdc = some {} ∧ refS.dev.get R.TIME_DCO_CTL_MODE ≠ 1 ∧ kvGet 1 refS.dev.tim.refWin = some (edgeE / 16000000, 7, true) ∧
      kvGet 1 refS.dev.tim.lastEdge = some (edgeE - 1600) ∧ edgeE - 1600 ≤ edgeE ∧ (edgeE - (edgeE - 1600)) * refS.dev.refRate 1 ≤ 16 * 10 ^ 9 := by decide +kernel

theorem test_hyp_ReferencesAndPll :
    (let s := on (regs timeS [(R.TIME_REF_CFG_QUAL_S, 1)]) (fun d => d.onTim (fun x => { x with refGood := [(1, 1000)] }))
     Running s ∧ s.dev.refOk 1 = false ∧ s.dev.clkValid = true ∧ s.dev.refReady 1 = true ∧ s.dev.tim.holdAuto = false ∧ s.dev.rst.kaUp = true ∧
       s.dev.tim.locked = true) ∧
      (let s := on (regs timeS [(R.TIME_REF_CFG_QUAL_S, 1)]) (fun d => d.onTim (fun x => { x with ppsGood := 4 }))
       s.dev.refOk 0 = false ∧ s.dev.refReady 0 = true) ∧
      (let s := on (regs timeS [(R.TIME_REF_STAT_QUAL, 2)]) (fun d => d.onTim (fun x => { x with edgeXo := [(1, 0)] }))
       Running s ∧ s.dev.refOk 1 = true ∧ (s.dev.at w0).refMissing 1 = true ∧ s.dev.get R.TIME_DCO_CTL_MODE ≠ 1) ∧
      (let s := on (regs timeS [(R.TIME_DCO_CTL_MODE, 1)]) (fun d => { d with tim := { d.tim with phiGood := some 5 }, rst := { d.rst with xoUs := 10000001 } })
       Running s ∧ s.dev.rst.kaUp = true ∧ s.dev.get R.TIME_DCO_CTL_MODE = 1 ∧ s.dev.flag R.TIME_DCO_STAT_LOCKED = false ∧
         s.dev.tim.phiGood.any (fun t => decide (t + 10 ^ 10 ≤ (s.dev.at w0).xoNs)) = true) ∧
      (Running (base []) ∧ (base []).dev.rst.kaUp = true ∧ (base []).dev.tim.locked = false ∧ (base []).dev.rst.unitBad.contains .tick = false) := by decide +kernel

/-! ### Cisterns, packets and ports -/

def cisO : Nat := ob [(1, 1), (3, 1), (4, 1), (8, 4), (11, 2), (77, 5), (90, 100), (104, 5000), (142, 16), (156, 20), (205, 3)]
/-- A DUAL cistern 3, named by CIS_IDX. -/
def cisS (a : Nat) : State := regs (base [(10, [(3, cisO)])]) [(R.CIS_IDX_IDX, 3), (R.CIS_ARG_ARG, a)]
/-- It plays, its last packets 100 strokes past. -/
def playS : State := on (cisS 9) (fun d => (d.setCis 3 { d.cistern 3 with st := 2, lastAt := some 0, legUp := (true, true), legAt := (some 0, some 0) }).onOrg (fun o => { o with num := 100 }))

theorem test_hyp_Cisterns :
    (let s := cisS 6
     Ready s .host ∧ (s.dev.at w0).busy C.cis = false ∧ s.dev.get R.CIS_IDX_IDX = 3 ∧ s.dev.obj S.CISTERNS 3 = some cisO ∧ (s.dev.at w0).oper .host = true ∧
       s.dev.isolated .cis = false ∧ 6 ≤ cSlotsMax cisO ∧ cDelayMin cisO ≤ 6 ∧ 6 ≤ cDelayMax cisO ∧ (s.dev.cistern 3).st = 0) ∧
      (Running playS ∧ playS.dev.isolated .cis = false ∧ (playS.dev.cistern 3).st = 2 ∧ (playS.dev.cistern 3).lastAt = some 0 ∧
        0 + cGone (playS.dev.objD S.CISTERNS 3) * 156250 < (playS.dev.at w0).absCc ∧ cDual (playS.dev.objD S.CISTERNS 3) = true ∧
        (playS.dev.cistern 3).up true = true ∧ (playS.dev.cistern 3).legAt.2 = some 0) := by decide +kernel

def entry4 : Nat := ob [(0, 0x0A000001), (32, 5004), (48, 5004), (72, 0x1234), (104, 1), (110, 1), (112, 3), (128, 2)]
def entry6 : Nat :=
  ob [(0, 0xFE80), (72, 0x99), (104, 1), (105, 1), (110, 2), (112, 3), (128, 2)] + 2 ^ 144 * ob [(0, 77), (72, 5004), (88, 5006), (104, 1), (105, 2)]
/-- PKT_FS_DATA holds an entry. -/
def fsS (x : Nat) (s : State := base [(9, [(2, 0x0A000002)])]) : State := on s (fun d => d.setWords R.PKT_FS_DATA_D 9 x)
/-- The IPv4 entry is in the store. -/
def storedS : State := after (fsS entry4) (.fsInsert w0 .fw)

theorem test_hyp_FlowStoreCommands :
    (let s := fsS entry4
     Ready s .host ∧ (s.dev.at w0).busy C.fs = false ∧ s.dev.fsData = entry4 ∧ (s.dev.at w0).oper .host = true ∧ s.dev.isolated .pkt = false ∧
       (flowKey entry4 0).isSome = true ∧ fValid entry4 = true ∧ fAction entry4 ≠ 3 ∧
       (∀ k, flowKey entry4 0 = some k → k.v6 = false ∧ ∀ v, v < 4 → s.dev.keyAt (4 * s.dev.bucket k + v) = none ∧ fValid (s.dev.flow (4 * s.dev.bucket k + v)) = false)) ∧
      (let s := fsS entry6
       s.dev.fsData = entry6 ∧ (∀ k, flowKey (entry6 % 2 ^ 144) (entry6 / 2 ^ 144) = some k → k.v6 = true ∧ s.dev.pkt.flows = [])) ∧
      (let s := regs (base [(9, [(2, 5)])]) [(R.PKT_FS_IDX_IDX, 2)]
       Ready s .fw ∧ (s.dev.obj S.LADDR (s.dev.get R.PKT_FS_IDX_IDX)).isSome = true) ∧
      (Ready storedS .fw ∧ (storedS.dev.at w1).busy C.fs = false ∧ fValid (storedS.dev.flow (storedS.dev.get R.PKT_FS_IDX_IDX)) = true ∧
        fKind (storedS.dev.flow (storedS.dev.get R.PKT_FS_IDX_IDX)) ≠ 2 ∧ fAction (storedS.dev.fsData % 2 ^ 144) ≠ 3 ∧
        ((flowKey (storedS.dev.fsData % 2 ^ 144) (storedS.dev.fsData / 2 ^ 144)).bind
          (fun k => storedS.dev.flowFind k (some (fSsrc (storedS.dev.fsData % 2 ^ 144))))).isSome = true) := by
  refine ⟨⟨by decide +kernel, by decide +kernel, by decide +kernel, by decide +kernel, by decide +kernel, by decide +kernel, by decide +kernel, by decide +kernel, ?_⟩,
    ⟨by decide +kernel, ?_⟩, by decide +kernel, by decide +kernel⟩
  · intro k h; cases h; decide +kernel
  · intro k h; cases h; decide +kernel

theorem test_hyp_ContextCommands :
    (let s := on (base [(11, [(0, ob [(1, 1)])])]) (fun d => d.setWords R.PKT_SC_DATA_D 32 3)
     Ready s .fw ∧ (s.dev.at w0).busy C.sc = false ∧ s.dev.isolated .pkt = false ∧ (ctxOf (s.dev.getWords R.PKT_SC_DATA_D 32)).suite < 5 ∧ (s.dev.at w0).oper .host = true ∧
       Open s w0 .host C.eg .none ∧ (s.dev.obj S.EGRESS (s.dev.get R.PKT_EG_IDX_IDX)).isSome = true ∧ (s.dev.eg 0).cnt.length = 3) := by decide +kernel

def ethO : Nat := ob [(4, 1), (8, 0x060504030201)]
/-- Port 1 is up, and PKT receives. -/
def ethS : State := regs (base [(20, [(1, ethO)])]) [(R.ETH_STAT_LINK 1, 1), (R.PKT_CTL_RX_EN, 1)]
/-- A frame for port 1, without FCS. -/
def frame1 : List Byte := [1, 2, 3, 4, 5, 6, 7, 7, 7, 7, 7, 7, 0x99, 0] ++ List.replicate 50 9
def rxS (s : State := ethS) : State := on s (fun d => { d with pkt := { d.pkt with rx := [(1, [(frame1, ⟨1, 1, 1⟩)])] } })
def txS : State := on (regs ethS [(R.STK_STAT_RUNNING, 1)]) (fun d => { d with pkt := { d.pkt with tx := [(1, [⟨2, 0, 50, [1, 2, 3], 9⟩])] } })

theorem test_hyp_EthernetFrames :
    (Running ethS ∧ ethS.dev.ethUp 1 = true ∧ ethS.dev.ethLoop 1 ≠ 1 ∧ ethS.dev.isolated .pkt = false ∧ 60 ≤ frame1.length ∧
      frame1.take 6 = ethMac (ethS.dev.objD S.ETH 1) ∧ isPause frame1 = false ∧
      ethS.dev.rxFill 1 + frame1.length + 4 ≤ 262144 ∧ ethS.dev.flag (R.ETH_STAT_LINK 1) = true) ∧
      (let s := base [(20, [(1, ethO)])]
       Running s ∧ (s.dev.obj S.ETH 1).isSome = true ∧ s.dev.flag (R.ETH_STAT_LINK 1) = false ∧ s.dev.isolated (.eth 1) = false) ∧
      (Ready ethS .host ∧ (ethS.dev.at w0).oper .host = true ∧ (ethS.dev.obj S.ETH 1).any ethAn = true ∧ ethS.dev.isolated (.eth 1) = false) ∧
      (let s := regs ethS [(R.ETH_CTL_LOOP 1, 1)]
       Running s ∧ s.dev.ethUp 1 = true ∧ s.dev.ethLoop 1 = 1) := by decide +kernel

/-- A UDP packet from 10.0.0.9, port 700, to 10.0.0.7, port 800, of 12 payload bytes, and a port whose local address 4 it is. -/
def frame2 : List Byte :=
  [1, 2, 3, 4, 5, 6, 7, 7, 7, 7, 7, 7, 8, 0, 0x45, 0, 0, 40, 0, 0, 0, 0, 64, 17, 0x66, 0xB6, 10, 0, 0, 9, 10, 0, 0, 7, 2, 188, 3, 32, 0, 20, 0, 0,
    0x80, 96, 0, 1, 0, 0, 0, 5, 0, 0, 0, 77]
/-- Queue 9 with slots of eight words. -/
def qWide : Nat := ob [(0, 100), (25, 1), (32, 4), (48, 8), (64, 8), (80, 2), (96, 200), (144, 1)]
def laddrO : Nat := ob [(33, 1), (144, 0xFFFF), (160, 10), (184, 7)]
/-- The first entry of the bucket: VALID, SSRC 77, ACTION 1 to queue 9, LADDR 4. -/
def flowE : Nat := ob [(0, 9 + 10 * 2 ^ 24), (32, 800), (48, 700), (72, 77), (104, 1), (110, 1), (112, 9), (128, 4)]
def flowKey2 : FlowKey := ⟨4, false, mapped [10, 0, 0, 9], 800, 700⟩
def flowS : State :=
  let s := regs (base [(7, [(9, qWide)]), (9, [(4, laddrO)])]) [(R.PKT_CTL_RX_EN, 1)]
  on s (fun d => ({ d with pkt := { d.pkt with rx := [(1, [(frame2, ⟨1, 1, 1⟩)])] } }.setFlow (4 * d.bucket flowKey2) flowE).setQ 9 (qFresh qWide))

theorem test_hyp_PacketsInAndOut_flow :
    let p := parse frame2
    let i := 4 * flowS.dev.bucket flowKey2
    Running flowS ∧ kvD flowS.dev.pkt.rx 1 [] = [(frame2, ⟨1, 1, 1⟩)] ∧ flowS.dev.isolated .pkt = false ∧ flowS.dev.flag R.PKT_CTL_RX_EN = true ∧
      frame2.length ≤ 1522 ∧ p.ethertype ≠ 0x88F7 ∧ p.ethertype ≠ 0x0806 ∧ p.udp = true ∧ p.frag = false ∧ p.bad = false ∧ p.dport ≠ 319 ∧ p.dport ≠ 320 ∧
      flowS.dev.laddr 1 p = some 4 ∧ byteAt p.payload 1 < 192 ∧
      flowS.dev.flowFind ⟨4, p.v6, p.src, p.dport, p.sport⟩ (some (beAt p.payload 8 4)) = some i ∧ fAction (flowS.dev.flow i) = 1 ∧
      fTarget (flowS.dev.flow i) = 9 ∧ Takes flowS.dev 9 qWide (excItem 1 7 0 ⟨1, 1, 1⟩ p.payload) := by decide +kernel

theorem test_hyp_PacketsInAndOut :
    (Running (rxS) ∧ kvD (rxS).dev.pkt.rx 1 [] = [(frame1, ⟨1, 1, 1⟩)] ∧ (rxS).dev.isolated .pkt = false ∧ (rxS).dev.flag R.PKT_CTL_RX_EN = true ∧
      frame1.length ≤ 1522 ∧ (parse frame1).ip = false ∧ (parse frame1).ethertype ≠ 0x88F7 ∧ (parse frame1).ethertype ≠ 0x0806 ∧
      frame1.take 6 ≠ List.replicate 6 0xFF) ∧
      (rxS (base [])).dev.flag R.PKT_CTL_RX_EN = false ∧
      (Running txS ∧ txS.dev.ethUp 1 = true ∧ kvD txS.dev.pkt.tx 1 [] = [⟨2, 0, 50, [1, 2, 3], 9⟩] ∧ 0 = txS.dev.org.num ∧ 50 ≤ (txS.dev.at w0).org.cc ∧ (kvD txS.dev.ports.ethTx 1 {}).endNs ≤ (txS.dev.at w0).xoNs) := by decide +kernel

/-- Partitions 0 of the reservoir and 1 of the DDR are host-writable; channel A is trained. -/
def hostS : State :=
  regs (base [(2, [(0, ob [(5, 1), (6, 100), (42, 20)]), (1, ob [(0, 1), (5, 1), (6, 10), (42, 20)])])])
    [(R.DDR_STAT_INIT_DONE, 1), (R.DDR_CFG_A_EN, 1), (R.DDR_CFG_SIZE_A, 24)]

theorem test_hyp_HostAndDdr :
    (Ready hostS .host ∧ (∀ x ∈ places hostS.dev 1600 18, hostS.dev.hostWritable x.1 x.2.1 = true) ∧ places hostS.dev 1600 18 ≠ [] ∧
      (∀ x ∈ places hostS.dev (0x20000000 + 160) 9, hostS.dev.hostWritable x.1 x.2.1 = true) ∧ PlacesClean hostS.dev (places hostS.dev 1600 18) ∧
      PlacesClean hostS.dev (places hostS.dev (0x20000000 + 160) 9)) ∧
      ((∀ k, k < 3 → (hostS.dev.bar2At (0 + k)).map (fun x => (x.1, x.2.1)) = some (false, 0)) ∧ hostS.dev.hostWritable false 0 = false ∧
        (∀ x ∈ places hostS.dev 0 9, wPoison (if x.1 then hostS.dev.ddrCell x.2.1 else kvD hostS.dev.qf.res x.2.1 0) = false)) ∧
      (Running hostS ∧ hostS.dev.rst.kaUp = true ∧ 5 < hostS.dev.ddrTotal ∧ hostS.dev.ddr.ue = [] ∧ hostS.dev.ddr.ce = []) ∧
      (let s := regs hostS [(R.DDR_STAT_INIT_DONE, 0)]
       Running s ∧ s.dev.rst.kaUp = true ∧ s.dev.ddrRefuses = false ∧ s.dev.ddrHeld = false ∧ s.dev.flag R.DDR_STAT_INIT_DONE = false) := by decide +kernel

theorem test_hyp_LinkResets :
    (let s := regs (base []) [(R.PCIE_CTL_LTSSM_EN, 1)]
     Running s ∧ s.dev.flag R.PCIE_CTL_LTSSM_EN = true ∧ s.dev.flag R.PCIE_STAT_LINK_UP = false ∧ s.dev.rst.unitBad.contains .pcie = false) ∧
      (let s := regs (base []) [(R.PCIE_STAT_LINK_UP, 1)]
       Running s ∧ s.dev.flag R.PCIE_STAT_LINK_UP = true) := by decide +kernel

/-! ### The stroke and the engines -/

/-- EN was written 5 ms ago, and the origin does not run; it runs at stroke 2^33 + 7. -/
def askS : State := on (regs timeS [(R.STK_CTL_EN, 1)]) (fun d => (d.onOrg (fun o => { o with enReq := some 0 })).onRst (fun r => { r with xoUs := 5000 }))
def ranS : State := on (regs timeS [(R.STK_STAT_RUNNING, 1)]) (fun d => d.onOrg (fun o => { o with num := 2 ^ 33 + 7 }))

theorem test_hyp_StrokeOrigin :
    (Ready timeS .host ∧ (timeS.dev.at w0).oper .host = true ∧ timeS.dev.flag R.STK_CTL_EN = false ∧ timeS.dev.clkValid = true) ∧ (base []).dev.clkValid = false ∧
      (Ready ranS .host ∧ ranS.dev.flag R.STK_STAT_RUNNING = true ∧ Running ranS ∧ ranS.dev.rst.kaUp = true ∧ ranS.dev.rst.pwrPend = none) ∧
      (Ready (after ranS (.stkNumLoRead w0 .fw)) .fw ∧ (after ranS (.stkNumLoRead w0 .fw)).dev.org.numLatch = some 2) ∧
      (Running askS ∧ askS.dev.rst.kaUp = true ∧ askS.dev.org.enReq = some 0 ∧ 0 + 1000000 ≤ (askS.dev.at w0).xoNs ∧ askS.dev.flag R.STK_STAT_RUNNING = false ∧
        askS.dev.clkValid = true ∧ askS.dev.rst.pwrPend = none) := by decide +kernel

def chainO : Nat := ob [(7, 1), (14, 1), (16, 9), (32, 9), (67, 2), (90, 3)]
def laneFix : Nat := ob [(1, 1), (32, 9), (48, 9), (83, 4), (155, 6), (160, 2 ^ 40)]
def setO : Nat := ob [(0, 16), (13, 1000), (32, 2000), (55, 100)]
def genO : Nat := ob [(20, 1), (21, 9)]
def detO : Nat := ob [(3, 9), (29, 1), (38, 9), (54, 1)]
def decO : Nat := ob [(1, 1), (4, 1), (14, 8), (22, 9), (38, 9), (54, 100)]
/-- An image with one object of each engine, and tone program 0 of two segments. -/
def engS : State :=
  on (base [(2, [(0, ob [(1, 5), (6, 700), (42, 1000)])]), (7, [(9, q9)]), (12, [(2, setO)]), (14, [(3, chainO)]), (15, [(1, laneFix)]), (16, [(3, detO)]),
    (18, [(2, genO)]), (19, [(3, decO)])]) (fun d => (d.setQ 9 (qFresh q9)).resWriteN 700 [wd (1000 + 2 * 2 ^ 63)])
/-- The index and argument registers of the engines. -/
def engAt (i a : Nat) : State := regs engS [(R.CNV_IDX_IDX, i), (R.CNV_ARG_ARG, a), (R.CNV_COEF_ADDR_ADDR, 1000 + 4 * i), (R.TONE_IDX_IDX, i), (R.CMP_IDX_IDX, i)]

theorem test_hyp_PassOncePerStroke :
    Running engS ∧ engS.dev.isolated .cnv = false ∧ engS.dev.isolated .tone = false ∧ engS.dev.isolated .cmp = false ∧
      (let s := on engS (fun d => { d with cnv := { d.cnv with passed := some 0 }, tone := { d.tone with passed := some 0 }, cmp := { d.cmp with passed := some 0 } })
       Running s ∧ s.dev.cnv.passed = some s.dev.org.num ∧ s.dev.tone.passed = some s.dev.org.num ∧ s.dev.cmp.passed = some s.dev.org.num) := by decide +kernel

/-- Chain 3 takes the timestamps of stream 3 of the timing unit, two a stroke. -/
def tdcO : Nat := ob [(1, 2), (3, 3), (7, 1), (32, 9), (93, 2)]
def tdcS : State := on (base [(7, [(9, q9)]), (14, [(3, tdcO)])]) (fun d => { d.setQ 9 (qFresh q9) with tim := { d.tim with locked := true, tdc := [(3, { words := [some (5, false, false), some (-6, true, false)] })] } })
def tdcIn : CnvIn := { bsd := [] }
def tdcIts : List (List MWord) :=
  smpItems (hOutN tdcO) 1 (fun k _ =>
    let y := (tdcS.dev.directIn tdcIn tdcO (hOutN tdcO)).getD k {}
    { y with rs := rsPass y.rs })
/-- State group 1 of 30 positions goes to queue 9. -/
def grpO : Nat := ob [(0, 9), (16, 30)]
def grpS : State := on (base [(7, [(9, q9)]), (17, [(1, grpO)])]) (fun d => d.setQ 9 (qFresh q9))
/-- Decode stream 3 shows one frame of stroke 5 at stroke 105. -/
def ringO : Nat := ob [(1, 1), (4, 1), (14, 8), (22, 8), (38, 9), (70, 100)]
def ringS : State :=
  on (base [(7, [(9, q9)]), (19, [(3, ringO)])]) (fun d =>
    ((d.setQ 9 (qFresh q9)).onOrg (fun o => { o with num := 105 })).setCmpS 3 { d.cmpS 3 with en := true, ring := [(5, (0, [[70]]))] })
def ringIts : List (List MWord) :=
  smpItems (rateSpp (kRate ringO)) (kCh ringO) (fun k c => { v := (([[70]] : List (List Int)).getD k []).getD c 0 })

theorem test_hyp_PassOncePerStroke_cnv :
    Running tdcS ∧ tdcS.dev.isolated .cnv = false ∧ tdcS.dev.cnv.passed = none ∧ tdcS.dev.bank.sec S.SETS = [] ∧ tdcS.dev.bank.sec S.LANES = [] ∧
      tdcS.dev.bank.sec S.CHAINS = [(3, tdcO)] ∧ tdcS.dev.cnv.skip = [] ∧ tdcS.dev.tim.handed = [] ∧ hSrc tdcO = 2 ∧ hSrcIdx tdcO = 3 ∧
      tdcS.dev.tim.locked = true ∧ hCicK tdcO = 0 ∧ hSet1En tdcO = false ∧ hSet2En tdcO = false ∧ hSettle tdcO = false ∧ hDecim tdcO = 1 ∧
      hMembers tdcO = 1 ∧ (tdcS.dev.chain 3).srcOk = true ∧ (tdcS.dev.chain 3).syncDue = false ∧ (tdcS.dev.chain 3).prime = 0 ∧
      tdcS.dev.chainHeld tdcO = false ∧ tdcIts = [tdcIts.headD []] ∧ hOutQ tdcO = 9 ∧ Takes tdcS.dev 9 q9 (tdcIts.headD []) := by decide +kernel

theorem test_hyp_PassOncePerStroke_tone :
    Running grpS ∧ grpS.dev.isolated .tone = false ∧ grpS.dev.tone.passed = none ∧ grpS.dev.bank.sec S.DET = [] ∧ grpS.dev.bank.sec S.GEN = [] ∧
      grpS.dev.bank.sec S.GRP = [(1, grpO)] ∧ grpS.dev.tim.handed = [] ∧ grpS.dev.tone.skip = [] ∧ bits grpO 0 16 = 9 ∧
      Takes grpS.dev 9 q9 (grpS.dev.stateItem 1 grpO) := by decide +kernel

theorem test_hyp_PassOncePerStroke_cmp :
    Running ringS ∧ ringS.dev.isolated .cmp = false ∧ ringS.dev.cmp.passed = none ∧ ringS.dev.bank.sec S.CMP = [(3, ringO)] ∧ kDec ringO = true ∧
      ringS.dev.cmp.skip = [] ∧ (ringS.dev.cmpS 3).en = true ∧ (ringS.dev.q (kInQ ringO)).depth = 0 ∧ kDlat ringO ≤ ringS.dev.org.num ∧
      kvGet (ringS.dev.org.num - kDlat ringO) (ringS.dev.cmpS 3).ring = some (0, [[70]]) ∧ ringS.dev.cmpHeld ringO = false ∧
      ringIts = [ringIts.headD []] ∧ kOutQ ringO = 9 ∧
      Takes ringS.dev 9 q9 (ringIts.headD []) := by decide +kernel

theorem test_hyp_OverrunAbandons :
    Running engS ∧ engS.dev.isolated .cnv = false ∧ engS.dev.isolated .tone = false ∧ engS.dev.isolated .cmp = false ∧ engS.dev.cnv.passed ≠ some engS.dev.org.num ∧ engS.dev.cnv.skip.contains (false, 3) = false ∧ engS.dev.obj S.CHAINS 3 = some chainO ∧
      hOutQ chainO = 9 ∧ engS.dev.tone.passed ≠ some engS.dev.org.num ∧ engS.dev.tone.skip.contains (true, 9) = false ∧ engS.dev.genGroup 9 ≠ [] ∧
      engS.dev.cmp.passed ≠ some engS.dev.org.num ∧ engS.dev.cmp.skip.contains 3 = false ∧ engS.dev.obj S.CMP 3 = some decO ∧ kOutQ decO = 9 ∧ kDec decO = true := by
  decide +kernel

theorem test_hyp_ConversionCommands :
    (let s := engAt 1 300
     Ready s .host ∧ s.dev.get R.CNV_IDX_IDX = 1 ∧ s.dev.get R.CNV_ARG_ARG = 300 ∧ (s.dev.at w0).busy C.cnv = false ∧ (s.dev.obj S.LANES 1).isSome = true ∧
       (s.dev.lane 1).cnt.length = 4 ∧ (s.dev.at w0).oper .host = true ∧ s.dev.isolated .cnv = false ∧ 300 % 2 ^ 20 ≤ lDMax laneFix * 256 ∧ lFixed laneFix = true) ∧
      (let s := engAt 2 (2 ^ 16 * 5 + 1)
       Ready s .fw ∧ s.dev.obj S.SETS 2 = some setO ∧ bits (2 ^ 16 * 5 + 1) 16 12 ≤ sXfMax setO ∧ (s.dev.fset 2).cmd = none ∧ s.dev.coefLocked 1008 = true ∧
         s.dev.coefLocked 1020 = false) ∧
      (Ready (engAt 3 0) .fw ∧ ((engAt 3 0).dev.obj S.CHAINS 3).isSome = true) := by decide +kernel

theorem test_hyp_ToneCommands :
    (let s := engAt 3 0
     Ready s .host ∧ (s.dev.at w0).busy C.tone = false ∧ s.dev.get R.TONE_IDX_IDX = 3 ∧ (s.dev.obj S.DET 3).isSome = true ∧ (s.dev.det 3).cnt.length = 3 ∧
       (s.dev.at w0).oper .host = true ∧ s.dev.isolated .tone = false ∧ (s.dev.det 3).en = false) ∧
      (let s := after (engAt 3 0) (.detEnable w0 .fw)
       Ready s .host ∧ (s.dev.det 3).en = true ∧ (s.dev.det 3).runs = []) ∧
      (let s := engAt 2 0
       Ready s .fw ∧ (s.dev.obj S.GEN 2).isSome = true ∧ pgNseg (s.dev.progWords 0) ≠ 0 ∧ s.dev.progAddr 0 = some 700 ∧ s.dev.qf.resUe = [] ∧ s.dev.qf.resCe = []) := by decide +kernel

def jobS (j : Nat) : State := on (engAt 3 0) (fun d => d.setWords R.CMP_JOB_DESC_D 9 j)
def job0 : Nat := ob [(4, 2), (11, 3), (14, 64)]
def job1 : Nat := job0 + 100 * 2 ^ 112

/-- An encode job of four samples of one channel, from word 16 to word 32 of a job window. -/
def job2 : Nat := ob [(2, 1), (3, 1), (4, 1), (11, 3), (14, 64), (32, 16), (72, 32), (112, 4), (144, 1000)]
def jobRunS : State :=
  on (regs (base [(2, [(0, ob [(0, 1), (1, 7), (42, 100)])])]) [(R.DDR_STAT_INIT_DONE, 1), (R.DDR_CFG_A_EN, 1), (R.DDR_CFG_SIZE_A, 24)])
    (fun d => { d with
      cmp := { d.cmp with job := some (BitVec.ofNat 288 job2) }, ddr := { d.ddr with mem := [(16, wd (5 + 6 * 2 ^ 24)), (17, wd 7)] } })

theorem test_hyp_CompressionCommands_job :
    Ready jobRunS .fw ∧ jobRunS.dev.cmp.job = some (BitVec.ofNat 288 job2) ∧ bit job2 0 = false ∧ bits job2 112 32 = 4 ∧ bits job2 14 13 = 64 ∧
      JobSpan jobRunS.dev (bit job2 2) (spanOf 16 0 0 4 3) ∧ bits job2 32 36 = 16 ∧ bits job2 27 4 = 0 ∧ bits job2 4 7 = 1 ∧
      jobRunS.dev.ddr.ue = [] ∧ jobRunS.dev.ddr.ce = [] ∧ (jobRunS.dev.jobBlock job2).length ≤ bits job2 144 32 ∧ bit job2 1 = false ∧
      JobSpan jobRunS.dev (bit job2 3) (spanOf (bits job2 72 36) (bits job2 68 4) 0 (jobRunS.dev.jobBlock job2).length 9) := by decide +kernel

theorem test_hyp_CompressionCommands :
    (let s := engAt 3 0
     Ready s .host ∧ (s.dev.at w0).busy C.cmp = false ∧ s.dev.get R.CMP_IDX_IDX = 3 ∧ (s.dev.obj S.CMP 3).isSome = true ∧ (s.dev.cmpS 3).cnt.length = 8 ∧
       (s.dev.at w0).oper .host = true ∧ s.dev.isolated .cmp = false) ∧
      ((jobS job0).dev.getWords R.CMP_JOB_DESC_D 9 = job0 ∧ (jobS job0).dev.cmp.job = none ∧ jobOk job0 = true ∧ bits job0 112 32 = 0) ∧
      ((jobS job1).dev.getWords R.CMP_JOB_DESC_D 9 = job1 ∧ jobOk job1 = true ∧ bits job1 112 32 ≠ 0) ∧
      ((after (jobS job1) (.jobStart w0 .fw)).dev.cmp.job.isSome = true ∧ Ready (after (jobS job1) (.jobStart w0 .fw)) .host ∧
        (after (jobS job1) (.jobStart w0 .fw)).dev.isolated .cmp = false) := by decide +kernel

/-! ### Kernels -/

def kTask : Nat := ob [(0, 3), (6, 1), (32, 500), (50, 1), (64, 1000), (96, 4), (128, 400)]
/-- An input or output of an argument block: queue and items. -/
def kIo (q n : Nat) : MWord := wd (q + n * 2 ^ 16 + 0x100 * 2 ^ 24)
/-- Task 5 in RUN on cell 3 with an argument block of these inputs, outputs and first parameter. -/
def kernS (ins outs : List MWord) (param : Nat) : State :=
  on (base [(4, [(3, 0)]), (5, [(5, kTask)])]) (fun d =>
    ((d.resWriteN 400 ([wd (ins.length + outs.length * 256 + 2 ^ 24), wd (5000 + 400 * 2 ^ 24), wd (8000 + 400 * 2 ^ 36)] ++ ins ++ outs ++ [wd param])).setTask 5
      { st := .running, inst := some { bits := kTask } }).setCell 3 { running := some 5 })
def ecPar : W72 := BitVec.ofNat 72 (ob [(0, 1), (9, 40), (16, 6), (20, 100), (44, 30), (50, 200), (59, 10), (64, 20)])
def ecS : State := kernS [kIo 1 16, kIo 2 16, kIo 3 16, kIo 4 8] [kIo 5 16] (2 * 8 + 8 * 2 ^ 13)
def ecOpenS : State := on ecS (fun d => d.setEcCh 5 1 { st := 1 })

theorem test_hyp_EchoControls :
    (Running ecS ∧ ecS.dev.kInst 5 = some { bits := kTask } ∧ ecS.dev.ecArgOk kTask = true ∧ ecS.dev.kFirst (tCell kTask) = false ∧ 1 < ecS.dev.ecNch kTask ∧
      (ecS.dev.ecCh 5 1).st = 0 ∧ ecParams (ecS.dev.ecMode kTask) (ecS.dev.ecTailMax kTask) [ecPar, 0] = some (ecPar, 0)) ∧
      (Running ecOpenS ∧ ecOpenS.dev.kInst 5 = some { bits := kTask } ∧ ecOpenS.dev.ecArgOk kTask = true ∧ ecOpenS.dev.kFirst (tCell kTask) = false ∧
        (ecOpenS.dev.ecCh 5 1).st ≠ 0) := by decide +kernel

/-- A decoder task of two channels, A-law alone. -/
def decS : State := kernS [kIo 1 4, kIo 2 8] [kIo 5 4] (2 * 16 + 2 ^ 15)
def decPar : List W72 := [3, BitVec.ofNat 72 (8 + 128)]

/-- How many words a codec's record takes is a free value (log entry 38): where they are few enough, the task is valid. -/
theorem test_hyp_CodecControls (h : Config.recExtra 0 0 1 = 0) :
    Running decS ∧ decS.dev.kInst 5 = some { bits := kTask } ∧ decS.dev.mArgOk kTask 0 = true ∧ decS.dev.kFirst (tCell kTask) = false ∧ 1 < decS.dev.mNch kTask ∧
      (decS.dev.decCh 5 1).st = .closed ∧ decS.dev.decParam kTask decPar = some (3, BitVec.ofNat 72 (8 + 128)) := by
  refine ⟨by decide +kernel, by decide +kernel, ?_, by decide +kernel, by decide +kernel, by decide +kernel, by decide +kernel⟩
  have e : decS.dev.mRec kTask = 6 := by
    show 6 + Config.recExtra 0 0 1 = 6
    rw [h]
  unfold Dev.mArgOk; rw [e]; decide +kernel

/-- A conference task of two conferences and three legs, and a matrix task of two outputs. -/
def confS : State := kernS [kIo 1 4, kIo 3 4, kIo 2 8] [kIo 5 4] (2 + 2 * 16 + 3 * 2 ^ 25)
def matS : State := kernS [kIo 1 4, kIo 3 4, kIo 2 8] [kIo 5 4] (3 + 2 * 16)
def legPar : List W72 := [BitVec.ofNat 72 (ob [(10, 1), (14, 2), (28, 3), (38, 2)]), BitVec.ofNat 72 (100 + 200 * 2 ^ 24)]

/-- The words of a record, and the members of the items of queues 3 and 5, are free values (log entries 38 and 39). -/
theorem test_hyp_MixControls (h : Config.recExtra 2 0 0 = 0) (h3 : Config.recExtra 3 0 0 = 0) (m1 : Config.members 77 1 = 4) (m3 : Config.members 77 3 = 4) (m5 : Config.members 77 5 = 4) :
    (Running confS ∧ confS.dev.kInst 5 = some { bits := kTask } ∧ confS.dev.kFirst (tCell kTask) = false ∧ confS.dev.mArgOk kTask 2 = true ∧ 1 < confS.dev.mLegs kTask ∧
      confS.dev.legParam kTask legPar = some (legPar.getD 0 0, legPar.getD 1 0) ∧ kvGet 1 (confS.dev.conf 5).legs = none ∧
      confRecOk (3 + 50 * 16 + 3 * 2048 + 100 * 32768) = true) ∧
      (let s := on confS (fun d => d.setConf 5 { d.conf 5 with legs := [(1, ({ live := true } : LegRt))] })
       Running s ∧ s.dev.kInst 5 = some { bits := kTask } ∧ s.dev.kFirst (tCell kTask) = false ∧ kvGet 1 (s.dev.conf 5).legs = some { live := true }) ∧
      (Running matS ∧ matS.dev.kInst 5 = some { bits := kTask } ∧ matS.dev.kFirst (tCell kTask) = false ∧ matS.dev.mArgOk kTask 3 = true ∧ 1 < matS.dev.mNch kTask ∧
        bits (5 + 2 ^ 29) 0 6 < (matS.dev.matSrcs kTask).length) := by
  have e2 : confS.dev.mRec kTask = 6 := by show 6 + Config.recExtra 2 0 0 = 6; rw [h]
  have e3 : matS.dev.mRec kTask = 6 := by show 6 + Config.recExtra 3 0 0 = 6; rw [h3]
  refine ⟨⟨by decide +kernel, by decide +kernel, by decide +kernel, ?_, by decide +kernel, ?_, by decide +kernel, by decide +kernel⟩, by decide +kernel,
    by decide +kernel, by decide +kernel, by decide +kernel, ?_, by decide +kernel, ?_⟩
  · unfold Dev.mArgOk; rw [e2]; decide +kernel
  · have a : confS.dev.legRecOk kTask (legPar.getD 0 0).toNat = true := by
      have x : confS.dev.members (((confS.dev.mPcmIns kTask).getD (bits (legPar.getD 0 0).toNat 10 4) (0, 0, 0)).1) = 4 := m3
      have y : confS.dev.members (((confS.dev.outputs kTask).getD (bits (legPar.getD 0 0).toNat 24 4) (0, 0, 0)).1) = 4 := m5
      unfold Dev.legRecOk; rw [x, y]; decide +kernel
    show (if confS.dev.legRecOk kTask (legPar.getD 0 0).toNat = true then some (BitVec.ofNat 72 ((legPar.getD 0 0).toNat % 2 ^ 40),
      BitVec.ofNat 72 (setBits ((legPar.getD 1 0).toNat % 2 ^ 47) 23 1 0)) else none) = _
    rw [if_pos a]
    decide +kernel
  · unfold Dev.mArgOk; rw [e3]; decide +kernel
  · have i : matS.dev.mPcmIns kTask = [(1, 4, 0x100), (3, 4, 0x100)] := by decide +kernel
    have a : matS.dev.members 1 = 4 := m1
    have b : matS.dev.members 3 = 4 := m3
    unfold Dev.matSrcs Dev.portMembers; rw [i]
    simp only [List.zipIdx_cons, List.zipIdx_nil, List.flatMap_cons, List.flatMap_nil, a, b]
    decide

/-! ### Lines, calibration, reset and power -/

def lineQ : Nat := ob [(0, 100), (25, 1), (32, 4), (48, 8), (64, 3), (80, 2), (96, 200), (128, 79), (136, 2), (144, 1)]
def groupO : Nat := ob [(2, 2), (7, 1), (13, 3), (22, 9)]
/-- Line 2 with a descriptor, receive group 5 of three slots, BSD clock 2. -/
def lineS (madi : Bool) (desc : Nat) : State :=
  on (base [(7, [(9, lineQ)]), (23, [(2, 2)]), (24, [(5, groupO)])]) (fun d => (d.setQ 9 (qFresh lineQ)).setLine madi 2 { valid := true, desc := desc })
/-- A master, a slave and a MADI framer. -/
def masterS : State := lineS false (ob [(7, 4), (14, 2)])
def slaveS : State := lineS false (ob [(1, 1), (7, 4), (14, 2)])
def madiS : State := lineS true (ob [(2, 1), (3, 1)])
/-- The item of three 24-bit slots. -/
def lineItem : List TWord := [tw 0x10000 true false, tw (packLanes 1 2 0x800000) false true]

theorem test_hyp_LineFrames :
    (Running masterS ∧ masterS.dev.rst.kaUp = true ∧ masterS.dev.obj S.GROUPS 5 = some groupO ∧ grTx groupO = false ∧ masterS.dev.groupLine groupO = (false, 2) ∧
      (masterS.dev.line false 2).valid = true ∧ (masterS.dev.line false 2).ext false = false ∧ (masterS.dev.line false 2).lost = false ∧ masterS.dev.isolated (.tdm 2) = false ∧
      (masterS.dev.line false 2).first < (masterS.dev.pushStroke (masterS.dev.line false 2) false 2 groupO + 1) * (masterS.dev.line false 2).f false ∧
      smpItems ((masterS.dev.line false 2).f false) (grCount groupO) (fun k j =>
        slotSmp (grLaw groupO) ((masterS.dev.line false 2).b false) ((([[1, 2, 0x800000]] : List (List Nat)).getD k []).getD j (idleSlot (grLaw groupO)) % 2 ^ 32)) =
          [lineItem.map TWord.toW]) ∧
      (Running slaveS ∧ bit slaveS.dev.rst.banks.toNat (2 / 16) = true ∧ slaveS.dev.isolated (.tdm 2) = false ∧ (slaveS.dev.line false 2).valid = true ∧ (slaveS.dev.line false 2).ext false = true ∧ (slaveS.dev.line false 2).lost = false ∧
        (slaveS.dev.line false 2).frameAt false slaveS.dev.org.num 10000000 = (5, 0) ∧ (slaveS.dev.line false 2).first ≤ 5 ∧ kvGet 5 (slaveS.dev.line false 2).rx = none ∧ (slaveS.dev.line false 2).txDone.contains 5 = false) ∧
      (Running madiS ∧ bit madiS.dev.rst.banks.toNat 2 = true ∧ (madiS.dev.line true 2).valid = true ∧
        (madiS.dev.line true 2).frameAt true madiS.dev.org.num 10000000 = (30, 0) ∧ (madiS.dev.line true 2).first ≤ 30 ∧ kvGet 30 (madiS.dev.line true 2).rx = none ∧ (madiS.dev.line true 2).rxOn true = true ∧ 2 ≤ (madiS.dev.line true 2).n true ∧
        madiS.dev.isolated (.madi 2) = false ∧ (madiS.dev.line true 2).ext true = true ∧ (madiS.dev.line true 2).lost = false) ∧
      (masterS.dev.obj S.BSD 2 = some 2 ∧ bit 2 1 = true ∧ masterS.dev.ports.bsdBad.contains 2 = false ∧ masterS.dev.isolated .bsd = false) := by decide +kernel

/-- REF10M_OUT and WCLK_OUT[0] are enabled, and the origin runs. -/
def outsS : State :=
  on (regs masterS [(R.STK_STAT_RUNNING, 1)]) (fun d => d.onTim (fun x => { x with outs := [(1, { rate := 10000000 }), (2, { rate := 44100, ofs := 5 })] }))

theorem test_hyp_LineFrames_pins :
    (let o : OutRt := { rate := 44100, ofs := 5 }
     1 ≤ o.rate ∧ 0 < (o.edges 0 7 false).2 ∧ 0 ≤ o.after 0 7 false (o.edges 0 7 false).1) ∧
      (Running outsS ∧ outsS.dev.rst.kaUp = true ∧ outsS.dev.flag R.STK_STAT_RUNNING = true ∧ (kvGet 1 outsS.dev.tim.outs).isSome = true ∧
        outsS.dev.pinAbsent (.timeOut 1) = false) ∧
      (outsS.dev.pinAbsent (.tdmClk 2) = false ∧ (outsS.dev.line false 2).valid = true ∧ tSlave (outsS.dev.line false 2).desc = false ∧
        (outsS.dev.line false 2).lost = false) ∧
      (on outsS (fun d => d.onRst (fun r => { r with mainUp := false }))).dev.pinsKeep = true ∧
      (on outsS (fun d => d.onRst (fun r => { r with banks := 9 }))).dev.pinAbsent (.conv 3) = true ∧
      (on outsS (fun d => d.onRst (fun r => { r with kaUp := false }))).dev.pinAbsent (.conv 3) = false := by decide +kernel

def freqS : State := on (base []) (fun d => d.onTim (fun x => { x with locked := true, cmds := [.freq 5], c := 124000 }))
def bareS (s : State) : State := on s (fun d => { d with img := {} })

theorem test_hyp_CalibrationRequests :
    (Running freqS ∧ freqS.dev.rst.kaUp = true ∧ freqS.dev.flag R.STK_STAT_RUNNING = false ∧ freqS.dev.cal.win = none ∧ freqS.dev.tim.locked = true ∧ (freqS.dev.at w0).tim.adjTick = true ∧
      freqS.dev.tim.adjC ≠ some (freqS.dev.at w0).tim.c ∧ freqS.dev.tim.cmds = [.freq 5]) ∧
      (let s := regs (base []) [(R.CAL_ARG_MASK, 5)]
       Ready s .host ∧ (s.dev.at w0).busy C.cal = false ∧ s.dev.get R.CAL_ARG_MASK = 5 ∧ (s.dev.at w0).oper .host = true ∧ s.dev.cal.win = none ∧ s.dev.img.active.isSome = true ∧
         s.dev.get R.CAL_IDX_TGT ≤ 5) ∧
      (let s := bareS (regs (base []) [(R.CAL_ARG_MASK, 5)])
       Ready s .host ∧ s.dev.get R.CAL_ARG_MASK = 5 ∧ s.dev.img.active = none ∧ s.dev.cal.runPend = none) ∧
      (let s := on (regs (base []) [(R.CAL_CTL_PERIOD_S, 3)]) (fun d => (d.onCal (fun c => { c with recs := [(2, { valid := true })] })).onRst (fun r => { r with xoUs := 3000000 }))
       Running s ∧ (s.dev.at w0).periodOver 2 = true) := by decide +kernel

def envOk : BoundaryIn := { xres := 12000, hot := 600, bsdExact := 15 }
def runPendS : State := bareS (on (base []) (fun d => d.onCal (fun c => { c with runPend := some 4 })))
/-- A window of targets 0 and 2 with so many strokes done. -/
def winS (done : Nat) : State := bareS (on (base []) (fun d => d.onCal (fun c => { c with win := some { targets := [0, 2], done := done } })))

theorem test_hyp_CalibrationWindow :
    (Running runPendS ∧ runPendS.dev.cal.win = none ∧ runPendS.dev.quietOk = false ∧ runPendS.dev.cal.runPend = some 4) ∧
      (let n := ({ targets := [0, 2] } : CalWin).len
       Running (winS (n - 1)) ∧ (winS (n - 1)).dev.calLast = true ∧ ((winS (n - 1)).dev.at w0).calFails envOk true ≠ 0 ∧
         (winS n).dev.cal.win = some { targets := [0, 2], done := n } ∧ (winS n).dev.cal.abortPend = false) ∧
      (let s := on (regs (winS 0) [(R.STK_STAT_RUNNING, 1)]) (fun d => d.onOrg (fun o => { o with num := 2048 }))
       Running s ∧ s.dev.flag R.STK_STAT_RUNNING = true ∧ s.dev.org.num % 1024 = 0 ∧ s.dev.cal.win.isSome = true) ∧
      (let s := on (regs (base []) [(R.STK_STAT_RUNNING, 1), (R.CAL_TMAX_T, 3000)]) (fun d => d.onCal (fun c => { c with recs := [(2, { valid := true, tRec := 5 })] }))
       s.dev.cal.win = none ∧ bit (s.dev.get R.CAL_STAT_AGED) 2 = false ∧
         (kvD s.dev.cal.recs 2 {}).ages (signedOf 16 (s.dev.get R.CAL_TMAX_T)) (s.dev.get (R.CAL_VOLT_MV 0)) = true) ∧
      (base []).dev.monHeld = false := by decide +kernel

theorem test_hyp_calPasses :
    (winS 2).dev.calLast = true ∧ ((winS 2).dev.at w0).calFails { envOk with xres := 5000 } true = 0 := by decide +kernel

theorem test_hyp_Resets :
    (bit (base []).dev.rst.banks.toNat 2 = true ∧ (base []).dev.evs = [] ∧ (base []).dev.rst.por = false ∧ (base []).dev.rst.pin = false ∧ (regs (base []) [(R.RST_STAT_KA_VALID, 1)]).dev.flag R.RST_STAT_KA_VALID = true) ∧
      (let s := after (base []) (.porAssert ⟨w0, .core, 500, 1000⟩)
       s.dev.rst.por = true ∧ s.dev.rst.pin = false ∧ s.dev.rst.kaUp = false) ∧
      (let s := after (base []) (.rstNAssert w0 true)
       s.dev.rst.pin = true ∧ s.dev.rst.por = false) ∧ (Running (base []) ∧ (base []).dev.rst.vdd = true) := by decide +kernel

theorem test_hyp_ResetCommands :
    (Open (base []) w0 .fw C.rst .fwOnly ∧ (base []).dev.flag R.RST_STAT_SCRUB_BUSY = false ∧ (base []).dev.audFree = true) ∧
      (Open (base []) w0 .host C.rst .oper ∧ (base []).dev.flag R.RST_STAT_RECOVERY = false ∧ (base []).dev.get R.STK_IMG_STAT_SHADOW = 0) ∧
      (Ready (base []) .fw ∧ bits (0xA5C3 : Word).toNat 0 16 = 0xA5C3) ∧
      (let s := regs (base []) [(R.RST_STAT_SCRUB_BUSY, 1), (R.RST_WDOG_CTL_EN, 1)]
       Running s ∧ s.dev.flag R.RST_STAT_SCRUB_BUSY = true ∧ s.dev.qf.resUe = [] ∧ s.dev.qf.resCe = [] ∧ s.dev.flag R.RST_WDOG_CTL_EN = true) ∧
      (let s := on (regs (base []) [(R.RST_WDOG_CTL_EN, 1)]) (fun d => d.onRst (fun r => { r with wdogMs := 10, xoUs := 12000 }))
       let k := ((s.dev.at w0).xoNs - s.dev.rst.wdogAt) / 10 ^ 6
       Running s ∧ s.dev.flag R.RST_WDOG_CTL_EN = true ∧ s.dev.rst.wdogWarned = false ∧ 3 * s.dev.rst.wdogMs ≤ 4 * k ∧ s.dev.rst.wdogMs ≤ k) := by decide +kernel

def brstS : State := after cellS (.cellBrstSet w0 .fw 3)
def isoS : State := after brstS (.isolation w0 (.cell 3) [] 0)
def relS : State := after isoS (.cellBrstRelease w0 .fw 3)

theorem test_hyp_BlockResets :
    (Ready cellS .host ∧ (cellS.dev.at w0).oper .host = true ∧ ∀ b ∈ brstBlks, cellS.dev.isolated b = false) ∧
      (Ready isoS .host ∧ isoS.dev.isolated (.cell 3) = true ∧ isoS.dev.flag R.RST_STAT_RECOVERY = false ∧ isoS.dev.flag (R.CELL_CTL_BRST 3) = true ∧
        Running isoS ∧ isoS.dev.rst.isoDone.contains (.cell 3) = false) ∧
      (Running brstS ∧ brstS.dev.brstBit (.cell 3) = true ∧ brstS.dev.isolated (.cell 3) = false) ∧
      (Running relS ∧ relS.dev.rst.relPend.contains (.cell 3) = true) ∧
      (let s := on cellS (fun d => d.onRst (fun r => { r with unitBad := [.tick] }))
       Running s ∧ s.dev.rst.unitBad.contains .tick = true) ∧
      (let s := regs cellS [(R.CELL_STAT_PWR 3, 3)]
       Running s ∧ s.dev.get (R.CELL_STAT_PWR 3) = 3 ∧ s.dev.rst.kaUp = true) := by decide +kernel

/-! ### The image and the whole block -/

/-- The origin runs at stroke 50; the shadow stands in a state. -/
def shadowS (k : Nat) (stroke : Nat := 0) : State :=
  on (regs (base []) [(R.STK_STAT_RUNNING, 1), (R.STK_IMG_STAT_SHADOW, k), (R.STK_IMG_STROKE_LO_N, stroke)])
    (fun d => { d.onOrg (fun o => { o with num := 50 }) with img := { d.img with shadow := some { id := 7 }, src := 100, len := 384 } })

theorem test_hyp_ImageCommands :
    (Ready (shadowS 0) .host ∧ ((shadowS 0).dev.at w0).oper .host = true ∧ (shadowS 0).dev.busy C.img = false ∧ (shadowS 0).dev.get R.STK_IMG_STAT_SHADOW = 0 ∧
      (shadowS 0).dev.flag R.RST_STAT_RECOVERY = false ∧ (shadowS 0).dev.audFree = true ∧ ∀ n, n < 64 → (shadowS 0).dev.get (R.CELL_STAT_PWR n) ≠ 2) ∧
      (Ready (shadowS 1) .fw ∧ (shadowS 1).dev.get R.STK_IMG_STAT_SHADOW = 1) ∧
      (Ready (shadowS 2 51) .host ∧ (shadowS 2 51).dev.get R.STK_IMG_STAT_SHADOW = 2 ∧ (shadowS 2 51).dev.flag R.STK_STAT_RUNNING = true ∧
        (shadowS 2 51).dev.org.num < (shadowS 2 51).dev.imgStroke ∧ (shadowS 2 50).dev.imgStroke ≤ (shadowS 2 50).dev.org.num) ∧
      (Ready (shadowS 3) .host ∧ (shadowS 3).dev.get R.STK_IMG_STAT_SHADOW = 3) ∧ (Ready (shadowS 4) .host ∧ (shadowS 4).dev.audFree = true) := by decide +kernel

/-- The 384 bytes of an image of no objects, signed by the key of these tests. -/
def imageBytes : Nat :=
  0xe0c9d9f4268e42633f0433302cf1c3dd51c61403c0e05e8f0c2ec7d76756980103aca2622e238bcf47c90039c99f097c3de47922cc0c179a9d95199a5d87ca44e5d6e96d5fae5bc8bd96073e9e93bbcfdea878e544fb3236514f43b951fd928b000000000000000000000010003000040000000000000000000000100010000200000000000000000000000000080000000000000000000000000000000700000000000000000000000000000006000000000000000000000000000000050000000000000000000000000000000400000000000000000000000000000003000000000000000000000000000000020000000000000000000700000080001000010000000000000000000000000000000000000000000000000000000000000000000000000000000000000000000000000000000000000000000000000000000000000000000000000000000000000000000000000000000000000000000000000000000000000000000001800000304100000007000012340003000153494d47
/-- A LOAD of it, or of bytes that differ from it, runs from word 100 of the DDR; with no channel trained its bytes cannot be read. -/
def loadS (diff size : Nat) : State :=
  on (regs (bareS (shadowS 1)) [(R.DDR_STAT_INIT_DONE, size), (R.DDR_CFG_A_EN, 1), (R.DDR_CFG_SIZE_A, 24)]) (fun d =>
    { d.ddrWriteN 100 ((List.range 43).map (fun k => wd (bits (imageBytes + diff) (72 * k) 72))) with
      img := { active := none, src := 100, len := 384 }, sec := { d.sec with heldInst := some (BitVec.ofNat 768 testPub) } })
/-- What the checks of a LOAD answer: nothing where its bytes cannot be read, the code that stops it, or 0. -/
def loadCode (s : State) : Option Nat := match (s.dev.at w0).imgWords s.dev.img.src (ceilDiv s.dev.img.len 9) with
  | (none, _) => none
  | (some ws, d) => match (d.imgCheck ((wordBytes ws).take s.dev.img.len) s.dev.img.len).1 with
    | .error e => some e.code
    | .ok _ => some 0

theorem test_hyp_LoadAndChangeover :
    (Running (loadS 0 1) ∧ (loadS 0 1).dev.get R.STK_IMG_STAT_SHADOW = 1) ∧ loadCode (loadS 0 0) = none ∧ loadCode (loadS 1 1) = some 1 ∧
      (let s := on (shadowS 3) (fun d => { d with img := { d.img with stroke := 51 } })
       Running s ∧ s.dev.coDue (s.dev.org.num + 1) = true ∧ s.dev.img.shadow = some { id := 7 }) := by decide +kernel

theorem test_hyp_loadPasses : loadCode (loadS 0 1) = some 0 := by decide +kernel

theorem test_hyp_StepKeepsInv : (base []).Inv ∧ step (base []) = .next (base []) := ⟨by decide, rfl⟩

theorem test_hyp_OtpChanges : ∃ t, exec (.taskRead w0 .fw) pumpS = .next t := ⟨_, rfl⟩

theorem test_hyp_CommandsRefused :
    ((Instr.enable w0 .host, C.task, Right.oper) ∈ cmdTable w0 .host 0 ∧ (Instr.startOk w0 .host, C.rst, Right.fwOnly) ∈ cmdTable w0 .host 0) ∧
      (let s := regs (base []) [(R.STK_TASK_CMD_BUSY, 1)]
       Ready s .host ∧ (s.dev.at w0).may .host .oper = true ∧ (s.dev.at w0).busy C.task = true) ∧
      (Ready lockedS .host ∧ (lockedS.dev.at w0).may .host .oper = false) ∧
      (let s := on (base []) (fun d => d.onRst (fun r => { r with mainUp := false }))
       s.dev.evs = [] ∧ s.dev.rst.mainUp = false) := by decide +kernel

theorem test_hyp_MemoryStaysCanonical :
    Memory.wf 0 pushedS.dev.qf.res = true ∧ Memory.wf 0 pushedS.dev.cores.sram = true ∧ inRow 0x80000000 0x400000 0x80000010 4 = true := by decide +kernel

/-! ### Single steps, their results worked out by hand -/

/-- A field of the state after a command. -/
def fld (s : State) (i : Instr) (f : Fld) : Nat := (after s i).dev.get f

-- R238's worked example: lanes 14,848, -4,096 and 500 have the block exponent 9.
theorem test_blockExponent_example :
    (after (on cellS (fun d => d.setCell 3 ((d.cell 3).write 7 (wd (packLanes 0x003A00 0xFFF000 0x0001F4))))) (.blockExponent w0 3 7 1 7)).dev.reply.words = [0, 9] := by
  decide +kernel

-- R242's worked example: BITREV with LEN 8 and STEP 1 from OFF 0 goes 0, 4, 2, 6, 1, 5, 3, 7, 0.
theorem test_bitrev_example :
    (List.range 8).foldl (fun (l : List Nat) _ => match ({ off := BitVec.ofNat 15 (l.headD 0), len := 8, step := 1, mode := .bitrev } : Ag).next 8 with
      | some (some x) => x :: l
      | _ => l) [0] = [0, 7, 3, 5, 1, 6, 2, 4, 0] := by decide

-- R44's worked example: P = 40,000 ns; stroke 15,200,000,000,000 begins 40 µs after TAI second 1,900,000,000.
theorem test_strokeErr_example : (strokeErr ((1900000000 * 10 ^ 9 + 40000) * 2 ^ 48) 40000).2 = 15200000000000 := by decide +kernel

-- R230: -2^23 times -2^23 is 2^46.
theorem test_accLoad_product :
    ((after cellS (.accLoad w0 3 1 2 (.prod (opW 0x800000) (opBad 0x800000)) 0)).dev.cell 3).accAt 1 2 = { v := BitVec.ofNat 72 (2 ^ 46), sat := false, poison := true } := by
  decide +kernel

-- R231: 2^71 - 1 plus 9 saturates, sets SAT and the lane's ACC_OVF.
theorem test_accAdd_saturates :
    ((after (accS { v := BitVec.ofNat 72 (2 ^ 71 - 1) }) (.accAddProduct w0 3 1 2 (opW 3) (opW 3) false)).dev.cell 3).accAt 1 2 =
      { v := BitVec.ofNat 72 (2 ^ 71 - 1), sat := true, poison := false } := by decide +kernel
theorem test_accAdd_ovf :
    fld (accS { v := BitVec.ofNat 72 (2 ^ 71 - 1) }) (.accAddProduct w0 3 1 2 (opW 3) (opW 3) false) (R.CELL_ACC_OVF_LANES 3) = 2 := by decide +kernel

-- R234: 3 / 2 and 5 / 2 round half to even, and the value is limited to a lane.
theorem test_reduction_rounds :
    sLane (wData (kvD ((after (accS { v := 5 }) (.reduction w0 3 1 2 1 9 1)).dev.cell 3).lm 9 0)) 1 = 2 := by decide +kernel
theorem test_reduction_limits :
    sLane (wData (kvD ((after (accS { v := BitVec.ofInt 72 (-(2 ^ 40)) }) (.reduction w0 3 1 2 1 9 2)).dev.cell 3).lm 9 0)) 2 = -8388608 := by decide +kernel

-- R239: MAXABS of 5, 6, 7, -1, 8,388,607 and -8,388,608 is the last, index 5.
theorem test_minMax_maxAbs : (after lmS (.minMaxSearch w0 3 .maxAbs 7 2 7 [])).dev.reply.words = [5, 23] := by decide +kernel

-- R244: an access beyond local memory reads zero with POISON.
theorem test_ag_beyond :
    (after (agS { base := 0x7FFF, off := 1, len := 8 }) (.agAccess w0 3 1 none none)).dev.reply.item = [mkW 0 false false false true] := by decide +kernel

-- R96, R99: the slot's header takes the stroke and SEQ 0, and the write pointer moves on.
theorem test_push_slot : wData (kvD pushedS.dev.qf.res 100 0) = 0x10000 + 5 * 2 ^ 56 ∧ (pushedS.dev.q 9).wpA = 1 ∧ (pushedS.dev.q 9).depth = 1 := by decide +kernel
-- R100: an empty queue gives its idle item with REASON.IDLE, which is counted.
theorem test_pop_empty : (after queueS (.pop w0 9 false)).dev.reply.item.map wData = [0x20000 + 8 * 2 ^ 48 + 5 * 2 ^ 56, 7, 8] := by decide +kernel
-- R105: the flush removes the item and fires FLUSH_DONE.
theorem test_flush_event : Raised (after flushS (.flushApply w0 9)) E.FLUSH_DONE ∧ ((after flushS (.flushApply w0 9)).dev.q 9).depth = 0 := by decide +kernel

-- R5: writing 1 to a W1C bit clears it, and 0 leaves the others.
theorem test_write_w1c : fld (regs cellS [(R.CELL_EVT_STAT_AG_FAULT 3, 1), (R.CELL_EVT_STAT_DMA_ERR 3, 1)])
    (.registerWrite w0 .fw (R.CELL_EVT_STAT_AG_FAULT 3).addr (BitVec.ofNat 32 (2 ^ (R.CELL_EVT_STAT_AG_FAULT 3).lo))) (R.CELL_EVT_STAT_AG_FAULT 3) = 0 := by decide +kernel
-- R5: a read of an RC counter shows it and clears it.
theorem test_read_rc : (after (regs (base []) [(R.STK_CNT_COUNT 2, 9)]) (.rcRead w0 .host (R.STK_CNT_COUNT 2).addr)).dev.reply.words = [9] ∧
    fld (regs (base []) [(R.STK_CNT_COUNT 2, 9)]) (.rcRead w0 .host (R.STK_CNT_COUNT 2).addr) (R.STK_CNT_COUNT 2) = 0 := by decide +kernel
-- R616: GLB_ID reads "EVQ8" and GLB_STEP "B1".
theorem test_read_id : (after (base []) (.rcRead w0 .host 0)).dev.reply.words = [0x45565138] ∧ (after (base []) (.rcRead w0 .host 4)).dev.reply.words = [0x4231] := by
  decide +kernel
-- R572: a denied write changes nothing and is counted.
theorem test_write_denied : fld lockedS (.registerWrite w0 .host 0x100060 0x400) (R.SEC_CNT_COUNT 0) = 1 ∧
    fld lockedS (.registerWrite w0 .host 0x100060 0x400) R.STK_RL_HW_HW = lockedS.dev.get R.STK_RL_HW_HW := by decide +kernel
-- R465: a partial access reads zero and is counted.
theorem test_badAccess : fld (base []) (.badAccess w0 false 5) (R.PCIE_CNT_COUNT 0) = 1 := by decide +kernel
-- R615: a core stores bytes to the SRAM; a byte access of the control space faults.
theorem test_core_store : kvD (after (base []) (.coreAccess w0 0 [] 0x80000010 4 [7, 8, 9, 10])).dev.cores.sram 0x11 0 = 8 := by decide +kernel
theorem test_core_fault : (after (base []) (.coreAccess w0 0 [] 0x40000010 1 [])).dev.cores.accessFault = 1 := by decide +kernel

-- R392: 1,000 ticks at a rate of one move the clock by 1,000 ns, and the read gives the ns.
theorem test_time_now : (after timeS (.timeNowRead w0 .fw)).dev.reply.words = [1000] := by decide +kernel
-- R398: the latched seconds follow.
theorem test_time_latch : (after nowS (.rcRead w0 .fw 0x02200044)).dev.reply.words = [5] := by decide +kernel
-- R396, R395: STEP by one second and a half nanosecond applies at the adjustment point.
theorem test_time_step :
    (after (after (targS [10 ^ 9, 0x8000]) (.timeStep w0 .fw)) (.adjustmentPoint ⟨0, 124000⟩ envOk)).dev.tim.t = (6 * 10 ^ 9 + 125000) * 2 ^ 32 + 2 ^ 31 := by decide +kernel
-- R408: a repeating unit moves on by its period.
theorem test_trigger_repeats :
    ((after (on timeS (fun d => d.setTrig 3 { armed := true, sec := 5, period := 300 })) (.triggerFire w0 3)).dev.trig 3).ns = 300 := by decide +kernel

-- R85: READ shows the descriptor's image bits in words 0 and 1.
theorem test_taskRead : fld pumpS (.taskRead w0 .host) (R.STK_TASK_DATA_D 0) % 256 = t5 % 256 := by decide +kernel
-- R43: a boundary counts the stroke.
theorem test_boundary : (after ranS (.strokeBoundary ⟨0, 0⟩ envOk)).dev.org.num = 2 ^ 33 + 8 := by decide +kernel
-- R53: STK_NUM_LO, then the latched high word.
theorem test_numLo : (after ranS (.stkNumLoRead w0 .fw)).dev.reply.words = [7] ∧
    (after (after ranS (.stkNumLoRead w0 .fw)) (.rcRead w0 .fw 0x00100014)).dev.reply.words = [2] := by decide +kernel

-- R466: byte 1 of the padded window's word 100 is byte 1 of reservoir word 100; the packed window places it at 9 · 100 + 1.
theorem test_host_write : wData (kvD (after hostS (.hostDataWrite w0 1601 [0xAB])).dev.qf.res 100 0) = 0xAB00 ∧
    wData (kvD (after hostS (.hostDataWrite w0 (0x10000000 + 901) [0xAB])).dev.qf.res 100 0) = 0xAB00 := by decide +kernel
-- R467: a word outside every host-writable partition is left.
theorem test_host_denied : fld hostS (.hostDataWrite w0 0 [1]) (R.PCIE_CNT_COUNT 1) = 1 := by decide +kernel
-- R473: BYPASS puts one zero bit between TDI and TDO.
theorem test_bypass : (after (base []) (.bypass w0)).jtag.ir = .bypass ∧ (after (base []) (.bypass w0)).jtag.dr = 0 := by decide +kernel
-- R434: a frame with a bad FCS is counted in ETH_CNT[1].
theorem test_eth_fcs : fld ethS (.ethFrameRx w0 1 ⟨frame1, false, false, 5⟩) (R.ETH_CNT_COUNT 1 1) = 1 := by decide +kernel

-- R540, R541: D1 waits for the boundary.
theorem test_pwr_pending : fld (base []) (.pwrD1 w0 .host) R.RST_PWR_PEND = 1 ∧ fld (base []) (.pwrD1 w0 .host) R.RST_PWR_STATE = 0 := by decide +kernel
-- R640: a refused command leaves ERR with its code: CHANGEOVER without a shadow.
theorem test_changeover_refused : fld (base []) (.changeover w0 .fw) R.STK_IMG_CMD_ERR = 1 ∧ (after (base []) (.changeover w0 .fw)).dev.img = (base []).dev.img := by
  decide +kernel
-- R596: FREEZE stores cause 5.
theorem test_freeze : fld (base []) (.freeze w0 .fw) R.SUMP_STAT_CAUSE = 5 := by decide +kernel
-- R608: an injection counts, and reserved numbers are not raised.
theorem test_inject : fld routeS (.evtInject w0 .fw 7) R.EVT_INJ_CNT_COUNT = 1 := by decide +kernel
-- R582: the operator token above opens a session of 60 s.
theorem test_present_session :
    let s := tokenS [5, 0, 0, 0, 0, BitVec.ofNat 512 testZone, 0, 0] operTok 0
    fld s (.present w0 .host) R.SEC_CMD_BUSY = 1 ∧ (after s (.present w0 .host)).dev.sec.sessEnd.isSome = true := by decide +kernel

/-! ### Codes whose check values are public: CRC-32 and CRC-32C of "123456789", SHA-384 of "abc", A-law and μ-law of silence (R443) -/

def digits : List Byte := [0x31, 0x32, 0x33, 0x34, 0x35, 0x36, 0x37, 0x38, 0x39]
theorem test_crc32 : crc32 digits = 0xCBF43926 := by decide +kernel
theorem test_crc32c : crc32c 0xFFFFFFFF digits = 0xE3069283 := by decide +kernel
theorem test_sha384 : sha384 [0x61, 0x62, 0x63] =
    0xCB00753F45A35E8BB5A03D699AC65007272C32AB0EDED1631A8B605A43FF5BED8086072BA1E7CC2358BAECA134C825A7 := by decide +kernel
theorem test_alaw : alawEnc 0 = 0xD5 ∧ ulawEnc 0 = 0xFF ∧ ulawDec 0xFF = 0 ∧ alawDec 0xD5 = 8 := by decide

end Sys2Proof.Tests
end

section
/-! SUPPORT. The stroke origin (R43 to R53): what a stroke boundary carries through the work of every block, the beat, is left alone by each function of the boundary, so that
the number, the cycle, the latch, the reset state and the events of the origin are known after it. -/

namespace Sys2Proof.Machine

/-- What a stroke boundary carries through the work of its blocks: the stroke's number and cycle, the reset state, the stroke that the backup domain
latched, TICK_DIV, RUNNING, and whether the step has raised ORIGIN_START. -/
structure Beat where
  num : Nat
  cc : Nat
  rst : Rst
  latch : Word
  tickDiv : Nat
  running : Nat
  begun : Bool

/-- The beat of the device. -/
def Dev.beat (d : Dev) : Beat :=
  { num := d.org.num, cc := d.org.cc, rst := d.rst, latch := d.sump.latchStroke, tickDiv := d.get R.STK_CTL_TICK_DIV, running := d.get R.STK_STAT_RUNNING,
    begun := d.evs.any (fun e => e.num == E.ORIGIN_START && !e.silent) }

/-- A write of the field leaves TICK_DIV and RUNNING alone. -/
abbrev Fld.OffBeat (f : Fld) : Prop := f.key ≠ R.STK_CTL_TICK_DIV.key ∧ f.key ≠ R.STK_STAT_RUNNING.key

/-- Every register past STK_STAT is off the beat. -/
theorem Fld.offBeat_of_addr {f : Fld} (h : 0x00100004 < f.addr) : f.OffBeat := by
  simp only [Fld.OffBeat, Fld.key, R.STK_CTL_TICK_DIV, R.STK_STAT_RUNNING]; omega

@[simp] theorem Dev.beat_mk (d : Dev) (once : List Nat) (msix : Msix) (cores : Cores) (sec : Sec) (cal : Cal) (tim : Tim) (img : Img) (pump : Pump)
    (qf : Qf) (ports : Ports) (ddr : Ddr) (pcie : Pcie) (i2c : I2c) (pkt : Pkt) (cis : Kv CisRt) (cnv : Cnv) (kern : Kern) (tone : Tone) (cmp : Cmp)
    (reply : Reply) (free : Nat) :
    ({ d with
        once := once, msix := msix, cores := cores, sec := sec, cal := cal, tim := tim, img := img, pump := pump, qf := qf, ports := ports, ddr := ddr
        pcie := pcie, i2c := i2c, pkt := pkt, cis := cis, cnv := cnv, kern := kern, tone := tone, cmp := cmp, reply := reply, free := free } : Dev).beat =
      d.beat := rfl

@[simp] theorem Dev.beat_set (d : Dev) {f : Fld} (v : Nat) (h : f.OffBeat) : (d.set f v).beat = d.beat := by
  simp only [Dev.beat, Dev.get_set_ne d v h.1.symm, Dev.get_set_ne d v h.2.symm, Dev.set_org, Dev.set_rst, Dev.set_sump, Dev.set_evs]

@[simp] theorem Dev.beat_ev (d : Dev) {n : Nat} (a b c : Nat) (h : n ≠ E.ORIGIN_START) : (d.ev n a b c).beat = d.beat := by
  simp [Dev.beat, Dev.evs_ev, h]

@[simp] theorem Dev.beat_markRc (d : Dev) (f : Fld) (x n : Nat) : (d.markRc f x n).beat = d.beat := by
  simp only [Dev.beat, Dev.get_markRc]; rfl

@[simp] theorem Dev.beat_markHw (d : Dev) (f : Fld) (m : Nat) : (d.markHw f m).beat = d.beat := by
  simp only [Dev.beat, Dev.get_markHw]; rfl

@[simp] theorem Dev.beat_count (d : Dev) {f : Fld} (n : Nat) (h : f.OffBeat) : (d.count f n).beat = d.beat :=
  (Dev.beat_markRc ..).trans (Dev.beat_set d _ h)

@[simp] theorem Dev.beat_orFld (d : Dev) {f : Fld} (m : Nat) (h : f.OffBeat) : (d.orFld f m).beat = d.beat :=
  (Dev.beat_markHw ..).trans (Dev.beat_set d _ h)

@[simp] theorem Dev.beat_evOnce (d : Dev) {n : Nat} (k a b : Nat) (h : n ≠ E.ORIGIN_START) : (d.evOnce n k a b).beat = d.beat := by
  unfold Dev.evOnce
  split
  · rfl
  · exact Dev.beat_ev d a b 0 h

@[simp] theorem Dev.beat_takeFree (d : Dev) (w : Nat) : (d.takeFree w).2.beat = d.beat := rfl

theorem Dev.beat_each {α : Type} {f : Dev → α → Dev} (h : ∀ d a, (f d a).beat = d.beat) (l : List α) (d : Dev) : (d.each l f).beat = d.beat :=
  Dev.each_keeps Dev.beat f h l d

@[simp] theorem Dev.beat_setQ (d : Dev) (q : Nat) (r : QRt) : (d.setQ q r).beat = d.beat := rfl

/-- A fold of steps, each of which keeps a value, keeps it. -/
theorem foldl_keeps {σ α β : Type} (p : σ → β) (g : σ → α → σ) (h : ∀ x a, p (g x a) = p x) (l : List α) (x : σ) : p (l.foldl g x) = p x := by
  induction l generalizing x with
  | nil => rfl
  | cons a r ih => exact (ih (g x a)).trans (h x a)

/-! ### The reservoir and the queues -/

@[simp] theorem Dev.beat_resRead (d : Dev) (a : Nat) : (d.resRead a).2.beat = d.beat := by
  unfold Dev.resRead; dsimp only
  split
  · simp (disch := decide)
  · split
    · simp (disch := decide)
    · rfl

@[simp] theorem Dev.beat_resReadN (d : Dev) (a n : Nat) : (d.resReadN a n).2.beat = d.beat := by
  induction n generalizing d a with
  | zero => rfl
  | succ n ih => simp [Dev.resReadN, ih]

@[simp] theorem Dev.beat_resWrite (d : Dev) (a : Nat) (w : MWord) : (d.resWrite a w).beat = d.beat := rfl

@[simp] theorem Dev.beat_resWriteN (d : Dev) (a : Nat) (l : List MWord) : (d.resWriteN a l).beat = d.beat := by
  induction l generalizing d a with
  | nil => rfl
  | cons w r ih => simp [Dev.resWriteN, ih]

@[simp] theorem Dev.beat_resSeen (d : Dev) (a n : Nat) : (d.resSeen a n).beat = d.beat := by
  simp [Dev.resSeen]

@[simp] theorem Dev.beat_qCheck (d : Dev) (q n : Nat) : (d.qCheck q n).beat = d.beat := by
  unfold Dev.qCheck; dsimp only
  split
  · rfl
  · simp (disch := decide)

@[simp] theorem Dev.beat_qStore (d : Dev) (q : Nat) (it : List MWord) : (d.qStore q it).beat = d.beat := by
  simp [Dev.qStore]

@[simp] theorem Dev.beat_qDropped (d : Dev) (q : Nat) : (d.qDropped q).beat = d.beat := by
  unfold Dev.qDropped; dsimp only
  split <;> simp (disch := decide)

theorem Dev.beat_qAcceptOne (d : Dev) (q : Nat) (it : List MWord) (b : Bool) {g : Dev → Dev} (hg : ∀ d, (g d).beat = d.beat) :
    (d.qAcceptOne q it b g).beat = d.beat := by
  simp (disch := decide) [Dev.qAcceptOne, ↓apply_ite Dev.beat, hg]

@[simp] theorem Dev.beat_qAccept (d : Dev) (q : Nat) (it : List MWord) : (d.qAccept q it).beat = d.beat := by
  refine Dev.beat_qAcceptOne _ _ _ _ (fun d => ?_)
  refine (Dev.beat_qAcceptOne _ _ _ _ (fun _ => rfl)).trans ?_
  simp (disch := decide) [↓apply_ite Dev.beat]

@[simp] theorem Dev.beat_qMalformed (d : Dev) (q n : Nat) (a b c : Bool) : (d.qMalformed q n a b c).beat = d.beat := by
  simp (disch := decide) [Dev.qMalformed]

@[simp] theorem Dev.beat_qClose (d : Dev) (q : Nat) (ws : List MWord) : (d.qClose q ws).beat = d.beat := by
  simp [Dev.qClose]

@[simp] theorem Dev.beat_qWord (d : Dev) (q : Nat) (w : MWord) : (d.qWord q w).beat = d.beat := by
  unfold Dev.qWord; dsimp only
  split
  · simp (disch := decide) [↓apply_ite Dev.beat]
  · split <;> simp (disch := decide) [↓apply_ite Dev.beat]

@[simp] theorem Dev.beat_qRemovedWord (d : Dev) (q : Nat) (w : MWord) : (d.qRemovedWord q w).beat = d.beat := by
  simp [Dev.qRemovedWord, ↓apply_ite Dev.beat]

@[simp] theorem Dev.beat_qPush (d : Dev) (q : Nat) (ws : List MWord) : (d.qPush q ws).beat = d.beat := by
  have hw : (d.each ws (fun d w => d.qWord q w)).beat = d.beat := Dev.beat_each (fun d w => Dev.beat_qWord d q w) ws d
  have hr : (d.each ws (fun d w => d.qRemovedWord q w)).beat = d.beat := Dev.beat_each (fun d w => Dev.beat_qRemovedWord d q w) ws d
  unfold Dev.qPush
  split
  · exact hr
  · simp [↓apply_ite Dev.beat, hw]

@[simp] theorem Dev.beat_qIdleItem (d : Dev) (q : Nat) : (d.qIdleItem q).2.beat = d.beat := by
  simp [Dev.qIdleItem]

@[simp] theorem Dev.beat_qFallbackItem (d : Dev) (q : Nat) : (d.qFallbackItem q).2.beat = d.beat := by
  unfold Dev.qFallbackItem; dsimp only
  split
  · split <;> simp
  · simp

@[simp] theorem Dev.beat_qFront (d : Dev) (q : Nat) : (d.qFront q).2.beat = d.beat := by
  simp [Dev.qFront]

@[simp] theorem Dev.beat_qPop (d : Dev) (q : Nat) (framer : Bool) : (d.qPop q framer).2.beat = d.beat := by
  unfold Dev.qPop; dsimp only
  repeat' split
  all_goals simp (disch := decide)

@[simp] theorem Dev.beat_qFlushNow (d : Dev) (q : Nat) (b : Bool) : (d.qFlushNow q b).beat = d.beat := by
  simp (disch := decide) [Dev.qFlushNow, ↓apply_ite Dev.beat]

@[simp] theorem Dev.beat_qMove (d : Dev) (o : Nat) (moves : List (Nat × Nat)) : (d.qMove o moves).beat = d.beat := by
  unfold Dev.qMove; dsimp only
  refine (Dev.beat_each (fun d x => Dev.beat_resWriteN ..) _ _).trans ?_
  exact foldl_keeps (fun x : List (Nat × List MWord) × Dev => x.2.beat) _ (fun x m => by simp) _ _

@[simp] theorem Dev.beat_qResizeNow (d : Dev) (q n : Nat) : (d.qResizeNow q n).beat = d.beat := by
  simp (disch := decide) [Dev.qResizeNow]

@[simp] theorem Dev.beat_qBoundary (d : Dev) (q : Nat) : (d.qBoundary q).beat = d.beat := by
  unfold Dev.qBoundary; dsimp only
  split <;> simp [↓apply_ite Dev.beat]

/-! ### The DDR and fixed-buffer jobs -/

@[simp] theorem Dev.beat_ddrAddrErr (d : Dev) : d.ddrAddrErr.beat = d.beat := by
  simp (disch := decide) [Dev.ddrAddrErr]

@[simp] theorem Dev.beat_ddrCnt (d : Dev) (k n : Nat) : (d.count (R.DDR_CNT_COUNT k) n).beat = d.beat :=
  Dev.beat_count d n (Fld.offBeat_of_addr (by simp only [R.DDR_CNT_COUNT]; omega))

@[simp] theorem Dev.beat_ddrCe (d : Dev) (w : Nat) : (d.ddrCe w).beat = d.beat := by
  simp (disch := decide) [Dev.ddrCe]

@[simp] theorem Dev.beat_ddrUe (d : Dev) (w : Nat) : (d.ddrUe w).beat = d.beat := by
  simp (disch := decide) [Dev.ddrUe]

@[simp] theorem Dev.beat_ddrRead (d : Dev) (w : Nat) : (d.ddrRead w).2.beat = d.beat := by
  unfold Dev.ddrRead; dsimp only
  repeat' split
  all_goals simp

@[simp] theorem Dev.beat_ddrReadN (d : Dev) (w n : Nat) : (d.ddrReadN w n).2.beat = d.beat := by
  induction n generalizing d w with
  | zero => rfl
  | succ n ih => simp [Dev.ddrReadN, ih]

@[simp] theorem Dev.beat_ddrWrite (d : Dev) (w : Nat) (x : MWord) : (d.ddrWrite w x).beat = d.beat := by
  simp [Dev.ddrWrite, ↓apply_ite Dev.beat]

@[simp] theorem Dev.beat_upsetDdr (d : Dev) (u : Upsets) : (d.upsetDdr u).beat = d.beat := rfl

/-! ### The pump -/

@[simp] theorem Dev.beat_setTask (d : Dev) (t : Nat) (r : TaskRt) : (d.setTask t r).beat = d.beat := rfl
@[simp] theorem Dev.beat_setCell (d : Dev) (n : Nat) (c : CellRt) : (d.setCell n c).beat = d.beat := rfl
@[simp] theorem Dev.beat_seeSuccs (d : Dev) (o : Nat) : (d.seeSuccs o).beat = d.beat := rfl

@[simp] theorem Dev.beat_succs (d : Dev) (o : Nat) : (d.succs o).2.beat = d.beat := by
  simp [Dev.succs]

@[simp] theorem Dev.beat_retireMark (d : Dev) (t o : Nat) (k : Retire) : (d.retireMark t o k).beat = d.beat := by
  unfold Dev.retireMark; dsimp only
  cases k with
  | overrun => dsimp only; split <;> simp (disch := decide)
  | _ => simp (disch := decide) [↓Dev.beat_mk]

@[simp] theorem Dev.beat_retire (d : Dev) (t o : Nat) (k : Retire) : (d.retire t o k).1.beat = d.beat := by
  unfold Dev.retire; dsimp only
  split <;> simp

@[simp] theorem Dev.beat_bpEnter (d : Dev) (n : Nat) : (d.bpEnter n).beat = d.beat := by
  simp (disch := decide) [Dev.bpEnter, ↓apply_ite Dev.beat]

@[simp] theorem Dev.beat_listTask (d : Dev) (t s : Nat) (clear later : Bool) : (d.listTask t s clear later).1.beat = d.beat := by
  unfold Dev.listTask; dsimp only
  repeat' split
  all_goals simp

@[simp] theorem Dev.beat_releaseTask (d : Dev) (t s : Nat) (held : Bool) : (d.releaseTask t s held).1.beat = d.beat := by
  unfold Dev.releaseTask; dsimp only
  repeat' split
  all_goals simp (disch := decide)

@[simp] theorem Dev.beat_decTask (d : Dev) (t : Nat) : (d.decTask t).1.beat = d.beat := by
  unfold Dev.decTask; dsimp only
  repeat' split
  all_goals simp

@[simp] theorem Dev.beat_bpTask (d : Dev) (n : Nat) : (d.bpTask n).1.beat = d.beat := by
  unfold Dev.bpTask; dsimp only
  repeat' split
  all_goals simp

@[simp] theorem Dev.beat_pumpRun (n : Nat) (d : Dev) (l : List PumpAct) : (Dev.pumpRun n d l).beat = d.beat := by
  induction n generalizing d l with
  | zero => rfl
  | succ n ih =>
    cases l with
    | nil => rfl
    | cons a r => cases a <;> simp [Dev.pumpRun, ih]

@[simp] theorem Dev.beat_pump' (x : Dev × List PumpAct) : (Dev.pump' x).beat = x.1.beat := Dev.beat_pumpRun ..

@[simp] theorem Dev.beat_reload (d : Dev) (t o : Nat) : (d.reload t o).1.beat = d.beat := by
  unfold Dev.reload; dsimp only
  split
  · simp (disch := decide) [↓apply_ite Dev.beat]
  · rfl

@[simp] theorem Dev.beat_pumpBoundary (d : Dev) : d.pumpBoundary.beat = d.beat := by
  unfold Dev.pumpBoundary; dsimp only
  rw [Dev.beat_pump', foldl_keeps (fun x : Dev × List PumpAct => x.1.beat) _ (fun x y => by simp),
    Dev.beat_each (fun d i => Dev.beat_seeSuccs ..), Dev.beat_each (fun d n => Dev.beat_setCell ..)]
  rfl

@[simp] theorem Dev.beat_spendRun (d : Dev) (k : Nat) : (d.spendRun k).beat = d.beat := rfl

@[simp] theorem Dev.beat_runStrokeEnds (d : Dev) : d.runStrokeEnds.beat = d.beat := by
  unfold Dev.runStrokeEnds
  refine (Dev.beat_mk ..).trans (Dev.beat_each (fun d n => ?_) _ _)
  split <;> simp

/-! ### The cisterns -/

@[simp] theorem Dev.beat_setCis (d : Dev) (n : Nat) (c : CisRt) : (d.setCis n c).beat = d.beat := rfl

@[simp] theorem Dev.beat_cisLoss (d : Dev) (n s : Nat) (conceal : Bool) : (d.cisLoss n s conceal).beat = d.beat := by
  simp (disch := decide) [Dev.cisLoss, ↓apply_ite Dev.beat]

@[simp] theorem Dev.beat_cisFrameOne (d : Dev) (n o s : Nat) : (d.cisFrameOne n o s).1.beat = d.beat := by
  unfold Dev.cisFrameOne; dsimp only
  repeat' split
  all_goals simp

@[simp] theorem Dev.beat_cisFrames (n o s k : Nat) (d : Dev) : (Dev.cisFrames n o s k d).beat = d.beat := by
  induction k generalizing d with
  | zero => rfl
  | succ k ih =>
    have h := Dev.beat_cisFrameOne d n o s
    unfold Dev.cisFrames
    split <;> rename_i d' heq <;> rw [heq] at h
    · exact (ih d').trans h
    · exact h

@[simp] theorem Dev.beat_cisSample (d : Dev) (n o i : Nat) (p : CisPkt) : (d.cisSample n o i p).2.beat = d.beat := by
  simp [Dev.cisSample]

@[simp] theorem Dev.beat_cisSamples (n o s : Nat) (all : Bool) (k : Nat) (d : Dev) (ws : List MWord) (hd : Option (Nat × Nat)) (cnt : Nat)
    (real conc : Bool) : (Dev.cisSamples n o s all k d ws hd cnt real conc).1.beat = d.beat := by
  induction k generalizing d ws hd cnt real conc with
  | zero => rfl
  | succ k ih =>
    unfold Dev.cisSamples; dsimp only
    repeat' split
    all_goals simp [ih]

@[simp] theorem Dev.beat_cisSamplePass (d : Dev) (n o s : Nat) : (d.cisSamplePass n o s).beat = d.beat := by
  unfold Dev.cisSamplePass; dsimp only
  repeat' split
  all_goals simp

@[simp] theorem Dev.beat_cisStartPlay (d : Dev) (n o s : Nat) : (d.cisStartPlay n o s).beat = d.beat := by
  unfold Dev.cisStartPlay; dsimp only
  repeat' split
  all_goals simp (disch := decide)

@[simp] theorem Dev.beat_cisPublish (d : Dev) (n : Nat) : (d.cisPublish n).beat = d.beat := rfl

@[simp] theorem Dev.beat_cisRelease (d : Dev) (n o : Nat) : (d.cisRelease n o).beat = d.beat := by
  simp [Dev.cisRelease, ↓apply_ite Dev.beat]

@[simp] theorem Dev.beat_cisEmpty (d : Dev) (n : Nat) (st : BitVec 2) : (d.cisEmpty n st).beat = d.beat := rfl

@[simp] theorem Dev.beat_cisFlushNow (d : Dev) (n : Nat) (st : BitVec 2) : (d.cisFlushNow n st).beat = d.beat := by
  simp (disch := decide) [Dev.cisFlushNow]

@[simp] theorem Dev.beat_cisResizeNow (d : Dev) (n o slots : Nat) : (d.cisResizeNow n o slots).beat = d.beat := by
  unfold Dev.cisResizeNow; dsimp only
  rw [Dev.beat_ev _ _ _ _ (by decide), Dev.beat_setCis, Dev.beat_each (fun d x => Dev.beat_resWriteN ..)]
  exact foldl_keeps (fun x : List (CisPkt × List MWord) × Dev => x.2.beat) _ (fun x m => by simp) _ _

@[simp] theorem Dev.beat_cisSkip (n o s k : Nat) (d : Dev) : (Dev.cisSkip n o s k d).beat = d.beat := by
  induction k generalizing d with
  | zero => rfl
  | succ k ih =>
    unfold Dev.cisSkip; dsimp only
    split
    · rfl
    · simp [↓apply_ite Dev.beat, ih]

@[simp] theorem Dev.beat_cisDelayNow (d : Dev) (n o delay : Nat) : (d.cisDelayNow n o delay).beat = d.beat := by
  simp [Dev.cisDelayNow, ↓apply_ite Dev.beat]

@[simp] theorem Dev.beat_cisApplyFlush (d : Dev) (n : Nat) : (d.cisApplyFlush n).beat = d.beat := by
  simp [Dev.cisApplyFlush, ↓apply_ite Dev.beat]

@[simp] theorem Dev.beat_cisApplyRest (d : Dev) (n o : Nat) : (d.cisApplyRest n o).beat = d.beat := by
  unfold Dev.cisApplyRest; dsimp only
  repeat' split
  all_goals simp

@[simp] theorem Dev.beat_cisBoundary (d : Dev) : d.cisBoundary.beat = d.beat := by
  unfold Dev.cisBoundary
  split
  · rfl
  · exact Dev.beat_each (fun d x => by simp) _ _

/-! ### The conversion engine -/

@[simp] theorem Dev.beat_setChain (d : Dev) (n : Nat) (c : ChainRt) : (d.setChain n c).beat = d.beat := rfl
@[simp] theorem Dev.beat_setFset (d : Dev) (n : Nat) (c : SetRt) : (d.setFset n c).beat = d.beat := rfl
@[simp] theorem Dev.beat_setLane (d : Dev) (n : Nat) (c : LaneRt) : (d.setLane n c).beat = d.beat := rfl

@[simp] theorem Dev.beat_cnvCnt (d : Dev) (k n : Nat) : (d.cnvCnt k n).beat = d.beat :=
  Dev.beat_count d n (Fld.offBeat_of_addr (by simp only [R.CNV_CNT_COUNT]; omega))

@[simp] theorem Dev.beat_cnvLast (d : Dev) (kind idx : Nat) : (d.cnvLast kind idx).beat = d.beat := by
  simp (disch := decide) [Dev.cnvLast]

@[simp] theorem Dev.beat_cnvClip (d : Dev) (kind idx n : Nat) : (d.cnvClip kind idx n).beat = d.beat := by
  simp (disch := decide) [Dev.cnvClip, ↓apply_ite Dev.beat]

@[simp] theorem Dev.beat_chainLoad (d : Dev) (c o : Nat) : (d.chainLoad c o).2.beat = d.beat := by
  unfold Dev.chainLoad; dsimp only
  split <;> simp

@[simp] theorem Dev.beat_chainStore (d : Dev) (o : Nat) (l : List ChMem) : (d.chainStore o l).beat = d.beat := by
  simp [Dev.chainStore, ↓apply_ite Dev.beat]

@[simp] theorem Dev.beat_chainStart (d : Dev) (c o : Nat) : (d.chainStart c o).beat = d.beat := by
  simp [Dev.chainStart]

@[simp] theorem Dev.beat_coefErr (d : Dev) (i n : Nat) : (d.coefErr i n).beat = d.beat := by
  simp (disch := decide) [Dev.coefErr, ↓apply_ite Dev.beat]

@[simp] theorem Dev.beat_setRun (d : Dev) (n : Nat) : (d.setRun n).1.beat = d.beat := by
  unfold Dev.setRun; dsimp only
  rw [Dev.beat_setFset]
  exact foldl_keeps (fun x : Dev × List SetAt => x.1.beat) _ (fun x k => by simp (disch := decide) [↓apply_ite Dev.beat]) _ _

@[simp] theorem Dev.beat_chainsWatch (d : Dev) : d.chainsWatch.beat = d.beat :=
  Dev.beat_each (fun d x => by simp [↓apply_ite Dev.beat]) _ _

@[simp] theorem Dev.beat_chainIn (d : Dev) (c o n : Nat) : (d.chainIn c o n).1.beat = d.beat := by
  unfold Dev.chainIn; dsimp only
  exact foldl_keeps (fun x : Dev × List (List MWord) => x.1.beat) _ (fun x k => by simp (disch := decide) [↓apply_ite Dev.beat]) _ _

@[simp] theorem Dev.beat_chainRun (d : Dev) (c o : Nat) (syncs : List Nat) (f1 f2 : Option FirCfg) (f : Nat → Nat → Smp) :
    (d.chainRun c o syncs f1 f2 f).1.beat = d.beat := by
  simp [Dev.chainRun]

@[simp] theorem Dev.beat_setErr (d : Dev) (n : Nat) (sched : Nat → List SetAt) : (d.setErr n sched).beat = d.beat :=
  Dev.beat_each (fun _ _ => Dev.beat_coefErr ..) _ _

@[simp] theorem Dev.beat_chainPass (d : Dev) (inp : CnvIn) (sched : Nat → List SetAt) (skip : Bool) (c o : Nat) :
    (d.chainPass inp sched skip c o).beat = d.beat := by
  unfold Dev.chainPass
  extract_lets n ok resumes r d₁ d₂ l
  have h₂ : d₂.beat = d.beat := by simp (disch := decide) [d₂, d₁, ↓apply_ite Dev.beat]
  split
  rename_i d₃ f heq
  have h₃ : (if hSrc o = 0 then d₂.chainIn c o n else (d₂, fun k _ => l.getD k { v := 0 })).1.beat = d₂.beat := by split <;> simp
  rw [heq] at h₃
  extract_lets f'
  split
  rename_i f1 f2 _
  extract_lets d₄ d₅ syncs d₆
  have h₆ : d₆.beat = d₃.beat := by simp (disch := decide) [d₆, d₅, d₄, ↓apply_ite Dev.beat]
  have h₇ := Dev.beat_chainRun d₆ c o syncs f1 f2 f'
  split
  rename_i d₇ out clips heq
  rw [heq] at h₇
  have h : d₇.beat = d.beat := h₇.trans (h₆.trans (h₃.trans h₂))
  split
  · exact h
  · exact (Dev.beat_each (fun _ _ => Dev.beat_qPush ..) _ _).trans ((Dev.beat_cnvClip ..).trans h)

@[simp] theorem Dev.beat_histWrite (d : Dev) (n o t : Nat) (s : Smp) : (d.histWrite n o t s).beat = d.beat := by
  unfold Dev.histWrite
  extract_lets l newer d'
  exact (Dev.beat_resWrite ..).trans (Dev.beat_setLane ..)

@[simp] theorem Dev.beat_laneWrite (d : Dev) (it : List MWord) (top : Nat) (zero : Bool) (n o : Nat) :
    (d.laneWrite it top zero n o).beat = d.beat := by
  unfold Dev.laneWrite; dsimp only
  split
  · split
    · rfl
    · exact Dev.beat_each (fun d k => Dev.beat_histWrite ..) _ _
  · split
    · rfl
    · exact Dev.beat_each (fun d k => Dev.beat_histWrite ..) _ _

@[simp] theorem Dev.beat_lanePop (d : Dev) (q : Nat) : (d.lanePop q).beat = d.beat := by
  unfold Dev.lanePop; dsimp only
  split
  · rfl
  · exact (Dev.beat_each (fun d x => by simp [↓apply_ite Dev.beat]) _ _).trans (by simp)

@[simp] theorem Dev.beat_laneJump (d : Dev) (n o : Nat) : (d.laneJump n o).beat = d.beat := by
  simp (disch := decide) [Dev.laneJump, ↓apply_ite Dev.beat]

@[simp] theorem Dev.beat_groupSlew (d : Dev) (q : Nat) : (d.groupSlew q).beat = d.beat :=
  Dev.beat_each (fun d x => by simp [↓apply_ite Dev.beat]) _ _

@[simp] theorem Dev.beat_laneGroupZero (d : Dev) (q : Nat) : (d.laneGroupZero q).beat = d.beat := by
  unfold Dev.laneGroupZero
  rw [Dev.beat_groupSlew, Dev.beat_each (fun d x => Dev.beat_laneJump ..), Dev.beat_each (fun d x => Dev.beat_lanePop ..)]

@[simp] theorem Dev.beat_setRuns (d : Dev) (sets : List Nat) : (d.setRuns sets).1.beat = d.beat :=
  foldl_keeps (fun x : Dev × Kv (List SetAt) => x.1.beat) _ (fun x n => by simp) _ _

@[simp] theorem Dev.beat_actsMet (d : Dev) (t : Nat → Bool) : (d.actsMet t).beat = d.beat := rfl

/-- What is done in the stroke that has just ended leaves the beat as it was: its number comes back. -/
theorem Dev.beat_backOne (d : Dev) {f : Dev → Dev} (h : ∀ d, (f d).beat = d.beat) : (d.backOne f).beat = d.beat := by
  have h : (f { d with org := { d.org with num := d.org.num - 1 } }).beat = { d.beat with num := d.org.num - 1 } := h _
  exact congrArg (fun b : Beat => { b with num := d.org.num }) h

@[simp] theorem Dev.beat_cnvAdvance (d : Dev) : d.cnvAdvance.beat = d.beat := by
  unfold Dev.cnvAdvance
  split
  · rfl
  · refine Dev.beat_backOne d (fun d => ?_)
    have he : ∀ (sched : Nat → List SetAt) (l : List (Bool × Nat)) (d : Dev), (d.each l (fun d x =>
        if x.1 then d.laneGroupZero x.2 else d.chainPass { bsd := [] } sched true x.2 (d.objD S.CHAINS x.2))).beat = d.beat :=
      fun sched l d => Dev.beat_each (fun d x => by simp [↓apply_ite Dev.beat]) l d
    dsimp only
    simp [↓apply_ite Dev.beat, he]

@[simp] theorem Dev.beat_laneClear (d : Dev) (n o : Nat) : (d.laneClear n o).beat = d.beat :=
  (Dev.beat_setLane ..).trans (Dev.beat_each (fun _ _ => Dev.beat_resWrite ..) _ _)

@[simp] theorem Dev.beat_laneBoundary (d : Dev) (n o : Nat) : (d.laneBoundary n o).beat = d.beat := by
  unfold Dev.laneBoundary; dsimp only
  rw [Dev.beat_setLane]
  split <;> simp

@[simp] theorem Dev.beat_cnvBoundary (d : Dev) : d.cnvBoundary.beat = d.beat := by
  unfold Dev.cnvBoundary; dsimp only
  split
  · rfl
  · refine (Dev.beat_each (fun d n => ?_) _ _).trans ((Dev.beat_each (fun d n => ?_) _ _).trans
      ((Dev.beat_each (fun d x => Dev.beat_laneBoundary ..) _ _).trans rfl))
    · split <;> simp
    · split <;> simp

/-! ### The tone bank -/

@[simp] theorem Dev.beat_setDet (d : Dev) (n : Nat) (r : DetRt) : (d.setDet n r).beat = d.beat := rfl
@[simp] theorem Dev.beat_setGen (d : Dev) (n : Nat) (r : GenRt) : (d.setGen n r).beat = d.beat := rfl
@[simp] theorem Dev.beat_frees (d : Dev) (n w : Nat) : (d.frees n w).2.beat = d.beat := rfl

@[simp] theorem Dev.beat_toneCnt (d : Dev) (k n : Nat) : (d.toneCnt k n).beat = d.beat :=
  Dev.beat_count d n (Fld.offBeat_of_addr (by simp only [R.TONE_CNT_COUNT]; omega))

@[simp] theorem Dev.beat_toneLast (d : Dev) (n : Nat) (gen : Bool) : (d.toneLast n gen).beat = d.beat := by
  simp (disch := decide) [Dev.toneLast]

@[simp] theorem Dev.beat_progSeen (d : Dev) (p : Nat) : (d.progSeen p).beat = d.beat := by
  unfold Dev.progSeen
  split <;> simp

@[simp] theorem Dev.beat_genBegin (d : Dev) (n spp p : Nat) : (d.genBegin n spp p).beat = d.beat := by
  simp [Dev.genBegin]

@[simp] theorem Dev.beat_playSample (d : Dev) (p : PlayRt) (spp : Nat) : (d.playSample p spp).1.beat = d.beat := by
  unfold Dev.playSample
  extract_lets next
  split <;> rfl

@[simp] theorem Dev.beat_genSample (d : Dev) (n spp k : Nat) : (d.genSample n spp k).1.beat = d.beat := by
  unfold Dev.genSample
  extract_lets g ended d₁ due r d₂ d₃ g'
  have h₂ : d₂.beat = d.beat := by simp (disch := decide) [d₂, d₁, ↓apply_ite Dev.beat]
  have h₃ : d₃.beat = d₂.beat := by unfold d₃; split <;> simp
  refine (Dev.beat_setGen ..).trans (Eq.trans ?_ (h₃.trans h₂))
  exact foldl_keeps (α := PlayRt) (fun x : Dev × List PlayRt × Option Int => x.1.beat) _ (fun x p => by simp) _ _

@[simp] theorem Dev.beat_genStroke (d : Dev) (n o : Nat) : (d.genStroke n o).1.beat = d.beat :=
  foldl_keeps (fun x : Dev × List (Option Int) => x.1.beat) _ (fun _ _ => Dev.beat_genSample ..) _ _

@[simp] theorem Dev.beat_genItem (d : Dev) (spp m : Nat) (base : List MWord) (slots : List (Nat × Nat × List (Option Int))) :
    (d.genItem spp m base slots).1.beat = d.beat := by
  unfold Dev.genItem
  extract_lets h place x
  have hplace : ∀ (d : Dev) (mem fr : Nat) (v : Int), (place d mem fr v).1.beat = d.beat := fun d mem fr v =>
    foldl_keeps (fun a : Dev × Int × Bool × Bool => a.1.beat) _ (fun a s => by
      dsimp only
      split
      · rfl
      · split
        · rfl
        · simp (disch := decide) [↓apply_ite Dev.beat]) _ _
  refine foldl_keeps (fun a : Dev × List MWord × Bool => a.1.beat) _ (fun a j => ?_) _ _
  extract_lets w lane y l mark
  refine foldl_keeps (fun a : Dev × List Int × Bool × Bool => a.1.beat) lane (fun a k => ?_) _ _
  unfold lane
  dsimp only
  split
  · rfl
  · exact hplace ..

@[simp] theorem Dev.beat_genGroupPass (d : Dev) (q : Nat) (inp : Nat → List MWord) (push : Bool) : (d.genGroupPass q inp push).beat = d.beat := by
  unfold Dev.genGroupPass
  split
  · rfl
  rename_i n0 o0 r _
  extract_lets spp m len base bad d₁ base'
  have h₁ : d₁.beat = d.beat := by simp (disch := decide) [d₁, ↓apply_ite Dev.beat]
  split
  rename_i d₂ slots heq
  have h₂ : d₂.beat = d₁.beat := by
    have h := foldl_keeps (fun x : Dev × List (Nat × Nat × List (Option Int)) => x.1.beat) (fun x s =>
      ((x.1.genStroke s.1 s.2).1, x.2 ++ [(s.1, s.2, (x.1.genStroke s.1 s.2).2)])) (fun _ _ => Dev.beat_genStroke ..) ((n0, o0) :: r) (d₁, [])
    rwa [heq] at h
  split <;> simp [h₂, h₁]

@[simp] theorem Dev.beat_detTake (d : Dev) (slot : Nat) (ss : List Smp) (spp : Nat) : (d.detTake slot ss spp).beat = d.beat := rfl

@[simp] theorem Dev.beat_detGroupIn (d : Dev) (q : Nat) (it : List MWord) (zero : Bool) : (d.detGroupIn q it zero).beat = d.beat := by
  unfold Dev.detGroupIn
  split
  · rfl
  · refine (Dev.beat_each (fun _ _ => Dev.beat_detTake ..) _ _).trans ?_
    simp (disch := decide) [↓apply_ite Dev.beat]

@[simp] theorem Dev.beat_tonePops (d : Dev) (qs : List Nat) : (d.tonePops qs).1.beat = d.beat :=
  foldl_keeps (fun x : Dev × Kv (List MWord) => x.1.beat) _ (fun _ _ => Dev.beat_qPop ..) _ _

@[simp] theorem Dev.beat_toneAdvance (d : Dev) : d.toneAdvance.beat = d.beat := by
  unfold Dev.toneAdvance
  split
  · rfl
  · refine Dev.beat_backOne d (fun d => ?_)
    have hd : ∀ (its : Kv (List MWord)) (l : List Nat) (d : Dev), (d.each l (fun d q => d.detGroupIn q (kvD its q []) true)).beat = d.beat :=
      fun _ l d => Dev.beat_each (fun _ _ => Dev.beat_detGroupIn ..) l d
    have hg : ∀ (its : Kv (List MWord)) (l : List Nat) (d : Dev), (d.each l (fun d q => d.genGroupPass q (fun i => kvD its i []) false)).beat = d.beat :=
      fun _ l d => Dev.beat_each (fun _ _ => Dev.beat_genGroupPass ..) l d
    simp [↓apply_ite Dev.beat, hd, hg]

@[simp] theorem Dev.beat_toneBoundary (d : Dev) : d.toneBoundary.beat = d.beat := rfl

/-! ### Compression -/

@[simp] theorem Dev.beat_setCmpS (d : Dev) (n : Nat) (r : CmpRt) : (d.setCmpS n r).beat = d.beat := rfl

@[simp] theorem Dev.beat_cmpCnt (d : Dev) (k n : Nat) : (d.cmpCnt k n).beat = d.beat :=
  Dev.beat_count d n (Fld.offBeat_of_addr (by simp only [R.CMP_CNT_COUNT]; omega))

@[simp] theorem Dev.beat_cmpLast (d : Dev) (n reason : Nat) : (d.cmpLast n reason).beat = d.beat := by
  simp (disch := decide) [Dev.cmpLast]

@[simp] theorem Dev.beat_cmpIn (d : Dev) (n o : Nat) : (d.cmpIn n o).1.beat = d.beat := by
  unfold Dev.cmpIn; dsimp only
  refine foldl_keeps (fun x : Dev × List (List Int) × Nat × Bool => x.1.beat) _ (fun x _ => ?_) _ _
  split <;> simp (disch := decide) [↓apply_ite Dev.beat]

@[simp] theorem Dev.beat_cmpSkipped (d : Dev) (n o : Nat) : (d.cmpSkipped n o).beat = d.beat := by
  simp [Dev.cmpSkipped, ↓apply_ite Dev.beat]

@[simp] theorem Dev.beat_cmpBoundary (d : Dev) : d.cmpBoundary.beat = d.beat := by
  unfold Dev.cmpBoundary; dsimp only
  rw [Dev.beat_mk]
  split
  · rfl
  · exact Dev.beat_each (fun _ _ => Dev.beat_cmpSkipped ..) _ _

@[simp] theorem Dev.beat_verifyMark (d : Dev) (stream : Option Nat) (replaced lost : Bool) : (d.verifyMark stream replaced lost).beat = d.beat := by
  simp (disch := decide) [Dev.verifyMark, ↓apply_ite Dev.beat]

@[simp] theorem Dev.beat_jobBytes (d : Dev) (addr off j n : Nat) : (d.jobBytes addr off j n).2.beat = d.beat := by
  unfold Dev.jobBytes
  split <;> simp

@[simp] theorem Dev.beat_jobPutBytes (d : Dev) (addr off j : Nat) (l : List Byte) : (d.jobPutBytes addr off j l).beat = d.beat :=
  Dev.beat_each (fun _ _ => Dev.beat_ddrWrite ..) _ _

@[simp] theorem Dev.beat_jobPutPcm (d : Dev) (addr off j : Nat) (l : List Int) : (d.jobPutPcm addr off j l).beat = d.beat :=
  Dev.beat_each (fun _ _ => Dev.beat_ddrWrite ..) _ _

@[simp] theorem Dev.beat_jobEnc (d : Dev) (j : Nat) (a : JobAt) (faults : Nat) : (d.jobEnc j a faults).1.beat = d.beat := by
  unfold Dev.jobEnc
  extract_lets ch spp n src
  split
  · rfl
  split
  · rfl
  dsimp only
  repeat' split
  all_goals simp

@[simp] theorem Dev.beat_jobDec (d : Dev) (j : Nat) (a : JobAt) : (d.jobDec j a).1.beat = d.beat := by
  unfold Dev.jobDec; dsimp only
  repeat' split
  all_goals simp

@[simp] theorem Dev.beat_jobRun (d : Dev) (j : Nat) (faulty : List Nat) (blocks fuel : Nat) (a : JobAt) :
    (d.jobRun j faulty blocks fuel a).1.beat = d.beat := by
  induction fuel generalizing d a with
  | zero => rfl
  | succ fuel ih =>
    have h : (if bit j 0 then d.jobDec j a else d.jobEnc j a (faulty.filter (· == a.blocks)).length).1.beat = d.beat := by split <;> simp
    unfold Dev.jobRun
    split
    · rfl
    · split <;> rename_i heq <;> rw [heq] at h
      · exact h
      · exact (ih ..).trans h

@[simp] theorem Dev.beat_jobEnd (d : Dev) (a : JobAt) (st : Nat) : (d.jobEnd a st).beat = d.beat := by
  unfold Dev.jobEnd; dsimp only
  simp (disch := decide)

@[simp] theorem Dev.beat_jobStop (d : Dev) : d.jobStop.beat = d.beat := by
  unfold Dev.jobStop
  split <;> simp

/-! ### The timing unit -/

@[simp] theorem Dev.beat_onTim (d : Dev) (f : Tim → Tim) : (d.onTim f).beat = d.beat := rfl
@[simp] theorem Dev.beat_setTrig (d : Dev) (i : Nat) (r : TrigRt) : (d.setTrig i r).beat = d.beat := rfl

@[simp] theorem Dev.beat_clkBecomesValid (d : Dev) : d.clkBecomesValid.beat = d.beat := by
  have ho : ∀ (d : Dev) r, ({ d with org := { d.org with enReq := r } } : Dev).beat = d.beat := fun _ _ => rfl
  unfold Dev.clkBecomesValid; dsimp only
  repeat' split
  · rfl
  · exact (ho (((d.set R.TIME_STAT_VALID 1).ev E.TIME_VALID).set R.STK_STAT_CLK_INVALID 0) _).trans (by simp (disch := decide))
  · simp (disch := decide)

@[simp] theorem Dev.beat_saClear (d : Dev) : d.saClear.beat = d.beat := by
  unfold Dev.saClear Dev.each
  simp (disch := decide)

@[simp] theorem Dev.beat_clkApply (d : Dev) (c : ClkCmd) : (d.clkApply c).beat = d.beat := by
  cases c <;> simp [Dev.clkApply]

@[simp] theorem Dev.beat_slew (d : Dev) (had : Bool) : (d.slew had).beat = d.beat := by
  simp (disch := decide) [Dev.slew, ↓apply_ite Dev.beat]

@[simp] theorem Dev.beat_modeSwitch (d : Dev) (free : Bool) : (d.modeSwitch free).beat = d.beat := by
  simp (disch := decide) [Dev.modeSwitch]

@[simp] theorem Dev.beat_handOver (d : Dev) (i time : Nat) : (d.handOver i time).beat = d.beat := by
  simp [Dev.handOver, ↓apply_ite Dev.beat]

@[simp] theorem Dev.beat_quietFire (d : Dev) (i : Nat) : (d.quietFire i).beat = d.beat := by
  simp [Dev.quietFire, ↓apply_ite Dev.beat]

@[simp] theorem Dev.beat_pulseStart (d : Dev) (i : Nat) : (d.pulseStart i).beat = d.beat := rfl

@[simp] theorem Dev.beat_trigAct (d : Dev) (i : Nat) : (d.trigAct i).beat = d.beat := by
  simp [Dev.trigAct, ↓apply_ite Dev.beat]

@[simp] theorem Dev.beat_trigMiss (d : Dev) (i n : Nat) : (d.trigMiss i n).beat = d.beat := by
  simp (disch := decide) [Dev.trigMiss]

@[simp] theorem Dev.beat_trigLate (d : Dev) (i : Nat) : (d.trigLate i).beat = d.beat := by
  simp (disch := decide) [Dev.trigLate, ↓apply_ite Dev.beat]

@[simp] theorem Dev.beat_trigPassed (d : Dev) (i : Nat) : (d.trigPassed i).beat = d.beat := by
  simp [Dev.trigPassed, ↓apply_ite Dev.beat]

@[simp] theorem Dev.beat_handTriggers (d : Dev) : d.handTriggers.beat = d.beat := by
  refine Dev.beat_each (fun d i => ?_) _ _
  unfold Dev.handUnit; dsimp only
  split
  · exact Dev.beat_each (fun _ _ => Dev.beat_handOver ..) _ _
  · rfl

@[simp] theorem Dev.beat_dcoRecord (d : Dev) : d.dcoRecord.beat = d.beat := rfl

@[simp] theorem Dev.beat_adjust (d : Dev) (boundary : Bool) : (d.adjust boundary).beat = d.beat := by
  unfold Dev.adjust
  split
  · rfl
  extract_lets free d₁ cmds had d₂ before d₃ had' d₄ d₅
  have h₃ : d₃.beat = d.beat := (Dev.beat_each (fun _ _ => Dev.beat_clkApply ..) cmds d₂).trans rfl
  have h₅ : d₅.beat = d.beat := by
    unfold d₅ d₄
    split <;> simp [↓apply_ite Dev.beat, h₃]
  split
  · exact (Dev.beat_each (fun _ _ => Dev.beat_trigPassed ..) _ _).trans h₅
  · exact h₅

@[simp] theorem Dev.beat_dcoHold (d : Dev) (auto : Bool) : (d.dcoHold auto).beat = d.beat := by
  simp (disch := decide) [Dev.dcoHold]

@[simp] theorem Dev.beat_dcoBoundary (d : Dev) (held : Bool) : (d.dcoBoundary held).beat = d.beat := by
  unfold Dev.dcoBoundary
  split
  · rfl
  · simp [↓apply_ite Dev.beat]
  · rfl

@[simp] theorem Dev.beat_tdcTo (d : Dev) (i k : Nat) : (d.tdcTo i k).beat = d.beat := by
  unfold Dev.tdcTo
  extract_lets t m
  split <;> simp

@[simp] theorem Dev.beat_tdcBoundary (d : Dev) : d.tdcBoundary.beat = d.beat := by
  simp [Dev.tdcBoundary, Dev.each]

@[simp] theorem Dev.beat_outsBoundary (d : Dev) : d.outsBoundary.beat = d.beat := rfl
@[simp] theorem Dev.beat_outsLoad (d : Dev) (b : Bank) : (d.outsLoad b).beat = d.beat := rfl

/-! ### Calibration -/

@[simp] theorem Dev.beat_onCal (d : Dev) (f : Cal → Cal) : (d.onCal f).beat = d.beat := rfl

/-- A fold of writes of fields off the beat leaves the beat alone. -/
theorem Dev.beat_each_set {α : Type} {f : α → Fld} {v : Dev → α → Nat} (l : List α) (h : ∀ a ∈ l, (f a).OffBeat) (d : Dev) :
    (d.each l (fun d a => d.set (f a) (v d a))).beat = d.beat := by
  unfold Dev.each
  induction l generalizing d with
  | nil => rfl
  | cons a r ih => exact (ih (fun b hb => h b (List.mem_cons_of_mem _ hb)) _).trans (Dev.beat_set d _ (h a List.mem_cons_self))

theorem calCodes_lt {t c : Nat} (h : c ∈ calCodes t) : c < 18 := by
  unfold calCodes at h
  rcases t with _ | _ | _ | _ | _ | _ | t <;> simp at h <;> omega

@[simp] theorem Dev.beat_calStale (d : Dev) (t : Nat) (on : Bool) : (d.calStale t on).beat = d.beat := by
  have hc : ∀ c ∈ calCodes t, (R.CAL_CODE_STALE c).OffBeat := fun c h => by
    have := calCodes_lt h
    simp only [Fld.OffBeat, Fld.key, R.CAL_CODE_STALE, R.STK_CTL_TICK_DIV, R.STK_STAT_RUNNING]; omega
  unfold Dev.calStale; dsimp only
  split
  · rw [Dev.beat_each_set _ (by decide), Dev.beat_set _ _ (by decide), Dev.beat_each_set _ (by decide), Dev.beat_set _ _ (by decide)]
  · rw [Dev.beat_each_set _ hc, Dev.beat_set _ _ (by decide)]

@[simp] theorem Dev.beat_calUnstale (d : Dev) : d.calUnstale.beat = d.beat :=
  Dev.beat_each (fun d t => by simp [↓apply_ite Dev.beat]) _ _

@[simp] theorem Dev.beat_calMark (d : Dev) : d.calMark.beat = d.beat := by
  unfold Dev.calMark
  split <;> simp

@[simp] theorem Dev.beat_calCheck (d : Dev) (env : BoundaryIn) (ends : Bool) : (d.calCheck env ends).beat = d.beat := by
  simp (disch := decide) [Dev.calCheck, ↓apply_ite Dev.beat]

@[simp] theorem Dev.beat_ageTarget (d : Dev) (t : Nat) : (d.ageTarget t).beat = d.beat := by
  have hc : ∀ c ∈ calCodes t, (R.CAL_CODE_APPLIED c).OffBeat := fun c h => by
    have := calCodes_lt h
    simp only [Fld.OffBeat, Fld.key, R.CAL_CODE_APPLIED, R.STK_CTL_TICK_DIV, R.STK_STAT_RUNNING]; omega
  unfold Dev.ageTarget
  extract_lets r hot was d₁ d₂ aged
  refine (Dev.beat_each_set _ hc _).trans ?_
  simp (disch := decide) [d₂, d₁, ↓apply_ite Dev.beat]

@[simp] theorem Dev.beat_ageAll (d : Dev) : d.ageAll.beat = d.beat :=
  (Dev.beat_onCal ..).trans (Dev.beat_each (fun _ _ => Dev.beat_ageTarget ..) _ _)

@[simp] theorem Dev.beat_calClose (d : Dev) : d.calClose.beat = d.beat := by
  simp (disch := decide) [Dev.calClose]

@[simp] theorem Dev.beat_ageAfter (d : Dev) : d.ageAfter.beat = d.beat := by
  simp [Dev.ageAfter, ↓apply_ite Dev.beat]

@[simp] theorem Dev.beat_calBoundary (d : Dev) (env : BoundaryIn) : (d.calBoundary env).beat = d.beat := by
  unfold Dev.calBoundary
  split
  · rfl
  · simp [↓apply_ite Dev.beat]

/-! ### Lines and bitstream inputs -/

@[simp] theorem Dev.beat_setLine (d : Dev) (madi : Bool) (p : Nat) (l : LineRt) : (d.setLine madi p l).beat = d.beat := by
  unfold Dev.setLine
  split <;> rfl

/-- The registers of a TDM port lie past the origin's. -/
theorem Fld.offBeat_tdm (p : Nat) : (R.TDM_STAT_SLIP p).OffBeat ∧ (R.TDM_PHASE_P p).OffBeat ∧ (R.TDM_STAT_LOCK p).OffBeat ∧ (R.TDM_STAT_CLK_OK p).OffBeat ∧
    ∀ k, (R.TDM_CNT_COUNT p k).OffBeat := by
  refine ⟨?_, ?_, ?_, ?_, fun k => ?_⟩ <;> refine Fld.offBeat_of_addr ?_ <;>
    simp only [R.TDM_STAT_SLIP, R.TDM_PHASE_P, R.TDM_STAT_LOCK, R.TDM_STAT_CLK_OK, R.TDM_CNT_COUNT] <;> omega

/-- The registers of a MADI framer lie past the origin's. -/
theorem Fld.offBeat_madi (p : Nat) : (R.MADI_STAT_SLIP p).OffBeat ∧ (R.MADI_PHASE_P p).OffBeat ∧ (R.MADI_STAT_LOCK p).OffBeat ∧
    (R.MADI_STAT_CLK_OK p).OffBeat ∧ ∀ k, (R.MADI_CNT_COUNT p k).OffBeat := by
  refine ⟨?_, ?_, ?_, ?_, fun k => ?_⟩ <;> refine Fld.offBeat_of_addr ?_ <;>
    simp only [R.MADI_STAT_SLIP, R.MADI_PHASE_P, R.MADI_STAT_LOCK, R.MADI_STAT_CLK_OK, R.MADI_CNT_COUNT] <;> omega

@[simp] theorem Dev.beat_slip (d : Dev) (madi : Bool) (p tx : Nat) : (d.slip madi p tx).beat = d.beat := by
  obtain ⟨ht, -, -, -, htc⟩ := Fld.offBeat_tdm p
  obtain ⟨hm, -, -, -, hmc⟩ := Fld.offBeat_madi p
  unfold Dev.slip
  rw [Dev.beat_evOnce _ _ _ _ (by decide)]
  split
  · rw [Dev.beat_count _ _ (hmc _), Dev.beat_set _ _ hm]
  · rw [Dev.beat_count _ _ (htc _), Dev.beat_set _ _ ht]

@[simp] theorem Dev.beat_linePhase (d : Dev) (madi : Bool) (p : Nat) (phase : Int) : (d.linePhase madi p phase).beat = d.beat := by
  obtain ⟨-, htp, htl, -, -⟩ := Fld.offBeat_tdm p
  obtain ⟨-, hmp, hml, -, -⟩ := Fld.offBeat_madi p
  unfold Dev.linePhase; dsimp only
  split
  · rw [Dev.beat_set _ _ hml, Dev.beat_set _ _ hmp]
  · rw [Dev.beat_set _ _ htl, Dev.beat_set _ _ htp]

@[simp] theorem Dev.beat_lineClk (d : Dev) (madi : Bool) (p v : Nat) : (d.lineClk madi p v).beat = d.beat := by
  obtain ⟨-, -, -, ht, -⟩ := Fld.offBeat_tdm p
  obtain ⟨-, -, -, hm, -⟩ := Fld.offBeat_madi p
  unfold Dev.lineClk
  split
  · exact Dev.beat_set _ _ hm
  · exact Dev.beat_set _ _ ht

@[simp] theorem Dev.beat_txPop (d : Dev) (madi : Bool) (p g o : Nat) : (d.txPop madi p g o).beat = d.beat := by
  unfold Dev.txPop; dsimp only
  rw [Dev.beat_setLine, apply_ite Dev.beat, Dev.beat_count _ _ ((Fld.offBeat_tdm p).2.2.2.2 3), ite_self]
  exact foldl_keeps (α := Nat) (fun x : Dev × List (List MWord) => x.1.beat) _ (fun x _ => by simp) _ _

@[simp] theorem Dev.beat_lineBoundary (d : Dev) (madi : Bool) (p : Nat) : (d.lineBoundary madi p).beat = d.beat := by
  unfold Dev.lineBoundary
  extract_lets l
  split
  · rfl
  rename_i f t missed d₁ l₁ idle l₂ d₂ _
  have h₂ : d₂.beat = d.beat := (Dev.beat_setLine ..).trans (Dev.beat_each (fun _ _ => Dev.beat_slip ..) _ _)
  split
  · exact h₂
  · exact (Dev.beat_each (fun d g => by simp [↓apply_ite Dev.beat]) _ _).trans h₂

@[simp] theorem Dev.beat_linesBoundary (d : Dev) : d.linesBoundary.beat = d.beat :=
  (Dev.beat_each (fun _ _ => Dev.beat_lineBoundary ..) _ _).trans (Dev.beat_each (fun _ _ => Dev.beat_lineBoundary ..) _ _)

@[simp] theorem Dev.beat_lineLoad (d : Dev) (madi : Bool) (p : Nat) : (d.lineLoad madi p).beat = d.beat := by
  have hl : (if madi then R.MADI_STAT_LOCK p else R.TDM_STAT_LOCK p).OffBeat := by
    split
    · exact (Fld.offBeat_madi p).2.2.1
    · exact (Fld.offBeat_tdm p).2.2.1
  unfold Dev.lineLoad; dsimp only
  split
  · simp [↓apply_ite Dev.beat, ↓Dev.beat_set _ _ hl]
  · simp [↓apply_ite Dev.beat]

@[simp] theorem Dev.beat_bsdStat (d : Dev) : d.bsdStat.beat = d.beat := by
  simp (disch := decide) [Dev.bsdStat]

@[simp] theorem Dev.beat_bsdFault (d : Dev) (c : Nat) : (d.bsdFault c).beat = d.beat := by
  have hc : (R.BSD_CNT_COUNT c).OffBeat := Fld.offBeat_of_addr (by simp only [R.BSD_CNT_COUNT]; omega)
  unfold Dev.bsdFault; dsimp only
  split
  · rfl
  · split
    · rfl
    · rw [Dev.beat_bsdStat, Dev.beat_evOnce _ _ _ _ (by decide), Dev.beat_count _ _ hc, Dev.beat_mk]

@[simp] theorem Dev.beat_bsdBoundary (d : Dev) (exact : Nat) : (d.bsdBoundary exact).beat = d.beat := by
  unfold Dev.bsdBoundary; dsimp only
  rw [Dev.beat_bsdStat, Dev.beat_mk]
  exact Dev.beat_each (fun d c => by simp [↓apply_ite Dev.beat]) _ _

/-! ### Event upsets and the audit trail -/

@[simp] theorem Dev.beat_upsetMain (d : Dev) (u : Upsets) : (d.upsetMain u).beat = d.beat :=
  (Dev.beat_each (fun _ _ => Dev.beat_setCell ..) _ _).trans (Dev.beat_mk ..)

@[simp] theorem Dev.beat_upsetPorts (d : Dev) (u : Upsets) : (d.upsetPorts u).beat = d.beat := by
  have hp : (R.PCIE_CNT_COUNT 3).OffBeat := by decide
  have he : ∀ n, (R.ETH_CNT_COUNT n 11).OffBeat := fun n => Fld.offBeat_of_addr (by simp only [R.ETH_CNT_COUNT]; omega)
  have hf : ∀ d : Dev, (d.each u.fecUe (fun d x =>
      if decide (x.1 < 4 ∧ x.2 ≠ 0) && d.ethUp x.1 && bits (d.objD S.ETH x.1) 2 2 != 0 then
        (d.count (R.ETH_CNT_COUNT x.1 11) x.2).evOnce E.ETH_FEC_UE x.1 x.1 else d)).beat = d.beat :=
    fun d => Dev.beat_each (fun d x => by
      split
      · rw [Dev.beat_evOnce _ _ _ _ (by decide), Dev.beat_count _ _ (he _)]
      · rfl) _ d
  unfold Dev.upsetPorts; dsimp only
  split
  · exact (Dev.beat_count _ _ hp).trans (hf d)
  · exact hf d

@[simp] theorem Dev.beat_signed (d : Dev) (body : List Byte) : (d.signed body).2.beat = d.beat := by
  unfold Dev.signed
  split <;> rfl

@[simp] theorem Dev.beat_audQueue (d : Dev) (kind : Nat) (r : List Byte) : (d.audQueue kind r).beat = d.beat := by
  unfold Dev.audQueue; dsimp only
  repeat' split
  all_goals simp (disch := decide)

@[simp] theorem Dev.beat_audit (d : Dev) (role reqNo kind result arg : Nat) (detail : BitVec 384) :
    (d.audit role reqNo kind result arg detail).beat = d.beat := by
  unfold Dev.audit; dsimp only
  rw [Dev.beat_audQueue, Dev.beat_mk, Dev.beat_signed, Dev.beat_mk]

/-! ### Images -/

theorem Dev.beat_setWords (d : Dev) {f : Nat → Fld} (n x : Nat) (h : ∀ k, (f k).OffBeat) : (d.setWords f n x).beat = d.beat :=
  foldl_keeps Dev.beat _ (fun d k => Dev.beat_set d _ (h k)) _ _

@[simp] theorem Dev.beat_setShadow (d : Dev) (b : Option Bank) : (d.setShadow b).beat = d.beat := by
  have hh : ∀ k, (R.STK_IMG_SHD_HASH_H k).OffBeat := fun k => Fld.offBeat_of_addr (by simp only [R.STK_IMG_SHD_HASH_H]; omega)
  unfold Dev.setShadow; dsimp only
  rw [Dev.beat_setWords _ _ _ hh]
  simp (disch := decide)

/-- The state of a cell's power, by cell. -/
@[simp] theorem Dev.beat_setCellPwr (d : Dev) (n v : Nat) : (d.set (R.CELL_STAT_PWR n) v).beat = d.beat :=
  Dev.beat_set d v (Fld.offBeat_of_addr (by simp only [R.CELL_STAT_PWR]; omega))

@[simp] theorem Dev.beat_gateCells (d : Dev) : d.gateCells.beat = d.beat := by
  have hw : ∀ (l : List Nat) (d : Dev), (d.each l (fun d n => d.set (R.CELL_STAT_PWR n) 0)).beat = d.beat :=
    fun l d => Dev.beat_each (fun _ _ => Dev.beat_setCellPwr ..) l d
  have hg : ∀ (l : List Nat) (d : Dev), (d.each l (fun d n => (d.set (R.CELL_STAT_PWR n) 2).setCell n {})).beat = d.beat :=
    fun l d => Dev.beat_each (fun _ _ => by simp) l d
  unfold Dev.gateCells; dsimp only
  split
  · exact hw _ _
  · exact (hg _ _).trans (hw _ _)

@[simp] theorem Dev.beat_regate (d : Dev) : d.regate.beat = d.beat := by
  simp [Dev.regate, ↓apply_ite Dev.beat]

@[simp] theorem Dev.beat_loadEnd (d : Dev) (e : ImgErr) (id : Nat) (h : BitVec 384) : (d.loadEnd e id h).beat = d.beat := by
  unfold Dev.loadEnd
  extract_lets d₁ sec d₂ d₃
  have h₂ : d₂.beat = d.beat := (Dev.beat_mk ..).trans (by simp (disch := decide) [d₁])
  rw [Dev.beat_audit]
  simp (disch := decide) [d₃, h₂, ↓apply_ite Dev.beat]

@[simp] theorem Dev.beat_imgMissed (d : Dev) (stroke : Nat) : (d.imgMissed stroke).beat = d.beat := by
  unfold Dev.imgMissed
  refine (Dev.beat_audit ..).trans ?_
  simp (disch := decide)

@[simp] theorem Dev.beat_imgCut (d : Dev) (missed : Bool) : (d.imgCut missed).beat = d.beat := by
  unfold Dev.imgCut
  extract_lets d₁
  have h₁ : d₁.beat = d.beat := by simp [d₁, ↓apply_ite Dev.beat]
  split
  · exact (Dev.beat_loadEnd ..).trans h₁
  · split
    · exact (Dev.beat_imgMissed ..).trans h₁
    · exact h₁

/-! ### The changeover -/

@[simp] theorem Dev.beat_coDiscard (d : Dev) (b : Bank) : (d.coDiscard b).beat = d.beat := rfl

@[simp] theorem Dev.beat_coFlush (d : Dev) : d.coFlush.beat = d.beat := by
  have hq : ∀ (l : List Nat) (d : Dev), (d.each l (fun d q => if (d.q q).flushPend then d.qFlushNow q else d)).beat = d.beat :=
    fun l d => Dev.beat_each (fun _ _ => by simp [↓apply_ite Dev.beat]) l d
  unfold Dev.coFlush; dsimp only
  split
  · exact hq _ _
  · exact (Dev.beat_each (fun _ _ => Dev.beat_cisApplyFlush ..) _ _).trans (hq _ _)

@[simp] theorem Dev.beat_coRemove (d : Dev) (b : Bank) (flushed : List Nat) : (d.coRemove b flushed).beat = d.beat := by
  unfold Dev.coRemove; dsimp only
  rw [Dev.beat_jobStop, Dev.beat_each (fun _ _ => Dev.beat_cmpCnt ..), Dev.beat_each (fun _ _ => Dev.beat_cisEmpty ..),
    Dev.beat_each (fun _ _ => Dev.beat_qFlushNow ..)]

@[simp] theorem Dev.beat_coResize (d : Dev) (b : Bank) : (d.coResize b).beat = d.beat := by
  unfold Dev.coResize; dsimp only
  refine (Dev.beat_each (fun d x => ?_) _ _).trans (Dev.beat_each (fun d x => ?_) _ _)
  · repeat' split
    all_goals simp
  · split
    · split <;> simp [↓apply_ite Dev.beat]
    · rfl

@[simp] theorem Dev.beat_coLanes (d : Dev) (a b : Bank) : (d.coLanes a b).beat = d.beat :=
  Dev.beat_each (fun _ _ => by simp [↓apply_ite Dev.beat]) _ _

@[simp] theorem Dev.beat_coTask (d : Dev) (a b : Bank) (t : Nat) : (d.coTask a b t).beat = d.beat := by
  unfold Dev.coTask
  extract_lets r
  split
  · rfl
  rename_i new removed waiting d₁ src d₂ r₂ held _
  have h₁ : d₁.beat = d.beat := by simp [d₁, ↓apply_ite Dev.beat]
  have h₂ : d₂.beat = d.beat := by
    unfold d₂
    split
    · exact h₁
    · simp [h₁, ↓apply_ite Dev.beat]
  clear_value d₂ held new
  cases new with
  | none => exact h₂
  | some o => cases held <;> simp [h₂]

@[simp] theorem Dev.beat_coGens (d : Dev) : d.coGens.beat = d.beat := rfl

@[simp] theorem Dev.beat_setEg (d : Dev) (n : Nat) (e : EgRt) : (d.setEg n e).beat = d.beat := rfl

@[simp] theorem Dev.beat_coFresh (d : Dev) (a b : Bank) : (d.coFresh a b).beat = d.beat := by
  unfold Dev.coFresh
  extract_lets q₁ q₂ q₃ c₁ c₂ srcP p₁ p₂ srcN n₁ n₂ n₃ srcT t₁ t₂ t₃ srcM m₁ m₂ m₃ ts k₁ gt srcK
  have hq : q₃.beat = d.beat := (Dev.beat_each (fun _ _ => Dev.beat_setQ ..) _ _).trans
    ((Dev.beat_each (fun _ _ => Dev.beat_setQ ..) _ _).trans (Dev.beat_each (fun _ _ => by simp [↓apply_ite Dev.beat]) _ _))
  have hc : c₂.beat = q₃.beat := (Dev.beat_each (fun _ _ => Dev.beat_setCis ..) _ _).trans (Dev.beat_mk ..)
  have hp : p₂.beat = c₂.beat := (Dev.beat_each (fun _ _ => by simp) _ _).trans (Dev.beat_mk ..)
  have hn : n₃.beat = p₂.beat := (Dev.beat_each (fun _ _ => by simp) _ _).trans
    ((Dev.beat_each (fun _ _ => Dev.beat_chainStart ..) _ _).trans (Dev.beat_mk ..))
  have ht : t₃.beat = n₃.beat := (Dev.beat_coGens _).trans ((Dev.beat_each (fun _ _ => Dev.beat_setDet ..) _ _).trans (Dev.beat_mk ..))
  have hm : m₃.beat = t₃.beat := (Dev.beat_onTim ..).trans ((Dev.beat_each (fun _ _ => Dev.beat_setCmpS ..) _ _).trans (Dev.beat_mk ..))
  have hk : k₁.beat = m₃.beat := Dev.beat_each (fun _ _ => Dev.beat_coTask ..) _ _
  rw [Dev.beat_mk, hk, hm, ht, hn, hp, hc, hq]

@[simp] theorem Dev.beat_cellRegs (d : Dev) (b : Bank) (n : Nat) : (d.cellRegs b n).beat = d.beat := by
  have hc : (R.CELL_LM_CODE_BASE n).OffBeat := Fld.offBeat_of_addr (by simp only [R.CELL_LM_CODE_BASE]; omega)
  have hs : (R.CELL_LM_STATE_BASE n).OffBeat := Fld.offBeat_of_addr (by simp only [R.CELL_LM_STATE_BASE]; omega)
  have hp : ∀ k, (R.CELL_PACK_ID n k).OffBeat ∧ (R.CELL_PACKV_VER n k).OffBeat := fun k =>
    ⟨Fld.offBeat_of_addr (by simp only [R.CELL_PACK_ID]; omega), Fld.offBeat_of_addr (by simp only [R.CELL_PACKV_VER]; omega)⟩
  unfold Dev.cellRegs; dsimp only
  split
  · rfl
  · rw [Dev.beat_each (fun d k => (Dev.beat_set _ _ (hp k).2).trans (Dev.beat_set _ _ (hp k).1)), Dev.beat_set _ _ hs, Dev.beat_set _ _ hc]

@[simp] theorem Dev.beat_setActiveRegs (d : Dev) (b : Bank) : (d.setActiveRegs b).beat = d.beat := by
  have hh : ∀ k, (R.STK_IMG_ACT_HASH_H k).OffBeat := fun k => Fld.offBeat_of_addr (by simp only [R.STK_IMG_ACT_HASH_H]; omega)
  have hf : ∀ n, (R.STK_CELL_FD_LEN n).OffBeat := fun n => Fld.offBeat_of_addr (by simp only [R.STK_CELL_FD_LEN]; omega)
  unfold Dev.setActiveRegs; dsimp only
  rw [Dev.beat_each (fun d n => (Dev.beat_cellRegs ..).trans (Dev.beat_set _ _ (hf n))), Dev.beat_set _ _ (by decide), Dev.beat_setWords _ _ _ hh]
  simp (disch := decide)

@[simp] theorem Dev.beat_coFirstDraw (d : Dev) (a b : Bank) : (d.coFirstDraw a b).beat = d.beat :=
  Dev.beat_each (fun _ _ => by simp [↓apply_ite Dev.beat]) _ _

@[simp] theorem Dev.beat_changeoverNow (d : Dev) : d.changeoverNow.beat = d.beat := by
  have hl : ∀ (madi : Bool) (l : List Nat) (d : Dev), (d.each l (fun d p => d.lineLoad madi p)).beat = d.beat :=
    fun _ l d => Dev.beat_each (fun _ _ => Dev.beat_lineLoad ..) l d
  unfold Dev.changeoverNow; dsimp only
  split
  · rfl
  · simp (disch := decide) [hl]

/-! ### Packet egress -/

@[simp] theorem Dev.beat_pktCnt (d : Dev) (k : Nat) : (d.pktCnt k).beat = d.beat :=
  Dev.beat_count d _ (Fld.offBeat_of_addr (by simp only [R.PKT_CNT_COUNT]; omega))

@[simp] theorem Dev.beat_setCtx (d : Dev) (n : Nat) (c : SrtpCtx) : (d.setCtx n c).beat = d.beat := rfl

@[simp] theorem Dev.beat_ctxCount (d : Dev) (n : Nat) : (d.ctxCount n).beat = d.beat := by
  simp (disch := decide) [Dev.ctxCount, ↓apply_ite Dev.beat]

@[simp] theorem Dev.beat_ctxEnd (d : Dev) (n : Nat) : (d.ctxEnd n).beat = d.beat := by
  simp (disch := decide) [Dev.ctxEnd]

@[simp] theorem Dev.beat_egCnt (d : Dev) (n k : Nat) : (d.egCnt n k).beat = d.beat :=
  (Dev.beat_pktCnt ..).trans (Dev.beat_setEg ..)

@[simp] theorem Dev.beat_egQueue (d : Dev) (port : Nat) (x : TxPkt) : (d.egQueue port x).beat = d.beat := by
  unfold Dev.egQueue
  split
  · rfl
  · exact Dev.beat_egCnt ..

@[simp] theorem Dev.beat_protect (d : Dev) (n ssrc idx : Nat) (hdr body : List Byte) : (d.protect n ssrc idx hdr body).1.beat = d.beat := by
  unfold Dev.protect; dsimp only
  repeat' split
  all_goals simp

@[simp] theorem Dev.beat_egCopy (d : Dev) (n o s id : Nat) (ts : Word) (rtp : List Byte) (second : Bool) :
    (d.egCopy n o s id ts rtp second).beat = d.beat :=
  (Dev.beat_egQueue ..).trans (Dev.beat_resReadN ..)

@[simp] theorem Dev.beat_egBuild (d : Dev) (n o : Nat) : (d.egBuild n o).beat = d.beat := by
  unfold Dev.egBuild
  split
  rename_i it d₁ heq
  have h₁ : d₁.beat = d.beat := by
    have h := Dev.beat_qPop d (eInQ o) true
    rwa [heq] at h
  split
  · simp [h₁]
  · extract_lets s e md body ts mk hdr idx v4 e' d₂
    have h₂ : d₂.beat = d.beat := (Dev.beat_setEg ..).trans h₁
    have hp : (if eSec o then d₂.protect n (eSsrc o) idx hdr body else (d₂, some (hdr ++ body))).1.beat = d.beat := by
      split
      · exact (Dev.beat_protect ..).trans h₂
      · exact h₂
    split <;> rename_i heq' <;> rw [heq'] at hp
    · exact hp
    · simp [hp, ↓apply_ite Dev.beat]

@[simp] theorem Dev.beat_egBoundary (d : Dev) : d.egBoundary.beat = d.beat := by
  unfold Dev.egBoundary; dsimp only
  split
  · rfl
  · exact (Dev.beat_each (fun _ _ => by simp [↓apply_ite Dev.beat]) _ _).trans rfl

/-! ### The origin and the keep-alive part of a boundary -/

theorem Dev.beat_onOrg (d : Dev) {f : Origin → Origin} (hn : (f d.org).num = d.org.num) (hc : (f d.org).cc = d.org.cc) :
    (d.onOrg f).beat = d.beat := by
  simp only [Dev.beat, Dev.onOrg, hn, hc]; rfl

@[simp] theorem Dev.beat_originMeasure (d : Dev) : d.originMeasure.beat = d.beat := by
  unfold Dev.originMeasure
  extract_lets d₁ x e near d₂ d₃ d₄ d₅
  have h₁ : d₁.beat = d.beat := Dev.beat_onOrg d rfl rfl
  have h₂ : d₂.beat = d₁.beat := (Dev.beat_set _ _ (by decide)).trans (Dev.beat_onOrg _ rfl rfl)
  have h₃ : d₃.beat = d₂.beat := Dev.beat_set _ _ (by decide)
  have h₄ : d₄.beat = d.beat := by simp (disch := decide) [d₄, h₃, h₂, h₁, ↓apply_ite Dev.beat]
  have h₅ : d₅.beat = d.beat := (Dev.beat_onOrg _ rfl rfl).trans h₄
  have hs : ∀ st lo, (d₄.onOrg (fun o => { o with steer := st, lost := lo })).beat = d.beat := fun _ _ => (Dev.beat_onOrg _ rfl rfl).trans h₄
  split
  · split
    · exact (Dev.beat_ev _ _ _ _ (by decide)).trans h₅
    · exact h₅
  · split
    · exact hs _ _
    · split
      · exact (Dev.beat_onOrg _ rfl rfl).trans h₄
      · exact (Dev.beat_ev _ _ _ _ (by decide)).trans ((Dev.beat_set _ _ (by decide)).trans (hs _ _))

/-- The backup domain's latches, among which the stroke's is part of the beat. -/
theorem Dev.beat_sump (d : Dev) (ring : Kv (BitVec 128)) (x ns : Word) (ok : Bool) :
    ({ d with sump := { ring := ring, latchStroke := x, latchNs := ns, latchValid := ok } } : Dev).beat = { d.beat with latch := x } := rfl

/-- The keep-alive part of a boundary keeps the beat, and the backup domain latches the stroke. -/
theorem Dev.beat_boundaryKa (d : Dev) (env : Option BoundaryIn) :
    (d.boundaryKa env).beat = { d.beat with latch := BitVec.ofNat 32 d.org.num } := by
  unfold Dev.boundaryKa
  extract_lets d₁ d₂ held d₃ d₄ d₅ d₆
  have h₂ : d₂.beat = d.beat := by cases env <;> rfl
  have h₃ : d₃.beat = d₂.beat := by simp [d₃]
  have h₄ : d₄.beat = d₃.beat := by simp [d₄, ↓apply_ite Dev.beat]
  have h₅ : d₅.beat = d₄.beat := by cases env <;> simp [d₅, Dev.when, ↓apply_ite Dev.beat]
  have h₆ : d₆.beat = d.beat := (Dev.beat_dcoBoundary ..).trans (h₅.trans (h₄.trans (h₃.trans h₂)))
  have hn : d₆.org.num = d.org.num := congrArg Beat.num h₆
  rw [Dev.beat_sump, h₆, hn]

/-! ### What every boundary counts, also one that resets the main domain -/

/-- The stroke's number, its cycle, and the stroke that the backup domain latched. -/
def Dev.tally (d : Dev) : Nat × Nat × Word := (d.org.num, d.org.cc, d.sump.latchStroke)

theorem Dev.tally_of_beat {d d' : Dev} (h : d'.beat = d.beat) : d'.tally = d.tally :=
  congrArg (fun b : Beat => (b.num, b.cc, b.latch)) h

theorem Dev.rst_of_beat {d d' : Dev} (h : d'.beat = d.beat) : d'.rst = d.rst := congrArg Beat.rst h

theorem Dev.latch_offLog : Dev.OffLog (fun d => d.sump.latchStroke) := ⟨fun _ _ _ _ => rfl, fun _ _ => rfl, fun _ _ => rfl⟩

theorem Dev.settleSump_latch (d : Dev) : d.settleSump.sump.latchStroke = d.sump.latchStroke := by
  have h := Dev.latch_offLog.redo d
  unfold Dev.settleSump
  split
  · rfl
  · dsimp only
    split
    · split <;> exact h ..
    · exact h ..

theorem Dev.deliver_sump (d : Dev) (n : Nat) : (d.deliver n).sump = d.sump := by
  have hc : ∀ d : Dev, (d.deliverCores n).sump = d.sump := fun d => Dev.each_keeps Dev.sump _ (fun d c => by split <;> rfl) _ d
  have hv : ∀ (d : Dev) v, (d.vecDue v).sump = d.sump := fun d v => by unfold Dev.vecDue; split <;> rfl
  have hh : ∀ d : Dev, (d.deliverHost n).sump = d.sump := fun d => by
    unfold Dev.deliverHost; dsimp only
    repeat' split
    · rfl
    · rfl
    · exact hv ..
  have ha : ∀ d : Dev, (d.deliverAlert n).sump = d.sump := fun d => by unfold Dev.deliverAlert; split <;> rfl
  exact (ha _).trans ((hh _).trans ((hc _).trans rfl))

theorem Dev.sump_onCyc (d : Dev) (f : Cyc → Cyc) : (d.onCyc f).sump = d.sump := rfl

theorem Dev.settleEvt_sump (d : Dev) : d.settleEvt.sump = d.sump := by
  have hv : ∀ on, (d.vecCycle on).sump = d.sump := fun on => by unfold Dev.vecCycle; split <;> rfl
  have hd : ∀ (l : List Nat) on, ((d.vecCycle on).each l Dev.deliver).sump = d.sump := fun l on =>
    (Dev.each_keeps Dev.sump _ Dev.deliver_sump l _).trans (hv on)
  unfold Dev.settleEvt
  split
  · dsimp only
    split
    · exact hd ..
    · rw [Dev.count_sump, Dev.set_sump, Dev.set_sump, Dev.sump_onCyc]
      exact hd ..
  · rfl

theorem Dev.settle_latch (d : Dev) : d.settle.sump.latchStroke = d.sump.latchStroke :=
  (congrArg Sump.latchStroke (Dev.settleEvt_sump _)).trans (Dev.settleSump_latch d)

theorem Dev.body_org (d : Dev) : d.body.org = d.org := rfl

theorem Dev.settle_org (d : Dev) : d.settle.org = d.org := by
  rw [← Dev.body_org, Dev.settle_body, Dev.body_org]

theorem Dev.settle_tally (d : Dev) : d.settle.tally = d.tally := by
  simp only [Dev.tally, Dev.settle_org, Dev.settle_latch]

/-! ### D-states -/

theorem Dev.tally_onRst (d : Dev) (f : Rst → Rst) : (d.onRst f).tally = d.tally := rfl
theorem Dev.tally_mainClear (d : Dev) : d.mainClear.tally = d.tally := rfl
theorem Dev.tally_keepOpt (d was : Dev) : (d.keepOpt was).tally = d.tally := rfl

/-- What a reset of the main domain leaves is not released. -/
theorem Dev.mainClear_keepOpt_mainUp (d was : Dev) : ((d.mainClear).keepOpt was).rst.mainUp = false := rfl

/-- Entry to D2 resets the main domain, and the origin counts on (R541, R543). -/
theorem Dev.enterD2_marks (d : Dev) : d.enterD2.tally = d.tally ∧ d.enterD2.rst.d2 = true ∧ d.enterD2.rst.mainUp = false := by
  unfold Dev.enterD2
  have ht : (((d.imgCut true).settle.mainClear).keepOpt d).tally = d.tally := by
    rw [Dev.tally_keepOpt, Dev.tally_mainClear, Dev.settle_tally, Dev.tally_of_beat (Dev.beat_imgCut ..)]
  have hm := Dev.mainClear_keepOpt_mainUp (d.imgCut true).settle d
  generalize ((d.imgCut true).settle.mainClear).keepOpt d = m at ht hm
  extract_lets d₁ d₂
  have hb : ∀ v, (d₂.set R.DDR_STAT_SR_B v).beat = m.beat := fun v =>
    (Dev.beat_set _ _ (by decide)).trans ((Dev.beat_set _ _ (by decide)).trans (Dev.beat_dcoHold ..))
  refine ⟨?_, rfl, ?_⟩
  · rw [Dev.tally_onRst, Dev.tally_of_beat (hb _), ht]
  · exact (congrArg Rst.mainUp (Dev.rst_of_beat (hb _))).trans hm

theorem Dev.beat_pwrBoundary {d : Dev} (h : d.rst.pwrPend = none) : d.pwrBoundary.beat = d.beat := by
  unfold Dev.pwrBoundary
  rw [h]
  exact Dev.beat_regate d

theorem Dev.tally_pwrBoundary (d : Dev) : d.pwrBoundary.tally = d.tally := by
  unfold Dev.pwrBoundary
  split
  · exact Dev.tally_of_beat (Dev.beat_regate d)
  · extract_lets d₁ d₂
    have h₁ : d₁.tally = d.tally := (Dev.tally_onRst ..).trans (Dev.tally_of_beat (Dev.beat_set _ _ (by decide)))
    have h₂ : d₂.beat = d₁.beat := Dev.beat_each (fun _ _ => by simp [↓apply_ite Dev.beat]) _ _
    split
    · exact d₁.enterD2_marks.1.trans h₁
    · split
      · exact (Dev.tally_of_beat (by simp (disch := decide))).trans h₁
      · exact (Dev.tally_of_beat (by simp (disch := decide) [h₂])).trans h₁

theorem Dev.pwrBoundary_d2 {d : Dev} (h : d.rst.pwrPend = some 2) : d.pwrBoundary.rst.d2 = true ∧ d.pwrBoundary.rst.mainUp = false := by
  unfold Dev.pwrBoundary
  rw [h]
  exact (Dev.enterD2_marks _).2

/-! ### The main-domain part of a boundary -/

/-- The main-domain part of a boundary changes the beat only in the change of D-state. -/
theorem Dev.beat_boundaryMain (d : Dev) (env : Option BoundaryIn) : ∃ m : Dev, m.beat = d.beat ∧ (d.boundaryMain env).beat = m.pwrBoundary.beat := by
  unfold Dev.boundaryMain
  extract_lets d₁ d₂ m p
  have h₁ : d₁.beat = d.beat := by cases env <;> simp [d₁]
  have hm : m.beat = d.beat := by simp [m, d₂, h₁, ↓apply_ite Dev.beat]
  refine ⟨m, hm, ?_⟩
  split
  · rfl
  rename_i t flushed q₁ q₂ c₁ q₃ b₁ e₁ _
  have ht : t.beat = p.beat := Dev.beat_handTriggers p
  have hq₁ : q₁.beat = t.beat := Dev.beat_each (fun _ _ => Dev.beat_qBoundary ..) _ _
  have hc : c₁.beat = q₁.beat := (Dev.beat_cisBoundary _).trans (Dev.beat_pumpBoundary _)
  have hq₃ : q₃.beat = c₁.beat := Dev.beat_each (fun _ _ => Dev.beat_qBoundary ..) _ _
  have hb : b₁.beat = q₃.beat := by cases env <;> simp [b₁]
  have he : e₁.beat = b₁.beat := (Dev.beat_cmpBoundary _).trans ((Dev.beat_toneBoundary _).trans (Dev.beat_cnvBoundary _))
  rw [Dev.beat_egBoundary, he, hb, hq₃, hc, hq₁, ht]

/-! ### The boundary -/

@[simp] theorem Dev.beat_strokeTick (d : Dev) : d.strokeTick.beat = d.beat := by
  simp (disch := decide) [Dev.strokeTick, ↓apply_ite Dev.beat]

@[simp] theorem Dev.beat_censusSample (d : Dev) : d.censusSample.beat = d.beat :=
  (Dev.beat_mk ..).trans (Dev.beat_set _ _ (by decide))

theorem Dev.evs_censusSample (d : Dev) : d.censusSample.evs = d.evs := rfl

/-- A boundary before the tick and the census of its main domain. -/
def Dev.boundaryBlocks (d : Dev) (env : Option BoundaryIn) : Dev :=
  (Dev.when (d.boundaryKa env).rst.mainUp (·.boundaryMain env) (d.boundaryKa env)).linesBoundary.outsBoundary

theorem Dev.boundary_eq (d : Dev) (env : Option BoundaryIn) :
    d.boundary env = Dev.when (d.boundaryBlocks env).rst.mainUp (fun d => d.strokeTick.censusSample) (d.boundaryBlocks env) := rfl

theorem Dev.beat_boundary (d : Dev) (env : Option BoundaryIn) : (d.boundary env).beat = (d.boundaryBlocks env).beat := by
  rw [Dev.boundary_eq]
  unfold Dev.when
  split
  · exact (Dev.beat_censusSample _).trans (Dev.beat_strokeTick _)
  · rfl

section
variable {d : Dev} {env : Option BoundaryIn} (hm : d.rst.mainUp = true)
include hm

/-- A boundary changes the beat only in the latch and in the change of D-state. -/
theorem Dev.beat_boundaryBlocks :
    ∃ m : Dev, m.beat = { d.beat with latch := BitVec.ofNat 32 d.org.num } ∧ (d.boundaryBlocks env).beat = m.pwrBoundary.beat := by
  have hk := d.beat_boundaryKa env
  have hu : (d.boundaryKa env).rst.mainUp = true := (congrArg (fun b : Beat => b.rst.mainUp) hk).trans hm
  obtain ⟨m, h, hp⟩ := (d.boundaryKa env).beat_boundaryMain env
  refine ⟨m, h.trans hk, ?_⟩
  unfold Dev.boundaryBlocks
  rw [Dev.beat_outsBoundary, Dev.beat_linesBoundary, hu, Dev.when_true, hp]

/-- R43, R596: a boundary counts neither stroke nor cycle itself, and the backup domain latches the stroke. -/
theorem Dev.tally_boundary : (d.boundary env).tally = (d.org.num, d.org.cc, BitVec.ofNat 32 d.org.num) := by
  obtain ⟨m, hb, hp⟩ := Dev.beat_boundaryBlocks (env := env) hm
  have h := m.tally_pwrBoundary
  rw [← Dev.tally_of_beat ((d.beat_boundary env).trans hp)] at h
  exact h.trans (congrArg (fun b : Beat => (b.num, b.cc, b.latch)) hb)

/-- Entry to D2 at the boundary resets the main domain (R541, R543). -/
theorem Dev.boundary_d2 (hp : d.rst.pwrPend = some 2) : (d.boundary env).rst.d2 = true ∧ (d.boundary env).rst.mainUp = false := by
  obtain ⟨m, hb, h⟩ := Dev.beat_boundaryBlocks (env := env) hm
  have hr : m.rst = d.rst := congrArg Beat.rst hb
  rw [Dev.rst_of_beat ((d.beat_boundary env).trans h)]
  exact Dev.pwrBoundary_d2 (hr ▸ hp)

section
variable (hp : d.rst.pwrPend = none)
include hp

/-- A boundary without a change of D-state keeps the beat but for the latch. -/
theorem Dev.beat_boundaryBlocks_of_noPend : (d.boundaryBlocks env).beat = { d.beat with latch := BitVec.ofNat 32 d.org.num } := by
  obtain ⟨m, hb, h⟩ := Dev.beat_boundaryBlocks (env := env) hm
  have hr : m.rst = d.rst := congrArg Beat.rst hb
  rw [h, Dev.beat_pwrBoundary (hr ▸ hp), hb]

theorem Dev.beat_boundary_of_noPend : (d.boundary env).beat = { d.beat with latch := BitVec.ofNat 32 d.org.num } :=
  (d.beat_boundary env).trans (Dev.beat_boundaryBlocks_of_noPend hm hp)

/-- STK_TICK fires every 2^TICK_DIV strokes (R82). -/
theorem Dev.boundary_tick (h : d.org.num % 2 ^ d.get R.STK_CTL_TICK_DIV = 0) : ∃ e ∈ (d.boundary env).evs, e.num = E.STK_TICK ∧ e.silent = false := by
  have hb := Dev.beat_boundaryBlocks_of_noPend (env := env) hm hp
  have hu : (d.boundaryBlocks env).rst.mainUp = true := (congrArg (fun b : Beat => b.rst.mainUp) hb).trans hm
  have hn : (d.boundaryBlocks env).org.num = d.org.num := congrArg Beat.num hb
  have ht : (d.boundaryBlocks env).get R.STK_CTL_TICK_DIV = d.get R.STK_CTL_TICK_DIV := congrArg Beat.tickDiv hb
  rw [Dev.boundary_eq, hu, Dev.when_true, Dev.evs_censusSample, Dev.strokeTick, hn, ht, if_pos h, Dev.evs_ev]
  exact ⟨_, List.mem_append_right _ List.mem_cons_self, rfl, rfl⟩

end
end

/-! ### EN, REORIGIN and the latched number -/

/-- A step of an access that changes fields of the stroke registers only, RUNNING not among them, and raises no event. -/
theorem State.ended_leaves {s : State} {req : Requester} (h : Ready s req) {d' : Dev} {w : When} {fs : List Fld} {g : Dev → Dev}
    (hg : ∀ f, (∀ x ∈ fs, f.key ≠ x.key) → d'.get f = s.dev.get f)
    (hf : ∀ x ∈ fs, R.STK_CTL_EN.key ≤ x.key ∧ x.key ≠ R.STK_STAT_RUNNING.key)
    (he : d'.evs = s.dev.evs) (hr : d'.rst.mainUp = s.dev.rst.mainUp) (hi : d'.img.active = s.dev.img.active)
    (hd : { d'.body with reply := {} } = (g (s.dev.at w)).body) : Leaves s (s.ended d') w fs [] g := by
  obtain ⟨hreach, hevs⟩ := h
  have hlow : ∀ f : Fld, f.key < R.STK_CTL_EN.key → d'.get f = s.dev.get f := fun f hk => hg f (fun x hx => by have := hf x hx; omega)
  refine ⟨State.ended_keeps s d' fs hg, ?_, ?_⟩
  · refine State.ended_raises' s d' [] (Dev.reach_mainUp hreach) (fun k hk => hlow _ ?_) hr hi (hlow _ (by decide)) (hlow _ (by decide))
      (hg _ (fun x hx => (hf x hx).2.symm)) (by rw [he, hevs]; rfl) (by simp)
    simp only [Fld.key, R.EVT_RAW_BITS, R.STK_CTL_EN]; omega
  · unfold Does
    rw [State.ended_body]
    exact hd

theorem Dev.at_clkValid (d : Dev) (w : When) : (d.at w).clkValid = d.clkValid := rfl

/-- EN of an origin that is not enabled asks for it where the clock is valid (R46, R47). -/
theorem Dev.stkEn_eq {d : Dev} (h : d.flag R.STK_CTL_EN = false) :
    d.stkEn = if d.clkValid then (d.set R.STK_CTL_EN 1).onOrg (fun o => { o with enReq := some d.xoNs })
      else (d.set R.STK_CTL_EN 1).set R.STK_STAT_CLK_INVALID 1 := by
  have hv : (d.set R.STK_CTL_EN 1).clkValid = d.clkValid := by
    simp only [Dev.clkValid, Dev.flag, Dev.get_set_ne (f := R.TIME_STAT_VALID) (g := R.STK_CTL_EN) _ _ (by decide)]
  unfold Dev.stkEn
  rw [h, if_neg (by decide)]
  dsimp only
  rw [hv]
  rfl

theorem Dev.readReg_numHi (d : Dev) (req : Requester) {v : Word} (h : d.org.numLatch = some v) :
    d.readReg req 0x00100014 = (v, d.onOrg (fun o => { o with numLatch := none })) := by
  have hp : d.readPop 0x00100014 = tookLatch d.org.numLatch (d.onOrg (fun o => { o with numLatch := none })) := rfl
  unfold Dev.readReg
  rw [if_neg (by decide), if_neg (by decide), hp, h]
  rfl

section
variable {s : State} {w : When} {req : Requester} (h : Ready s req)
include h

/-- R46: EN with a valid clock asks for the origin, and without one reads back with CLK_INVALID. -/
theorem stkEn_answers (ho : (s.dev.at w).oper req = true) (hen : s.dev.flag R.STK_CTL_EN = false) :
    Answers (.stkEn w req) s (fun t => t.dev.get R.STK_CTL_EN = 1 ∧
      (s.dev.clkValid = true → Leaves s t w [R.STK_CTL_EN] [] (fun d => d.onOrg (fun o => { o with enReq := some d.xoNs }))) ∧
      (s.dev.clkValid = false → t.dev.get R.STK_STAT_CLK_INVALID = 1 ∧ Leaves s t w [R.STK_CTL_EN, R.STK_STAT_CLK_INVALID] [] id)) := by
  have hx : exec (.stkEn w req) s = s.runReq w req (fun d => if d.oper req then d.stkEn else d.denied) := rfl
  have hfe : (s.dev.at w).flag R.STK_CTL_EN = false := hen
  refine State.answers_req hx h.1 _ (by rw [if_pos ho, Dev.stkEn_eq hfe, Dev.at_clkValid]) ?_
  have hget : ∀ f, f.key ≠ R.STK_CTL_EN.key → ((s.dev.at w).set R.STK_CTL_EN 1).get f = s.dev.get f := fun f hf => Dev.get_set_ne _ _ hf
  have hone : ((s.dev.at w).set R.STK_CTL_EN 1).get R.STK_CTL_EN = 1 := Dev.get_set_self _ _ _ (by decide)
  cases hc : s.dev.clkValid with
  | true =>
    refine ⟨(State.ended_get _ _ _ (by decide)).trans hone, fun _ => ?_, nofun⟩
    exact State.ended_leaves h (fun f hf => hget f (hf _ (by simp))) (by decide) rfl rfl rfl rfl
  | false =>
    refine ⟨(State.ended_get _ _ _ (by decide)).trans ((Dev.get_set_ne _ _ (by decide)).trans hone), nofun, fun _ => ⟨?_, ?_⟩⟩
    · exact (State.ended_get _ _ _ (by decide)).trans (Dev.get_set_self _ _ _ (by decide))
    · exact State.ended_leaves h (fun f hf => (Dev.get_set_ne _ _ (hf _ (by simp))).trans (hget f (hf _ (by simp)))) (by decide) rfl rfl rfl rfl

/-- R52: REORIGIN of an origin that runs ends the lost state. -/
theorem reorigin_answers (ho : (s.dev.at w).oper req = true) (hr : s.dev.flag R.STK_STAT_RUNNING = true) :
    Answers (.reorigin w req) s (fun t => Leaves s t w [] [] (fun d => d.onOrg (fun o => { o with reorg := true, lost := false }))) := by
  have hx : exec (.reorigin w req) s = s.runReq w req (fun d => if d.oper req then d.reorigin else d.denied) := rfl
  have hrun : (s.dev.at w).flag R.STK_STAT_RUNNING = true := hr
  refine State.answers_req hx h.1 ((s.dev.at w).onOrg (fun o => { o with reorg := true, lost := false })) (by rw [if_pos ho, Dev.reorigin, if_pos hrun]) ?_
  exact State.ended_leaves h (fun _ _ => rfl) (by simp) rfl rfl rfl rfl

/-- R53: a read of STK_NUM_LO gives the stroke's number and latches its high word. -/
theorem stkNumLoRead_answers : Answers (.stkNumLoRead w req) s (fun t =>
    t.dev.reply.words = [BitVec.ofNat 32 s.dev.org.num] ∧ Keeps s t [] ∧ RaisesJust s t [] ∧
      t.dev.org.numLatch = some (BitVec.ofNat 32 (s.dev.org.num / 2 ^ 32))) := by
  have hx : exec (.stkNumLoRead w req) s = s.runReq w req (fun d => let x := d.numLo; { x.2 with reply := { words := [x.1] } }) := rfl
  refine State.answers_req hx h.1 _ rfl ?_
  have hb := State.ended_body s { (s.dev.at w).numLo.2 with reply := { words := [(s.dev.at w).numLo.1] } }
  have hl := State.ended_leaves h (w := w) (d' := { (s.dev.at w).numLo.2 with reply := { words := [(s.dev.at w).numLo.1] } }) (fs := [])
    (g := fun d => d.numLo.2) (fun _ _ => rfl) (by simp) rfl rfl rfl rfl
  obtain ⟨hk, hr, -⟩ := hl
  exact ⟨congrArg (fun d : Dev => d.reply.words) hb, hk, hr, congrArg (fun d : Dev => d.org.numLatch) hb⟩

/-- R53: the next read of STK_NUM_HI returns the latched word, and the latch is empty. -/
theorem rcRead_numHi_answers {v : Word} (hv : s.dev.org.numLatch = some v) :
    Answers (.rcRead w req 0x00100014) s (fun t => t.dev.reply.words = [v] ∧ t.dev.org.numLatch = none) := by
  have hx : exec (.rcRead w req 0x00100014) s = s.runReq w req (fun d => Dev.replyWord (d.readReg req 0x00100014)) := rfl
  refine State.answers_req hx h.1 _ (by rw [Dev.readReg_numHi (s.dev.at w) req hv]) ?_
  have hb := State.ended_body s (Dev.replyWord (v, (s.dev.at w).onOrg (fun o => { o with numLatch := none })))
  exact ⟨congrArg (fun d : Dev => d.reply.words) hb, congrArg (fun d : Dev => d.org.numLatch) hb⟩

end

/-! ### The start of the origin and its boundaries -/

theorem Dev.mediaEv_tally (d : Dev) (b : Bool) : (d.mediaEv b).tally = d.tally := by
  unfold Dev.mediaEv
  split <;> rfl

theorem State.ended_tally (s : State) (d' : Dev) : (s.ended d').dev.tally = d'.tally :=
  (Dev.settle_tally _).trans (Dev.mediaEv_tally ..)

theorem Dev.body_rst (d : Dev) : d.body.rst = d.rst := rfl

theorem State.ended_rst (s : State) (d' : Dev) : (s.ended d').dev.rst = d'.rst := by
  rw [← Dev.body_rst, State.ended_body, Dev.body_rst]

/-- An event that a step has raised is in EVT_RAW when it ends. -/
theorem State.ended_raised (s : State) {d' : Dev} (hm : d'.rst.mainUp = true) {n : Nat} (hn : n < 256)
    (h : ∃ e ∈ d'.evs, e.num = n ∧ e.silent = false) : Raised (s.ended d') n := by
  obtain ⟨e, he, rfl, hs⟩ := h
  have hmid : (d'.mediaEv s.dev.media).rst.mainUp = true ∧ e ∈ (d'.mediaEv s.dev.media).evs := by
    unfold Dev.mediaEv
    split
    · exact ⟨hm, he⟩
    · exact ⟨hm, by rw [Dev.evs_ev]; exact List.mem_append_left _ he⟩
  exact Dev.settle_raw _ hmid.1 e hmid.2 hs hn

/-- The origin starts: its first stroke takes the number of the nearest ideal boundary (R43, R46). -/
def Dev.originBegun (d : Dev) : Dev :=
  (((d.onOrg (fun o => { o with num := (strokeErr d.now48 d.phaseReg).2.toNat, cc := 0, enReq := none, lost := false })).set R.STK_STAT_RUNNING 1).set
    R.STK_NUM_BIAS_BIAS 0).ev E.ORIGIN_START

theorem Dev.originStart_eq {d : Dev} {r : Nat} (hreq : d.org.enReq = some r) (hr : d.flag R.STK_STAT_RUNNING = false) (hv : d.clkValid = true)
    (hx : r + 1000000 ≤ d.xoNs) : d.originStart = d.originBegun.boundary none := by
  have hx' : ¬ d.xoNs < r + 1000000 := by omega
  unfold Dev.originStart
  rw [hreq]
  dsimp only
  rw [hr, hv, decide_eq_false hx', if_neg (by decide)]
  rfl

theorem Dev.originBegun_num (d : Dev) : d.originBegun.org.num = (strokeErr d.now48 d.phaseReg).2.toNat := rfl

theorem Dev.originBegun_running (d : Dev) : d.originBegun.get R.STK_STAT_RUNNING = 1 := by
  unfold Dev.originBegun
  rw [Dev.get_ev, Dev.get_set_ne _ _ (by decide), Dev.get_set_self _ _ _ (by decide)]; rfl

/-- A beat that has begun tells that ORIGIN_START is among the events. -/
theorem Dev.begun_iff (d : Dev) : d.beat.begun = true ↔ ∃ e ∈ d.evs, e.num = E.ORIGIN_START ∧ e.silent = false := by
  simp [Dev.beat]

theorem Dev.originBegun_begun (d : Dev) : d.originBegun.beat.begun = true := by
  rw [Dev.begun_iff]
  unfold Dev.originBegun
  rw [Dev.evs_ev]
  exact ⟨_, List.mem_append_right _ List.mem_cons_self, rfl, rfl⟩

/-- A boundary of an origin that runs: the number counts on, and the cycle begins at 0 (R44, R45). -/
def Dev.nextStroke (d : Dev) : Dev := d.onOrg (fun o => { o with num := o.num + 1, cc := 0 })

theorem exec_strokeBoundary {s : State} (w : When) (hk : s.dev.rst.kaUp = true) (env : BoundaryIn) (hr : s.dev.flag R.STK_STAT_RUNNING = true) :
    exec (.strokeBoundary w env) s = .next { s.ended ((s.dev.at w).nextStroke.boundary (some env)) with
      otp := if ((s.dev.at w).nextStroke.boundary (some env)).rst.d2 && !(s.dev.at w).nextStroke.rst.d2 then (s.dev.at w).nextStroke.otpCut s.otp
        else s.otp } := by
  have hc : ((s.dev.at w).rst.kaUp && (s.dev.at w).flag R.STK_STAT_RUNNING) = true := by
    rw [Dev.at_kaUp, Dev.at_flag, hk, hr]; rfl
  show execStrokeBoundary w env s = _
  unfold execStrokeBoundary State.runOtp State.ended Dev.nextStroke
  dsimp only
  rw [if_pos hc]

section
variable {s : State} (w : When) (hs : Running s) (hk : s.dev.rst.kaUp = true)
include hs hk

/-- R43, R46: an origin that is asked for 1 ms or more starts at a boundary with the number of the nearest ideal one. -/
theorem originStart_answers {r : Nat} (hreq : s.dev.org.enReq = some r) (hx : r + 1000000 ≤ (s.dev.at w).xoNs)
    (hr : s.dev.flag R.STK_STAT_RUNNING = false) (hv : s.dev.clkValid = true) (hp : s.dev.rst.pwrPend = none) :
    Answers (.originStart w) s (fun t => t.dev.get R.STK_STAT_RUNNING = 1 ∧ Raised t E.ORIGIN_START ∧
      t.dev.org.num = (strokeErr (s.dev.at w).now48 (s.dev.at w).phaseReg).2.toNat) := by
  have he : exec (.originStart w) s = s.runKa w Dev.originStart := rfl
  refine State.answers_ka he hk _ (Dev.originStart_eq hreq hr hv hx) ?_
  have hm : (s.dev.at w).originBegun.rst.mainUp = true := hs.1
  have hb := Dev.beat_boundary_of_noPend (d := (s.dev.at w).originBegun) (env := none) hm hp
  generalize (s.dev.at w).originBegun.boundary none = d' at hb ⊢
  have hrun : d'.get R.STK_STAT_RUNNING = 1 := (congrArg Beat.running hb).trans (Dev.originBegun_running _)
  have hup : d'.rst.mainUp = true := (congrArg (fun b : Beat => b.rst.mainUp) hb).trans hm
  have hbegun := (Dev.begun_iff _).mp ((congrArg Beat.begun hb).trans (Dev.originBegun_begun _))
  have hnum : d'.org.num = (s.dev.at w).originBegun.org.num := congrArg Beat.num hb
  refine ⟨(State.ended_get _ _ _ (by decide)).trans hrun, State.ended_raised s hup (by decide) hbegun, ?_⟩
  rw [← Dev.originBegun_num, ← hnum]
  exact congrArg Prod.fst (State.ended_tally s d')

/-- R43, R44, R82, R541, R596: a boundary counts the stroke on, its cycle begins at 0, the backup domain latches its number and STK_TICK fires; the OTP is as before but
where the part enters D2, which resets the main domain. -/
theorem strokeBoundary_answers (env : BoundaryIn) (hr : s.dev.flag R.STK_STAT_RUNNING = true) :
    Answers (.strokeBoundary w env) s (fun t =>
      t.dev.org.num = s.dev.org.num + 1 ∧ t.dev.org.cc = 0 ∧ t.dev.sump.latchStroke = BitVec.ofNat 32 (s.dev.org.num + 1) ∧
      (s.dev.rst.pwrPend = none → t.otp = s.otp ∧ t.dev.rst.mainUp = true ∧
        ((s.dev.org.num + 1) % 2 ^ s.dev.get R.STK_CTL_TICK_DIV = 0 → Raised t E.STK_TICK)) ∧
      (s.dev.rst.pwrPend = some 2 → t.dev.rst.d2 = true ∧ t.dev.rst.mainUp = false)) := by
  have he := exec_strokeBoundary w hk env hr
  generalize hd' : (s.dev.at w).nextStroke.boundary (some env) = d' at he
  have hm : (s.dev.at w).nextStroke.rst.mainUp = true := hs.1
  have ht := (State.ended_tally s d').trans (hd' ▸ Dev.tally_boundary (env := some env) hm)
  refine ⟨_, he, congrArg (fun x => x.1) ht, congrArg (fun x => x.2.1) ht, congrArg (fun x => x.2.2) ht, fun hp => ?_, fun hp => ?_⟩
  · have hb := Dev.beat_boundary_of_noPend (env := some env) hm hp
    rw [hd'] at hb
    have hrst : d'.rst = (s.dev.at w).nextStroke.rst := congrArg Beat.rst hb
    have hup : d'.rst.mainUp = true := (congrArg Rst.mainUp hrst).trans hm
    refine ⟨?_, (congrArg Rst.mainUp (State.ended_rst s d')).trans hup, fun hn => ?_⟩
    · rw [hrst, Bool.and_not_self]; rfl
    · exact State.ended_raised s hup (by decide) (hd' ▸ Dev.boundary_tick (env := some env) hm hp hn)
  · have hb := Dev.boundary_d2 (env := some env) hm hp
    rw [hd'] at hb
    exact ⟨(congrArg Rst.d2 (State.ended_rst s d')).trans hb.1, (congrArg Rst.mainUp (State.ended_rst s d')).trans hb.2⟩

end

/-- Settles O37: an access changes just the origin's own fields, and a boundary changes of its beat (number, cycle, reset state, latch, TICK_DIV, RUNNING) only what the
statement says, since no block's work at the boundary touches the beat. -/
theorem strokeOrigin : Obligations.StrokeOrigin := by
  unfold Obligations.StrokeOrigin
  refine ⟨fun s w req h => ⟨fun ho => ⟨stkEn_answers h ho, reorigin_answers h ho⟩, ?_⟩, fun s w hs hk => ⟨fun r hreq hx hr hv hp => ?_, fun env hr => ?_⟩⟩
  · obtain ⟨t, ht, hw, hkeep, hraise, hl⟩ := stkNumLoRead_answers h (w := w)
    exact ⟨t, ht, hw, hkeep, hraise, fun u w' hu hready => rcRead_numHi_answers hready (hu.trans hl)⟩
  · exact originStart_answers w hs hk hreq hx hr hv hp
  · exact strokeBoundary_answers w hs hk env hr

end Sys2Proof.Machine
end

section
/-! SUPPORT. The latch of a queue descriptor's last two words (R92). -/

namespace Sys2Proof.Machine

/-! ### Reads of a descriptor -/

/-- Word `k` of a descriptor lies in the control space at byte offset `4 * k` of the descriptor (R92, R613). -/
theorem Dev.readReg_desc (d : Dev) (req : Requester) {q k : Nat} (hq : q < 65536) (hk : k < 8) :
    d.readReg req (0x00400000 + 32 * q + 4 * k) = d.qDescRead q k := by
  have hd : isDesc (0x00400000 + 32 * q + 4 * k) = true := decide_eq_true (by omega)
  have hqueue : (0x00400000 + 32 * q + 4 * k - 0x00400000) / 32 = q := by omega
  have hword : (0x00400000 + 32 * q + 4 * k) / 4 % 8 = k := by omega
  unfold Dev.readReg
  rw [if_neg (by omega), if_pos hd, hqueue, hword]

/-- A read of word 5 latches words 6 and 7 as they stand. -/
theorem Dev.qDescRead_five (d : Dev) (q : Nat) :
    d.qDescRead q 5 = (BitVec.ofNat 32 (bits (d.qDesc q) 160 32),
      { d with qf := { d.qf with descLatch6 := some (q, BitVec.ofNat 32 (bits (d.qDesc q) 192 32)),
                                 descLatch7 := some (q, BitVec.ofNat 32 (bits (d.qDesc q) 224 32)) } }) := rfl

/-- A read of word 6 that is latched for this queue takes it from the latch. -/
theorem Dev.qDescRead_six {d : Dev} {q : Nat} {v : Word} (h : d.qf.descLatch6 = some (q, v)) :
    d.qDescRead q 6 = (v, { d with qf := { d.qf with descLatch6 := none } }) := by
  simp [Dev.qDescRead, h]

/-- A read of word 7 that is latched for this queue takes it from the latch. -/
theorem Dev.qDescRead_seven {d : Dev} {q : Nat} {v : Word} (h : d.qf.descLatch7 = some (q, v)) :
    d.qDescRead q 7 = (v, { d with qf := { d.qf with descLatch7 := none } }) := by
  simp [Dev.qDescRead, h]

theorem State.ended_words (s : State) (d' : Dev) : (s.ended d').dev.reply.words = d'.reply.words :=
  (congrArg (fun d : Dev => d.reply.words) (State.ended_body s d') :)

theorem State.ended_qf (s : State) (d' : Dev) : (s.ended d').dev.qf = d'.qf :=
  (congrArg (fun d : Dev => d.qf) (State.ended_body s d') :)

section
variable {s : State} {w : When} {req : Requester} {q : Nat} (h : Ready s req)
include h

/-- A read of word 5 changes nothing but the two latches. -/
theorem descPtrRead_answers : Answers (.descPtrRead w req q) s (fun t =>
    t.dev.reply.words = [BitVec.ofNat 32 (bits (s.dev.qDesc q) 160 32)] ∧ Leaves s t w [] [] (fun d => (d.qDescRead q 5).2) ∧
      t.dev.qf.descLatch6 = some (q, BitVec.ofNat 32 (bits (s.dev.qDesc q) 192 32)) ∧
      t.dev.qf.descLatch7 = some (q, BitVec.ofNat 32 (bits (s.dev.qDesc q) 224 32))) := by
  have hx : exec (.descPtrRead w req q) s =
      s.runReq w req (fun d => let x := d.qDescRead q 5; { x.2 with reply := { x.2.reply with words := [x.1] } }) := rfl
  have hdesc : (s.dev.at w).qDesc q = s.dev.qDesc q := rfl
  refine State.answers_req hx h.1 _ (by rw [Dev.qDescRead_five, hdesc]) ⟨State.ended_words .., ?_, ?_, ?_⟩
  · exact State.ended_leaves h (fun _ _ => rfl) (by simp) rfl rfl rfl rfl
  · rw [State.ended_qf]
  · rw [State.ended_qf]

/-- What a read of a descriptor's word answers, from what it takes and leaves in the queue fabric. -/
theorem rcRead_desc_answers {k : Nat} {v : Word} {d' : Dev} (hq : q < 65536) (hk : k < 8) (hd : (s.dev.at w).qDescRead q k = (v, d')) :
    Answers (.rcRead w req (0x00400000 + 32 * q + 4 * k)) s (fun t => t.dev.reply.words = [v] ∧ t.dev.qf = d'.qf) := by
  have hx : exec (.rcRead w req (0x00400000 + 32 * q + 4 * k)) s =
      s.runReq w req (fun d => Dev.replyWord (d.readReg req (0x00400000 + 32 * q + 4 * k))) := rfl
  refine State.answers_req hx h.1 _ (by rw [Dev.readReg_desc _ _ hq hk, hd]) ?_
  exact ⟨State.ended_words .., State.ended_qf ..⟩

/-- R92: the next read of word 6 returns the latched word, and the latch is empty. -/
theorem rcRead_desc_six_answers {v : Word} (hq : q < 65536) (hv : s.dev.qf.descLatch6 = some (q, v)) :
    Answers (.rcRead w req (0x00400018 + 32 * q)) s (fun t => t.dev.reply.words = [v] ∧ t.dev.qf.descLatch6 = none) := by
  have haddr : 0x00400018 + 32 * q = 0x00400000 + 32 * q + 4 * 6 := by omega
  obtain ⟨t, ht, hwords, hqf⟩ := rcRead_desc_answers h hq (by decide) (Dev.qDescRead_six (d := s.dev.at w) hv)
  exact ⟨t, haddr ▸ ht, hwords, by rw [hqf]⟩

/-- R92: the next read of word 7 returns the latched word, and the latch is empty. -/
theorem rcRead_desc_seven_answers {v : Word} (hq : q < 65536) (hv : s.dev.qf.descLatch7 = some (q, v)) :
    Answers (.rcRead w req (0x0040001C + 32 * q)) s (fun t => t.dev.reply.words = [v] ∧ t.dev.qf.descLatch7 = none) := by
  have haddr : 0x0040001C + 32 * q = 0x00400000 + 32 * q + 4 * 7 := by omega
  obtain ⟨t, ht, hwords, hqf⟩ := rcRead_desc_answers h hq (by decide) (Dev.qDescRead_seven (d := s.dev.at w) hv)
  exact ⟨t, haddr ▸ ht, hwords, by rw [hqf]⟩

end

/-- Settles O9: the read of word 5 fills both latches and changes nothing else, and a read of word 6 or 7 in any later state that still holds its latch takes the
word from there. -/
theorem descriptorLatch : Obligations.DescriptorLatch := by
  unfold Obligations.DescriptorLatch
  intro s w req q hready hq
  obtain ⟨t, ht, hwords, ⟨hkeeps, hraises, -⟩, hlatch6, hlatch7⟩ := descPtrRead_answers hready (w := w) (q := q)
  refine ⟨t, ht, hwords, hkeeps, hraises, fun u w' hu hready' => ?_, fun u w' hu hready' => ?_⟩
  · exact rcRead_desc_six_answers hready' hq (hu.trans hlatch6)
  · exact rcRead_desc_seven_answers hready' hq (hu.trans hlatch7)

end Sys2Proof.Machine
end

section
/-! SUPPORT. The step of a signal cell (R227 to R247): what a command of a cell that runs answers, what it leaves outside the memories, how a cause counts, and
how local memory reads and is written. -/

namespace Sys2Proof.Machine

/-! ### What a command of a cell answers -/

/-- What stands in the device beside the pump with its cells, the reservoir and the queues, and the DDR. -/
def Dev.offMem (d : Dev) : Dev := { d with pump := {}, qf := {}, ddr := {} }

@[simp] theorem Dev.offMem_setCell (d : Dev) (n : Nat) (c : CellRt) : (d.setCell n c).offMem = d.offMem := rfl
@[simp] theorem Dev.offMem_resWrite (d : Dev) (a : Nat) (x : MWord) : (d.resWrite a x).offMem = d.offMem := rfl
@[simp] theorem Dev.offMem_lmWrite (d : Dev) (n a : Nat) (x : MWord) : (d.lmWrite n a x).offMem = d.offMem := rfl
@[simp] theorem Dev.offMem_setAg (d : Dev) (n k : Nat) (g : Ag) : (d.setAg n k g).offMem = d.offMem := rfl

/-- A step of the main domain that touches the memories alone, and answers the reply `r`. -/
theorem State.ended_leaves_reply {s : State} {w : When} {g : Dev → Dev} {d' : Dev} {r : Reply} (hs : Running s)
    (hd : d' = { g (s.dev.at w) with reply := r }) (h : (g (s.dev.at w)).offMem = (s.dev.at w).offMem) : Leaves s (s.ended d') w [] [] g := by
  subst hd
  have hregs : (g (s.dev.at w)).regs = s.dev.regs := (congrArg Dev.regs h :)
  have hreply : (g (s.dev.at w)).body.reply = {} := (congrArg Dev.reply h :)
  refine State.ended_leaves (req := .host) hs (fun f _ => congrArg (fun r : RegStore => r.get f) hregs) (by simp) ?_ ?_ ?_ ?_
  · exact (congrArg Dev.evs h :)
  · exact (congrArg (fun d : Dev => d.rst.mainUp) h :)
  · exact (congrArg (fun d : Dev => d.img.active) h :)
  · exact (congrArg (fun r : Reply => { (g (s.dev.at w)).body with reply := r }) hreply.symm :)

/-- A step of the main domain that touches the memories alone. -/
theorem State.ended_leaves_offMem {s : State} {w : When} {g : Dev → Dev} {d' : Dev} (hs : Running s)
    (hd : d' = g (s.dev.at w)) (h : d'.offMem = (s.dev.at w).offMem) : Leaves s (s.ended d') w [] [] g :=
  State.ended_leaves_reply hs hd (hd ▸ h)

section
variable {s : State} {w : When} {n : Nat} {i : Instr} {f : Dev → Dev} {P : State → Prop} (hs : Running s) (hc : CellRuns s n)
include hs hc

/-- What a command of a cell that runs answers, from the device its effect leaves. -/
theorem State.answers_cell (hx : exec i s = s.runMain w (fun d => d.onCell n f)) (h : P (s.ended (f (s.dev.at w)))) : Answers i s P := by
  obtain ⟨hn, hrun⟩ := hc
  have hrun : (s.dev.at w).halted (.cell n) = false := hrun
  exact State.answers_main hx hs.1 _ (by simp [Dev.onCell, hn, hrun]) h

/-- What an operation on an accumulator of a cell that runs answers. -/
theorem State.answers_acc {m a : Nat} (hm : m < 12) (ha : a < 8) (hx : exec i s = s.runMain w (fun d => d.onAcc n m a f))
    (h : P (s.ended (f (s.dev.at w)))) : Answers i s P :=
  State.answers_cell (f := fun d => if m < 12 && a < 8 then f d else d) hs hc hx (by simpa [hm, ha] using h)

end

theorem State.ended_cell (s : State) (d' : Dev) (n : Nat) : (s.ended d').dev.cell n = d'.cell n :=
  (congrArg (fun d : Dev => d.cell n) (State.ended_body s d') :)

theorem State.ended_reply (s : State) (d' : Dev) : (s.ended d').dev.reply = d'.reply :=
  (congrArg Dev.reply (State.ended_body s d') :)

/-- The fields of a cell's registers lie outside the record of events. -/
theorem evFree_of_addr {f : Fld} (h : 0x01C00000 ≤ f.addr) : evFree f := by
  simp only [evFree, evRec, Fld.key]; omega

/-! ### Causes (R272 to R274) -/

/-- A cause changes registers and raises events, and nothing beside them. -/
@[simp] theorem Dev.body_cause (d : Dev) (n task : Nat) (f en : Fld) (arg : Nat) : (d.cause n task f en arg).body = d.body := by
  simp only [Dev.cause]
  repeat' split
  all_goals rfl

/-- A cause leaves every field but its own bit and CELL_LAST alone. -/
theorem Dev.get_cause_ne (d : Dev) {n : Nat} (task : Nat) {f : Fld} (en : Fld) (arg : Nat) {g : Fld} (hf : g.key ≠ f.key)
    (ht : g.key ≠ (R.CELL_LAST_TASK n).key) (hl : g.key ≠ (R.CELL_LAST_CAUSE n).key) : (d.cause n task f en arg).get g = d.get g := by
  have hev : ∀ (d : Dev) (l : List Ev), ({ d with evs := l } : Dev).get g = d.get g := fun _ _ => rfl
  simp only [Dev.cause]
  repeat' split
  all_goals simp only [hev, Dev.get_set_ne _ _ hf, Dev.get_set_ne _ _ ht, Dev.get_set_ne _ _ hl]

/-- A cause sets its bit. -/
theorem Dev.get_cause_self (d : Dev) {n : Nat} (task : Nat) {f : Fld} (en : Fld) (arg : Nat) (hw : f.width = 1)
    (ht : f.key ≠ (R.CELL_LAST_TASK n).key) (hl : f.key ≠ (R.CELL_LAST_CAUSE n).key) : (d.cause n task f en arg).get f = 1 := by
  have hone : (d.set f 1).get f = 1 := by simp [Dev.get_set_self, hw]
  have hev : ∀ (d : Dev) (l : List Ev), ({ d with evs := l } : Dev).get f = d.get f := fun _ _ => rfl
  simp only [Dev.cause]
  repeat' split
  all_goals simp only [hev, Dev.get_set_ne _ _ ht, Dev.get_set_ne _ _ hl, hone]

theorem Dev.get_lt (d : Dev) (f : Fld) : d.get f < 2 ^ 32 := BitVec.isLt _

/-- A counter of a cell counts `k` more, up to its end. -/
theorem Dev.get_count_cellCnt (d : Dev) (n c k : Nat) :
    (d.count (R.CELL_CNT_COUNT n c) k).get (R.CELL_CNT_COUNT n c) = min (d.get (R.CELL_CNT_COUNT n c) + k) (2 ^ 32 - 1) := by
  have hw : (R.CELL_CNT_COUNT n c).width = 32 := rfl
  rw [Dev.get_count, Dev.get_set_self _ _ _ (Nat.le_of_eq hw), hw]
  omega

/-- A cause of CELL_EVT_STAT leaves the cell's counters alone. -/
theorem Dev.get_cause_cellCnt (d : Dev) (n c task : Nat) {f : Fld} (en : Fld) (arg : Nat) (hf : f.addr = 0x01C00008 + 65536 * n) (hlo : f.lo < 32) :
    (d.cause n task f en arg).get (R.CELL_CNT_COUNT n c) = d.get (R.CELL_CNT_COUNT n c) := by
  refine Dev.get_cause_ne d task en arg ?_ ?_ ?_
  all_goals simp only [Fld.key, R.CELL_CNT_COUNT, R.CELL_LAST_TASK, R.CELL_LAST_CAUSE]; omega

/-- A cause sets its bit of CELL_EVT_STAT. -/
theorem Dev.get_cause_stat (d : Dev) (n task : Nat) {f : Fld} (en : Fld) (arg : Nat) (hf : f.addr = 0x01C00008 + 65536 * n) (hlo : f.lo < 32)
    (hw : f.width = 1) : (d.cause n task f en arg).get f = 1 := by
  refine Dev.get_cause_self d task en arg hw ?_ ?_
  all_goals simp only [Fld.key, R.CELL_LAST_TASK, R.CELL_LAST_CAUSE]; omega

/-! ### Local memory (R246, R266) -/

/-- A word that the kernel has not written in this cell's last cycle is read as it stands. -/
theorem Dev.lmSees_of_old {d : Dev} {n a : Nat} (h : kvGet a (d.cell n).cyc.old = none) :
    d.lmSees n a = (kvD (d.cell n).lm a 0, (d.cell n).lmUe.contains a, (d.cell n).lmCe.contains a) := by
  have hnow : kvGet a ((d.cell n).cyc.now d.stamp).old = none := by
    unfold CellCyc.now
    split
    · exact h
    · rfl
  simp only [Dev.lmSees, hnow, Option.getD_none]

/-- A word of local memory without an error reads as it stands, and the read does nothing else. -/
theorem Dev.lmRead_clean {d : Dev} {n a : Nat} (h : (d.cell n).Clean a 1) : d.lmRead n a = (kvD (d.cell n).lm a 0, d) := by
  obtain ⟨hu, hc, ho⟩ := h.2 a (by omega) (by omega)
  simp only [Dev.lmRead, Dev.lmSees_of_old ho, hu, hc, Bool.false_eq_true, if_false]

/-- The first word of a run without errors, and the words after it. -/
theorem CellRt.clean_succ {c : CellRt} {a k : Nat} (h : c.Clean a (k + 1)) : c.Clean a 1 ∧ c.Clean (a + 1) k :=
  ⟨⟨by have := h.1; omega, fun x h1 h2 => h.2 x h1 (by omega)⟩, ⟨by have := h.1; omega, fun x h1 h2 => h.2 x (by omega) (by omega)⟩⟩

theorem CellRt.words_succ (c : CellRt) (a k : Nat) : c.words a (k + 1) = kvD c.lm a 0 :: c.words (a + 1) k := by
  simp only [CellRt.words, List.range_succ_eq_map, List.map_cons, List.map_map, Nat.add_zero, List.cons.injEq, true_and]
  exact List.map_congr_left (fun x _ => by simp only [Function.comp, Nat.succ_eq_add_one]; rw [Nat.add_assoc, Nat.add_comm 1 x])

/-- A run of words of local memory without errors reads as it stands, and the read does nothing else. -/
theorem Dev.lmReadN_clean {d : Dev} {n a k : Nat} (h : (d.cell n).Clean a k) : d.lmReadN n a k = ((d.cell n).words a k, d) := by
  induction k generalizing a with
  | zero => rfl
  | succ k ih =>
    obtain ⟨h1, h2⟩ := CellRt.clean_succ h
    rw [Dev.lmReadN, Dev.lmRead_clean h1]
    dsimp only
    rw [ih h2, CellRt.words_succ]

/-- A word of local memory reads as written. -/
theorem CellRt.write_self (c : CellRt) (a : Nat) (x : MWord) : kvD (c.write a x).lm a 0 = x := kvD_kvPut_self ..

/-- A write leaves every other word of local memory alone. -/
theorem CellRt.write_ne (c : CellRt) {a b : Nat} (x : MWord) (h : b ≠ a) : kvD (c.write a x).lm b 0 = kvD c.lm b 0 := kvD_kvPut_ne h ..

/-- A write of local memory changes its words as `CellRt.write` says, and no accumulator. -/
theorem Dev.lmWrite_lm (d : Dev) (n a : Nat) (x : MWord) : ((d.lmWrite n a x).cell n).lm = ((d.cell n).write a x).lm :=
  (congrArg CellRt.lm (Dev.cell_setCell_self ..) :)

theorem Dev.lmWrite_acc (d : Dev) (n a : Nat) (x : MWord) : ((d.lmWrite n a x).cell n).acc = (d.cell n).acc :=
  (congrArg CellRt.acc (Dev.cell_setCell_self ..) :)

/-- A run of words written to local memory touches the pump's cells alone. -/
theorem Dev.lmWriteN_eq (d : Dev) (n a : Nat) (l : List MWord) : ∃ p, d.lmWriteN n a l = { d with pump := p } := by
  induction l generalizing d a with
  | nil => exact ⟨d.pump, rfl⟩
  | cons x r ih =>
    obtain ⟨p, hp⟩ := ih (d.lmWrite n a x) (a + 1)
    exact ⟨p, hp⟩

@[simp] theorem Dev.offMem_lmWriteN (d : Dev) (n a : Nat) (l : List MWord) : (d.lmWriteN n a l).offMem = d.offMem := by
  obtain ⟨p, hp⟩ := d.lmWriteN_eq n a l
  rw [hp]
  rfl

end Sys2Proof.Machine
end

section
/-! SUPPORT. The accumulators of a signal cell (R227 to R233): operands, the fit of an exact result into 72 bits, and what an overflow leaves. -/

namespace Sys2Proof.Machine

/-! ### Operands (R227, R229, R236) -/

/-- An operand without an error gives its lane, and the read does nothing else. -/
theorem Dev.opLane_clean {d : Dev} {n m : Nat} {x : OpIn} (h : (d.cell n).CleanOp m x) :
    d.opLane n m x = (takeLane ((d.cell n).operand m x) m, d) := by
  cases x with
  | words l => rfl
  | mem l => simp only [Dev.opLane, Dev.lmRead_clean (h : (d.cell n).Clean _ 1), CellRt.operand]

/-- Two operands without an error give the product of their lanes. -/
theorem Dev.opProd_clean {d : Dev} {n m : Nat} {x y : OpIn} (hx : (d.cell n).CleanOp m x) (hy : (d.cell n).CleanOp m y) :
    d.opProd n m x y = (((takeLane ((d.cell n).operand m x) m).1 * (takeLane ((d.cell n).operand m y) m).1,
      (takeLane ((d.cell n).operand m x) m).2 || (takeLane ((d.cell n).operand m y) m).2), d) := by
  simp only [Dev.opProd, Dev.opLane_clean hx, Dev.opLane_clean hy]

/-! ### The fit into 72 bits (R231, R232) -/

/-- The value modulo 2^72, as an accumulator in wrap mode holds it. -/
theorem signedOf_fieldOf_72 (z : Int) : Fits72 (signedOf 72 (fieldOf 72 z)) ∧ (signedOf 72 (fieldOf 72 z) - z) % 2 ^ 72 = 0 := by
  unfold Fits72 signedOf fieldOf
  split <;> omega

/-- A result that fits 72 bits stays as it is, in both modes. -/
theorem accFit_of_fits {z : Int} (wrap : Bool) (h : Fits72 z) : accFit wrap z = (z, false) := by
  obtain ⟨hlo, hhi⟩ := h
  cases wrap with
  | false => simp only [accFit, clampInt, Bool.false_eq_true, if_false, Prod.mk.injEq, decide_eq_false_iff_not]; split <;> omega
  | true =>
    obtain ⟨⟨hl, hh⟩, hmod⟩ := signedOf_fieldOf_72 z
    have heq : signedOf 72 (fieldOf 72 z) = z := by omega
    simp only [accFit, if_true, heq, bne_self_eq_false]

/-- In saturate mode a result that does not fit becomes the nearer limit. -/
theorem accFit_saturate {z : Int} (h : ¬Fits72 z) : accFit false z = (if z < 0 then -(2 ^ 71) else 2 ^ 71 - 1, true) := by
  simp only [accFit, clampInt, Bool.false_eq_true, if_false, Prod.mk.injEq, decide_eq_true_eq]
  constructor
  · repeat' split
    all_goals omega
  · omega

/-- In wrap mode a result that does not fit is taken modulo 2^72. -/
theorem accFit_wrap {z : Int} (h : ¬Fits72 z) : accFit true z = (signedOf 72 (fieldOf 72 z), true) := by
  have hne : signedOf 72 (fieldOf 72 z) ≠ z := fun he => h (he ▸ (signedOf_fieldOf_72 z).1)
  simp only [accFit, if_true, bne_iff_ne.mpr hne]

/-- A result that does not fit is changed, in both modes. -/
theorem accFit_changed {z : Int} (wrap : Bool) (h : ¬Fits72 z) : (accFit wrap z).2 = true := by
  cases wrap with
  | false => rw [accFit_saturate h]
  | true => rw [accFit_wrap h]

/-- An accumulator holds a value that fits it. -/
theorem toInt_ofInt_of_fits {z : Int} (h : Fits72 z) : (BitVec.ofInt 72 z).toInt = z := by
  obtain ⟨hlo, hhi⟩ := h
  rw [BitVec.toInt_ofInt]
  exact Int.bmod_eq_of_le (by omega) (by omega)

/-! ### Writing an accumulator -/

theorem CellRt.accAt_setAcc (c : CellRt) (m a : Nat) (x : AccRt) : (c.setAcc m a x).accAt m a = x := kvD_kvPut_self ..

/-- A result that fits stands in the accumulator, and nothing else changes. -/
theorem Dev.accPut_fits (d : Dev) (n m a : Nat) {z : Int} (p : Bool) (h : Fits72 z) :
    d.accPut n m a z p = d.setCell n ((d.cell n).setAcc m a { v := BitVec.ofInt 72 z, sat := false, poison := p }) := by
  simp [Dev.accPut, accFit_of_fits _ h]

/-- A result that does not fit is limited or wrapped, and ACC_OVF is set. -/
theorem Dev.accPut_overflow (d : Dev) (n m a : Nat) {z : Int} (p : Bool) (h : ¬Fits72 z) :
    d.accPut n m a z p =
      (d.setCell n ((d.cell n).setAcc m a { v := BitVec.ofInt 72 (accFit (d.accWrap n) z).1, sat := !d.accWrap n, poison := p })).accOvf n m := by
  simp [Dev.accPut, accFit_changed _ h]

/-- An overflow leaves the accumulators as they are and sets the lane's flag. -/
theorem Dev.accOvf_cell (d : Dev) (n m : Nat) :
    ((d.accOvf n m).cell n).acc = (d.cell n).acc ∧ ((d.accOvf n m).cell n).ovf = (d.cell n).ovf ||| BitVec.ofNat 12 (2 ^ m) := by
  have hcell : (d.accOvf n m).cell n = { d.cell n with
      ovf := (d.cell n).ovf ||| BitVec.ofNat 12 (2 ^ m), ovfSeen := true
      cyc := { (d.cell n).cyc.now d.stamp with ovf := ((d.cell n).cyc.now d.stamp).ovf ||| BitVec.ofNat 12 (2 ^ m) } } :=
    ((congrArg (fun d : Dev => d.cell n) (Dev.body_cause ..) :)).trans (Dev.cell_setCell_self ..)
  rw [hcell]
  exact ⟨rfl, rfl⟩

/-- An overflow sets the lane's bit of CELL_ACC_OVF. -/
theorem Dev.accOvf_lanes (d : Dev) (n : Nat) {m : Nat} (hm : m < 12) : bit ((d.accOvf n m).get (R.CELL_ACC_OVF_LANES n)) m = true := by
  unfold Dev.accOvf
  extract_lets c y d₁
  rw [Dev.get_cause_ne]
  · rw [Dev.orFld, Dev.get_markHw, Dev.get_set_self _ _ _ (by decide : 12 ≤ 32), bit_eq_testBit, R.CELL_ACC_OVF_LANES, Nat.testBit_mod_two_pow,
      Nat.testBit_or, Nat.testBit_two_pow_self]
    simp [hm]
  all_goals simp only [Fld.key, R.CELL_ACC_OVF_LANES, R.CELL_EVT_STAT_ACC_OVF, R.CELL_LAST_TASK, R.CELL_LAST_CAUSE]; omega

/-- An overflow is a cause of the cell. -/
theorem Dev.accOvf_stat (d : Dev) (n m : Nat) : (d.accOvf n m).get (R.CELL_EVT_STAT_ACC_OVF n) = 1 :=
  Dev.get_cause_stat _ n _ _ _ rfl (by decide : 3 < 32) rfl

/-- The flag of lane `m` after an overflow in it. -/
theorem bit_or_lane (x : BitVec 12) {m : Nat} (hm : m < 12) : bit (x ||| BitVec.ofNat 12 (2 ^ m)).toNat m = true := by
  rw [bit_eq_testBit, BitVec.toNat_or, Nat.testBit_or, BitVec.toNat_ofNat, Nat.testBit_mod_two_pow, Nat.testBit_two_pow_self]
  simp [hm]

/-- The flag of lane `m` after the kernel has cleared it. -/
theorem bit_and_not_lane (x : BitVec 12) {m : Nat} (hm : m < 12) : bit (x &&& ~~~(BitVec.ofNat 12 (2 ^ m))).toNat m = false := by
  have hlane : (BitVec.ofNat 12 (2 ^ m)).getLsbD m = true := by
    rw [BitVec.getLsbD_ofNat, Nat.testBit_two_pow_self, Bool.and_true, decide_eq_true hm]
  rw [bit_eq_testBit, BitVec.testBit_toNat, BitVec.getLsbD_and, BitVec.getLsbD_not, hlane, Bool.not_true, Bool.and_false, Bool.and_false]

/-- The kernel's clear of a flag acts where no overflow has set one in the cell's last cycle. -/
theorem Dev.ovfClear_of_ovf {d : Dev} {n m : Nat} (h : (d.cell n).cyc.ovf = 0) :
    d.ovfClear n m = d.setCell n { d.cell n with ovf := (d.cell n).ovf &&& ~~~(BitVec.ofNat 12 (2 ^ m)) } := by
  have hnow : ((d.cell n).cyc.now d.stamp).ovf = 0 := by
    unfold CellCyc.now
    split
    · exact h
    · rfl
  have hbit : bit (0 : BitVec 12).toNat m = false := by simp [bit_eq_testBit]
  simp only [Dev.ovfClear, hnow, hbit, Bool.false_eq_true, if_false]

@[simp] theorem Dev.offMem_ovfClear (d : Dev) (n m : Nat) : (d.ovfClear n m).offMem = d.offMem := by
  simp only [Dev.ovfClear, apply_ite Dev.offMem, Dev.offMem_setCell, ite_self]

/-- What an operation with the exact result `z` and poison `p` leaves in accumulator `a` of lane `m` (R231 to R233, R236). -/
def AccResult (s t : State) (w : When) (n m a : Nat) (z : Int) (p : Bool) : Prop :=
  (Fits72 z → Leaves s t w [] [] (fun d => d.setCell n ((d.cell n).setAcc m a { v := BitVec.ofInt 72 z, sat := false, poison := p }))) ∧
  (¬Fits72 z →
    (s.dev.accWrap n = false → ((t.dev.cell n).accAt m a).sat = true ∧
      ((t.dev.cell n).accAt m a).v.toInt = if z < 0 then -(2 ^ 71) else 2 ^ 71 - 1) ∧
    (s.dev.accWrap n = true → ((t.dev.cell n).accAt m a).sat = false ∧ (((t.dev.cell n).accAt m a).v.toInt - z) % 2 ^ 72 = 0) ∧
    ((t.dev.cell n).accAt m a).poison = p ∧ bit (t.dev.cell n).ovf.toNat m = true ∧
    bit (t.dev.get (R.CELL_ACC_OVF_LANES n)) m = true ∧ t.dev.get (R.CELL_EVT_STAT_ACC_OVF n) = 1)

/-- An exact result that is written leaves in the accumulator what R231 to R233 say. -/
theorem State.ended_accPut {s : State} {w : When} {n m a : Nat} (z : Int) (p : Bool) (hs : Running s) (hm : m < 12) :
    AccResult s (s.ended ((s.dev.at w).accPut n m a z p)) w n m a z p := by
  have hwrap : (s.dev.at w).accWrap n = s.dev.accWrap n := rfl
  refine ⟨fun hz => ?_, fun hz => ?_⟩
  · rw [Dev.accPut_fits _ _ _ _ _ hz]
    exact State.ended_leaves_offMem hs rfl rfl
  · rw [Dev.accPut_overflow _ _ _ _ _ hz, hwrap, State.ended_cell, State.ended_get _ _ _ (evFree_of_addr (by simp only [R.CELL_ACC_OVF_LANES]; omega)),
      State.ended_get _ _ _ (evFree_of_addr (by simp only [R.CELL_EVT_STAT_ACC_OVF]; omega))]
    generalize hd : (s.dev.at w).setCell n _ = d
    obtain ⟨hacc, hovf⟩ := d.accOvf_cell n m
    have hat : ((d.accOvf n m).cell n).accAt m a = { v := BitVec.ofInt 72 (accFit (s.dev.accWrap n) z).1, sat := !s.dev.accWrap n, poison := p } := by
      rw [CellRt.accAt, hacc, ← hd, Dev.cell_setCell_self]
      exact CellRt.accAt_setAcc ..
    rw [hat, hovf]
    refine ⟨fun h => ?_, fun h => ?_, rfl, bit_or_lane _ hm, d.accOvf_lanes n hm, d.accOvf_stat n m⟩
    · rw [h, accFit_saturate hz]
      exact ⟨rfl, toInt_ofInt_of_fits (by split <;> decide)⟩
    · obtain ⟨hfits, hmod⟩ := signedOf_fieldOf_72 z
      rw [h, accFit_wrap hz, toInt_ofInt_of_fits hfits]
      exact ⟨rfl, hmod⟩

/-! ### The operations (R230) -/

section
variable {d : Dev} {n m a : Nat} {x y : OpIn}

/-- A load of a lane writes it, shifted. -/
theorem Dev.accLoad_lane (k : Nat) (hx : (d.cell n).CleanOp m x) :
    d.accLoad n m a (.lane x) k =
      d.accPut n m a ((takeLane ((d.cell n).operand m x) m).1 * 2 ^ k) (takeLane ((d.cell n).operand m x) m).2 := by
  simp only [Dev.accLoad, Dev.loadVal, Dev.opLane_clean hx]

/-- A load of a product writes it, shifted. -/
theorem Dev.accLoad_prod (k : Nat) (hx : (d.cell n).CleanOp m x) (hy : (d.cell n).CleanOp m y) :
    d.accLoad n m a (.prod x y) k =
      d.accPut n m a ((takeLane ((d.cell n).operand m x) m).1 * (takeLane ((d.cell n).operand m y) m).1 * 2 ^ k)
        ((takeLane ((d.cell n).operand m x) m).2 || (takeLane ((d.cell n).operand m y) m).2) := by
  simp only [Dev.accLoad, Dev.loadVal, Dev.opProd_clean hx hy]

/-- R231: an accumulator in SAT takes no addition. -/
theorem Dev.accAdd_of_sat {v : Int} {p sub : Bool} (h : ((d.cell n).accAt m a).sat = true) : d.accAdd n m a v p sub = d := by
  simp only [Dev.accAdd, h, if_true]

/-- An addition or a subtraction writes the exact sum. -/
theorem Dev.accAdd_of_not_sat (v : Int) (p sub : Bool) (h : ((d.cell n).accAt m a).sat = false) :
    d.accAdd n m a v p sub = d.accPut n m a (((d.cell n).accAt m a).v.toInt + (if sub = true then -v else v)) (((d.cell n).accAt m a).poison || p) := by
  cases sub with
  | false => simp only [Dev.accAdd, h, Bool.false_eq_true, if_false]
  | true => simp only [Dev.accAdd, h, Bool.false_eq_true, if_false, if_true, Int.sub_eq_add_neg]

theorem Dev.accMac_clean (sub : Bool) (hx : (d.cell n).CleanOp m x) (hy : (d.cell n).CleanOp m y) :
    d.accMac n m a x y sub =
      d.accAdd n m a ((takeLane ((d.cell n).operand m x) m).1 * (takeLane ((d.cell n).operand m y) m).1)
        ((takeLane ((d.cell n).operand m x) m).2 || (takeLane ((d.cell n).operand m y) m).2) sub := by
  simp only [Dev.accMac, Dev.opProd_clean hx hy]

theorem Dev.accShifted_clean (k : Nat) (sub : Bool) (hx : (d.cell n).CleanOp m x) :
    d.accShifted n m a x k sub =
      d.accAdd n m a ((takeLane ((d.cell n).operand m x) m).1 * 2 ^ k) (takeLane ((d.cell n).operand m x) m).2 sub := by
  simp only [Dev.accShifted, Dev.opLane_clean hx]

/-- R231: an accumulator in SAT takes no sum over lanes. -/
theorem Dev.accCross_of_sat {mask : BitVec 12} (h : ((d.cell n).accAt m a).sat = true) : d.accCross n m a mask = d := by
  simp only [Dev.accCross, h, if_true]

/-- A sum over lanes is written. -/
theorem Dev.accCross_of_not_sat {mask : BitVec 12} {js : List Nat} (hj : js = (List.range 12).filter (fun j => bit mask.toNat j))
    (h : ((d.cell n).accAt m a).sat = false) :
    d.accCross n m a mask = d.accPut n m a ((js.map (fun j => ((d.cell n).accAt j a).v.toInt)).sum)
      (((d.cell n).accAt m a).poison || js.any (fun j => ((d.cell n).accAt j a).poison)) := by
  simp only [Dev.accCross, h, Bool.false_eq_true, if_false, hj]

end

section
variable {s : State} {w : When} {n m a : Nat} (hs : Running s) (hc : CellRuns s n) (hm : m < 12) (ha : a < 8)
include hs hc hm ha

/-- A clear makes the accumulator 0 and does nothing else. -/
theorem accClear_answers : Answers (.accClear w n m a false) s (fun t => Leaves s t w [] [] (fun d => d.setCell n ((d.cell n).setAcc m a {}))) :=
  State.answers_acc (f := fun d => d.setCell n ((d.cell n).setAcc m a {})) hs hc hm ha rfl (State.ended_leaves_offMem hs rfl rfl)

/-- The kernel clears the flag of a lane, where no overflow of the same cycle has set it (R231, R266). -/
theorem ovfClear_answers : Answers (.accClear w n m a true) s (fun t => Leaves s t w [] [] (fun d => d.ovfClear n m) ∧
    ((s.dev.cell n).cyc.ovf = 0 → bit (t.dev.cell n).ovf.toNat m = false)) := by
  refine State.answers_acc (f := fun d => d.ovfClear n m) hs hc hm ha rfl ⟨State.ended_leaves_offMem hs rfl (Dev.offMem_ovfClear ..), fun h => ?_⟩
  have h' : ((s.dev.at w).cell n).cyc.ovf = 0 := h
  rw [State.ended_cell, Dev.ovfClear_of_ovf h', Dev.cell_setCell_self]
  exact bit_and_not_lane _ hm

/-- An operation whose effect is to write an exact result. -/
theorem State.answers_accPut {c : Instr} {f : Dev → Dev} {z : Int} {p : Bool} (hx : exec c s = s.runMain w (fun d => d.onAcc n m a f))
    (hf : f (s.dev.at w) = (s.dev.at w).accPut n m a z p) : Answers c s (fun t => AccResult s t w n m a z p) :=
  State.answers_acc hs hc hm ha hx (hf ▸ State.ended_accPut z p hs hm)

/-- An operation without an effect leaves everything as it is. -/
theorem State.answers_acc_idle {c : Instr} {f : Dev → Dev} (hx : exec c s = s.runMain w (fun d => d.onAcc n m a f))
    (hf : f (s.dev.at w) = s.dev.at w) : Answers c s (fun t => Leaves s t w [] [] id) :=
  State.answers_acc hs hc hm ha hx (State.ended_leaves_offMem hs hf (congrArg Dev.offMem hf))

section
variable {x y : OpIn} (k : Nat) (sub : Bool) (mask : BitVec 12)

/-- R231: in SAT an addition, a subtraction or a cross-lane sum leaves everything as it is. -/
theorem accSat_answers (hx : (s.dev.cell n).CleanOp m x) (hy : (s.dev.cell n).CleanOp m y) (hsat : ((s.dev.cell n).accAt m a).sat = true) :
    ∀ c ∈ [Instr.accAddProduct w n m a x y sub, .accAddShifted w n m a x k sub, .crossLaneSum w n m a mask],
      Answers c s (fun t => Leaves s t w [] [] id) := by
  have hsat' : (((s.dev.at w).cell n).accAt m a).sat = true := hsat
  have hx' : ((s.dev.at w).cell n).CleanOp m x := hx
  have hy' : ((s.dev.at w).cell n).CleanOp m y := hy
  intro c hmem
  simp only [List.mem_cons, List.not_mem_nil, or_false] at hmem
  obtain rfl | rfl | rfl := hmem
  · exact State.answers_acc_idle (f := fun d => d.accMac n m a x y sub) hs hc hm ha rfl ((Dev.accMac_clean sub hx' hy').trans (Dev.accAdd_of_sat hsat'))
  · exact State.answers_acc_idle (f := fun d => d.accShifted n m a x k sub) hs hc hm ha rfl ((Dev.accShifted_clean k sub hx').trans (Dev.accAdd_of_sat hsat'))
  · exact State.answers_acc_idle (f := fun d => d.accCross n m a mask) hs hc hm ha rfl (Dev.accCross_of_sat hsat')

end
end

/-- Settles O11: an operation of R230 is a write of its exact result, and a write leaves what R231 to R233 say; an accumulator in SAT takes none but a load. -/
theorem accumulatorSteps : Obligations.AccumulatorSteps := by
  unfold Obligations.AccumulatorSteps
  intro s w n m a hs hc hm ha
  refine ⟨accClear_answers hs hc hm ha, ovfClear_answers hs hc hm ha, fun x y vx vy k sub mask js hx hy hvx hvy hjs =>
    ⟨accSat_answers hs hc hm ha k sub mask hx hy, fun c z p hmem => ?_⟩⟩
  subst hvx hvy
  rw [List.mem_cons, List.mem_cons] at hmem
  show Answers c s (fun t => AccResult s t w n m a z p)
  obtain h | h | h := hmem
  · obtain ⟨rfl, rfl, rfl⟩ := h
    exact State.answers_accPut (f := fun d => d.accLoad n m a (.lane x) k) hs hc hm ha rfl (Dev.accLoad_lane k hx)
  · obtain ⟨rfl, rfl, rfl⟩ := h
    exact State.answers_accPut (f := fun d => d.accLoad n m a (.prod x y) k) hs hc hm ha rfl (Dev.accLoad_prod k hx hy)
  · cases hsat : ((s.dev.cell n).accAt m a).sat with
    | true => simp [hsat] at h
    | false =>
      have hsat' : (((s.dev.at w).cell n).accAt m a).sat = false := hsat
      have hx' : ((s.dev.at w).cell n).CleanOp m x := hx
      have hy' : ((s.dev.at w).cell n).CleanOp m y := hy
      simp only [hsat, Bool.false_eq_true, if_false, List.mem_cons, List.not_mem_nil, or_false, Prod.mk.injEq] at h
      obtain ⟨rfl, rfl, rfl⟩ | ⟨rfl, rfl, rfl⟩ | ⟨rfl, rfl, rfl⟩ := h
      · exact State.answers_accPut (f := fun d => d.accMac n m a x y sub) hs hc hm ha rfl
          ((Dev.accMac_clean sub hx' hy').trans (Dev.accAdd_of_not_sat _ _ sub hsat'))
      · exact State.answers_accPut (f := fun d => d.accShifted n m a x k sub) hs hc hm ha rfl
          ((Dev.accShifted_clean k sub hx').trans (Dev.accAdd_of_not_sat _ _ sub hsat'))
      · exact State.answers_accPut (f := fun d => d.accCross n m a mask) hs hc hm ha rfl (Dev.accCross_of_not_sat hjs hsat')

end Sys2Proof.Machine
end

section
/-! SUPPORT. Reductions of a signal cell (R234 to R236): the lanes of a word, and the word and the counter that a reduction leaves. -/

namespace Sys2Proof.Machine

/-! ### Lanes -/

/-- The data of a word built from data and tags. -/
theorem wData_mkW (x : Nat) (f l m p : Bool) : wData (mkW x f l m p) = x % 2 ^ 72 := by
  simp only [wData, mkW, BitVec.toNat_ofNat]
  omega

/-- A lane that was replaced holds the new field. -/
theorem bits_setBits_lane (x v : Nat) {k : Nat} (hk : k < 3) : bits (setBits x (24 * k) 24 v % 2 ^ 72) (24 * k) 24 = v % 2 ^ 24 := by
  simp only [bits, setBits]
  obtain rfl | rfl | rfl : k = 0 ∨ k = 1 ∨ k = 2 := by omega
  all_goals omega

/-- A lane beside the one that was replaced is as before. -/
theorem bits_setBits_other_lane (x v : Nat) {j k : Nat} (hj : j < 3) (hk : k < 3) (hne : j ≠ k) :
    bits (setBits x (24 * k) 24 v % 2 ^ 72) (24 * j) 24 = bits x (24 * j) 24 := by
  simp only [bits, setBits]
  obtain rfl | rfl | rfl : k = 0 ∨ k = 1 ∨ k = 2 := by omega
  all_goals
    obtain rfl | rfl | rfl : j = 0 ∨ j = 1 ∨ j = 2 := by omega
    all_goals omega

/-- A value in the lane range, as its field of 24 bits reads. -/
theorem signedOf_fieldOf_24 {y : Int} (hlo : laneMin ≤ y) (hhi : y ≤ laneMax) : signedOf 24 (fieldOf 24 y % 2 ^ 24) = y := by
  unfold laneMin at hlo
  unfold laneMax at hhi
  unfold signedOf fieldOf
  split <;> omega

theorem clampInt_lane (x : Int) : laneMin ≤ clampInt laneMin laneMax x ∧ clampInt laneMin laneMax x ≤ laneMax := by
  have hle : laneMin ≤ laneMax := by decide
  unfold clampInt
  repeat' split
  all_goals omega

/-! ### The word and the counter -/

/-- A reduction changes one lane of the word that it reads, and no accumulator. -/
theorem Dev.reduce_cell (d : Dev) (n m a sh addr lane : Nat) : ∃ mark poison,
    ((d.reduce n m a sh addr lane).cell n).lm = ((d.cell n).write addr (mkW
      (setBits (wData ((d.cell n).rd addr)) (24 * lane) 24 (fieldOf 24 (reduceAcc ((d.cell n).accAt m a).v.toInt sh).1)) false false mark poison)).lm ∧
    ((d.reduce n m a sh addr lane).cell n).acc = (d.cell n).acc := by
  unfold Dev.reduce
  extract_lets c x y w l₀ mark l₁ w' d₁ c' d₂
  have hcell : (if y.2 then (d₂.count (R.CELL_CNT_COUNT n 3)).cause n (d₂.runTask n) (R.CELL_EVT_STAT_RED_SAT n) (R.CELL_EVT_EN_RED_SAT n)
      else d₂).cell n = d₂.cell n := by
    split
    · exact (congrArg (fun d : Dev => d.cell n) (Dev.body_cause ..) :)
    · rfl
  rw [hcell, Dev.cell_setCell_self]
  exact ⟨bits l₁ 0 3 != 0, bits l₁ 3 3 != 0, Dev.lmWrite_lm d n addr w', Dev.lmWrite_acc d n addr w'⟩

/-- CELL_CNT[3] counts a reduction that was limited. -/
theorem Dev.reduce_count (d : Dev) (n m a sh addr lane : Nat) :
    (d.reduce n m a sh addr lane).get (R.CELL_CNT_COUNT n 3) =
      min (d.get (R.CELL_CNT_COUNT n 3) + b2n (reduceAcc ((d.cell n).accAt m a).v.toInt sh).2) (2 ^ 32 - 1) := by
  unfold Dev.reduce
  extract_lets c x y w l₀ mark l₁ w' d₁ c' d₂
  have hget : d₂.get (R.CELL_CNT_COUNT n 3) = d.get (R.CELL_CNT_COUNT n 3) := rfl
  have hy : reduceAcc ((d.cell n).accAt m a).v.toInt sh = y := rfl
  rw [hy, ← hget]
  have hlt := d₂.get_lt (R.CELL_CNT_COUNT n 3)
  cases y.2 with
  | false => simp only [Bool.false_eq_true, if_false, b2n]; omega
  | true =>
    rw [if_pos rfl, Dev.get_cause_cellCnt _ n 3 _ _ _ rfl (by decide : 4 < 32), Dev.get_count_cellCnt]
    rfl

/-- Lane `k` of a word that a read finds in local memory, zero where the word was unreadable. -/
theorem CellRt.sLane_rd (c : CellRt) (a k : Nat) :
    sLane (wData (c.rd a)) k = if c.lmUe.contains a = true then 0 else sLane (wData (kvD c.lm a 0)) k := by
  have hzero : sLane (wData poisonZero) k = 0 := by
    rw [poisonZero, wData_mkW]
    simp [sLane, bits, signedOf]
  unfold CellRt.rd
  split
  · exact hzero
  · rfl

/-- Settles O12: a reduction writes one word, whose other lanes are those it read; the lane's field reads as the limited value, which lies in the lane range. -/
theorem reductionWritesLane : Obligations.ReductionWritesLane := by
  unfold Obligations.ReductionWritesLane
  intro s w n m a sh addr lane hs hc hm ha haddr hlane
  have haddr' : (decide (addr < 32768) && decide (lane < 3)) = true := by simp [haddr, hlane]
  refine State.answers_acc (f := fun d => if addr < 32768 && lane < 3 then d.reduce n m a sh addr lane else d) hs hc hm ha rfl ?_
  simp only [haddr', if_true]
  obtain ⟨mark, poison, hlm, hacc⟩ := (s.dev.at w).reduce_cell n m a sh addr lane
  rw [State.ended_cell, hlm, hacc, State.ended_get _ _ _ (evFree_of_addr (by simp only [R.CELL_CNT_COUNT]; omega)), Dev.reduce_count]
  rw [CellRt.write_self, wData_mkW]
  refine ⟨?_, fun j hj hne => ?_, fun x hx => CellRt.write_ne _ _ hx, rfl, rfl⟩
  · obtain ⟨hlo, hhi⟩ := clampInt_lane (roundEven ((s.dev.cell n).accAt m a).v.toInt (2 ^ sh))
    rw [sLane, bits_setBits_lane _ _ hlane]
    exact signedOf_fieldOf_24 hlo hhi
  · rw [sLane, bits_setBits_other_lane _ _ hj hlane hne]
    exact CellRt.sLane_rd ..

end Sys2Proof.Machine
end

section
/-! SUPPORT. Block exponents and searches over words of local memory (R238 to R241): the lanes they look at, the largest shift that a value bears, and the
extreme at the lowest index. -/

namespace Sys2Proof.Machine

/-! ### The lanes that a block operation looks at -/

/-- The words of a block without errors are read as they stand, and the read does nothing else. -/
theorem Dev.blockWords_clean {d : Dev} {n a k : Nat} (h : (d.cell n).Clean a k) : d.blockWords n a k = ((d.cell n).words a k, d) := by
  induction k generalizing a with
  | zero => rfl
  | succ k ih =>
    obtain ⟨h1, h2⟩ := CellRt.clean_succ h
    have ha : a < 32768 := h1.1
    rw [Dev.blockWords, if_pos ha, Dev.lmRead_clean h1]
    dsimp only
    rw [ih h2, CellRt.words_succ]

/-- A lane lies in the lane range. -/
theorem sLane_range (x k : Nat) : laneMin ≤ sLane x k ∧ sLane x k ≤ laneMax := by
  unfold sLane signedOf laneMin laneMax
  split <;> omega

theorem blockLanes_range {ws : List MWord} {mask : Nat} {x : Nat × Int} (h : x ∈ (blockLanes ws mask).1) : laneMin ≤ x.2 ∧ x.2 ≤ laneMax := by
  obtain ⟨y, -, hx⟩ := List.mem_flatMap.mp h
  split at hx
  · simp at hx
  · obtain ⟨k, -, rfl⟩ := List.mem_map.mp hx
    exact sLane_range _ k

/-- The lanes come in the order of their indices. -/
theorem blockLanes_sorted (ws : List MWord) (mask : Nat) : ((blockLanes ws mask).1).Pairwise (fun x y => x.1 < y.1) := by
  have hword : ∀ (x : MWord × Nat) y, y ∈ (if wPoison x.1 then [] else
      ((List.range 3).filter (fun k => bit mask k)).map (fun k => (3 * x.2 + k, sLane (wData x.1) k))) → 3 * x.2 ≤ y.1 ∧ y.1 < 3 * x.2 + 3 := by
    intro x y hy
    split at hy
    · simp at hy
    · obtain ⟨k, hk, rfl⟩ := List.mem_map.mp hy
      have := List.mem_range.mp (List.mem_filter.mp hk).1
      exact ⟨by simp, by simpa using this⟩
  have hidx : ws.zipIdx.Pairwise (fun x y => x.2 < y.2) := by
    rw [← List.pairwise_map (f := Prod.snd), List.zipIdx_map_snd]
    exact List.pairwise_lt_range'
  refine List.pairwise_flatMap.mpr ⟨fun x _ => ?_, hidx.imp (fun {x y} hxy a ha b hb => ?_)⟩
  · split
    · exact List.Pairwise.nil
    · rw [List.pairwise_map]
      exact (List.pairwise_lt_range.filter _).imp (fun h => by simpa using h)
  · have hxa := (hword x a ha).2
    have hyb := (hword y b hb).1
    omega

/-! ### The block exponent (R238) -/

/-- The value times 2^`e` lies in the lane range. -/
abbrev BearsShift (v : Int) (e : Nat) : Prop := laneMin ≤ v * 2 ^ e ∧ v * 2 ^ e ≤ laneMax

/-- A value bears a shift up to 23 exactly where it lies in the range that is as many bits smaller. -/
theorem bearsShift_iff (v : Int) {e : Nat} (he : e ≤ 23) : BearsShift v e ↔ -2 ^ (23 - e) ≤ v ∧ v < 2 ^ (23 - e) := by
  have hpos : (0 : Int) < 2 ^ e := Int.pow_pos (by decide)
  have hmul : (2 : Int) ^ (23 - e) * 2 ^ e = 2 ^ 23 := by rw [← Int.pow_add, Nat.sub_add_cancel he]
  have hlo : -(2 : Int) ^ (23 - e) ≤ v ↔ -2 ^ 23 ≤ v * 2 ^ e := by rw [← Int.mul_le_mul_right hpos, Int.neg_mul, hmul]
  have hhi : v < (2 : Int) ^ (23 - e) ↔ v * 2 ^ e < 2 ^ 23 := by rw [← Int.mul_lt_mul_right hpos, hmul]
  rw [hlo, hhi]
  unfold BearsShift laneMin laneMax
  omega

/-- R238: norm of a lane is the largest shift that it bears. -/
theorem norm24_spec {v : Int} (hlo : laneMin ≤ v) (hhi : v ≤ laneMax) : norm24 v ≤ 23 ∧ ∀ e ≤ 23, BearsShift v e ↔ e ≤ norm24 v := by
  unfold laneMin at hlo
  unfold laneMax at hhi
  unfold norm24
  extract_lets x
  have hx : ∀ r : Int, x < r ↔ -r ≤ v ∧ v < r := fun r => by unfold x; split <;> omega
  cases hk : (List.range 24).find? (fun k => decide (x < 2 ^ k)) with
  | none =>
    have h := List.find?_eq_none.mp hk 23 (by decide)
    have := (hx (2 ^ 23)).mpr (by omega)
    exact absurd (decide_eq_true this) h
  | some k =>
    obtain ⟨hlt, hmem, hmin⟩ := List.find?_range_eq_some.mp hk
    have hlt : x < 2 ^ k := by simpa using hlt
    have hk : k < 24 := List.mem_range.mp hmem
    refine ⟨by simp, fun e he => ?_⟩
    rw [bearsShift_iff v he, ← hx]
    constructor
    · intro hxe
      show e ≤ 23 - k
      have hle : ¬23 - e < k := fun hlt' => by simpa [hxe] using hmin (23 - e) hlt'
      omega
    · intro (hek : e ≤ 23 - k)
      have hpow : (2 : Int) ^ k ≤ 2 ^ (23 - e) := by exact_mod_cast Nat.pow_le_pow_right (by decide : 0 < 2) (by omega : k ≤ 23 - e)
      exact Int.lt_of_lt_of_le hlt hpow

/-- The least of a bound and of what a function gives on a list. -/
theorem foldl_min_spec {α : Type} (f : α → Nat) (l : List α) (b : Nat) :
    let e := l.foldl (fun e x => min e (f x)) b
    e ≤ b ∧ (∀ x ∈ l, e ≤ f x) ∧ (e < b → ∃ x ∈ l, f x = e) := by
  induction l generalizing b with
  | nil => simp
  | cons a r ih =>
    obtain ⟨hb, hr, hatt⟩ := ih (min b (f a))
    simp only [List.foldl_cons, List.mem_cons, forall_eq_or_imp, exists_eq_or_imp]
    refine ⟨by omega, ⟨by omega, hr⟩, fun hlt => ?_⟩
    rcases Nat.lt_or_eq_of_le hb with he | he
    · exact .inr (hatt he)
    · exact .inl (by clear hatt; omega)

/-! ### The search (R239) -/

/-- What a search looks for the greatest of. -/
def searchRank (m : SearchMode) (v : Int) : Int := match m with
  | .max | .maxAbs => searchKey m v
  | .min | .minAbs => -searchKey m v

theorem searchBetter_iff (m : SearchMode) (x y : Int) : searchBetter m x y = true ↔ searchRank m y < searchRank m x := by
  cases m <;> simp [searchBetter, searchRank]

theorem searchBetter_eq_false_iff (m : SearchMode) (x y : Int) : searchBetter m x y = false ↔ searchRank m x ≤ searchRank m y := by
  rw [← Bool.not_eq_true, searchBetter_iff, Int.not_lt]

/-- The first lane of a search is the best so far. -/
theorem searchBest_append_of_none {m : SearchMode} {ls : List (Nat × Int)} (x : Nat × Int) (h : searchBest m ls = none) :
    searchBest m (ls ++ [x]) = some x := by
  unfold searchBest at h ⊢
  simp only [List.foldl_append, h, List.foldl_cons, List.foldl_nil]

/-- One more lane takes the place of the best so far only where it beats it. -/
theorem searchBest_append_of_some {m : SearchMode} {ls : List (Nat × Int)} {y : Nat × Int} (x : Nat × Int) (h : searchBest m ls = some y) :
    searchBest m (ls ++ [x]) = if searchBetter m x.2 y.2 then some x else some y := by
  unfold searchBest at h ⊢
  simp only [List.foldl_append, h, List.foldl_cons, List.foldl_nil]

/-- The lane is one of the list that none beats, and it beats every one before it. -/
def IsBest (m : SearchMode) (ls : List (Nat × Int)) (b : Nat × Int) : Prop :=
  b ∈ ls ∧ ∀ x ∈ ls, searchBetter m x.2 b.2 = false ∧ (x.1 < b.1 → searchBetter m b.2 x.2 = true)

/-- R239: a search of lanes in the order of their indices finds the extreme at the lowest index that holds it, or none where there is no lane. -/
theorem searchBest_spec (m : SearchMode) {ls : List (Nat × Int)} (h : ls.Pairwise (fun x y => x.1 < y.1)) :
    (ls = [] ∧ searchBest m ls = none) ∨ ∃ b, searchBest m ls = some b ∧ IsBest m ls b := by
  rw [← List.reverse_reverse ls] at h ⊢
  generalize ls.reverse = l at h ⊢
  induction l with
  | nil => exact .inl ⟨rfl, rfl⟩
  | cons x l ih =>
    rw [List.reverse_cons] at h ⊢
    generalize l.reverse = ls at h ih ⊢
    obtain ⟨hls, -, hx⟩ := List.pairwise_append.mp h
    have hx : ∀ y ∈ ls, y.1 < x.1 := fun y hy => hx y hy x (by simp)
    right
    obtain ⟨rfl, hb⟩ | ⟨b, hb, hmem, hbest⟩ := ih hls
    · rw [searchBest_append_of_none x hb]
      exact ⟨x, rfl, by simp, by simp [searchBetter_eq_false_iff]⟩
    · rw [searchBest_append_of_some x hb]
      simp only [searchBetter_iff, searchBetter_eq_false_iff] at hbest
      unfold IsBest
      simp only [searchBetter_iff, searchBetter_eq_false_iff, List.mem_append, List.mem_singleton]
      by_cases hbeats : searchRank m b.2 < searchRank m x.2
      · refine ⟨x, if_pos hbeats, .inr rfl, fun y hy => ?_⟩
        rcases hy with hy | rfl
        · have := (hbest y hy).1
          exact ⟨by omega, fun _ => by omega⟩
        · exact ⟨Int.le_refl _, fun h => absurd h (by omega)⟩
      · refine ⟨b, if_neg hbeats, .inl hmem, fun y hy => ?_⟩
        rcases hy with hy | rfl
        · exact hbest y hy
        · have := hx b hmem
          exact ⟨by omega, fun h => by omega⟩

/-! ### The commands -/

theorem State.ended_blockReply {s : State} {w : When} (hs : Running s) (v : Int) (idx e : Nat) (seen none : Bool) :
    Leaves s (s.ended (blockReply (s.dev.at w) v idx e seen none)) w [] [] id :=
  State.ended_leaves_reply hs rfl rfl

/-- Settles O13: the exponent is the least norm of its lanes, each the largest shift that its lane bears; the search goes through the lanes in the order of their
indices, and only a strictly better one replaces the best so far. -/
theorem vectorSearches : Obligations.VectorSearches := by
  unfold Obligations.VectorSearches
  refine ⟨fun s w n addr cnt mask hs hc hclean => ?_, fun s w n mode addr cnt mask zones ls hs hc hclean hls => ?_⟩
  · have hclean' : ((s.dev.at w).cell n).Clean addr cnt := hclean
    refine State.answers_cell (f := fun d => d.blockExp n addr cnt mask) hs hc rfl ?_
    simp only [Dev.blockExp, Dev.blockWords_clean hclean', State.ended_reply]
    refine ⟨?_, rfl, State.ended_blockReply hs ..⟩
    obtain ⟨hle, hall, hatt⟩ := foldl_min_spec (fun x : Nat × Int => norm24 x.2) (blockLanes ((s.dev.cell n).words addr cnt) mask.toNat).1 23
    refine ⟨_, hle, rfl, fun x hx => ?_, fun hlt => ?_⟩
    · obtain ⟨hlo, hhi⟩ := blockLanes_range hx
      exact ((norm24_spec hlo hhi).2 _ hle).mpr (hall x hx)
    · obtain ⟨x, hx, he⟩ := hatt hlt
      obtain ⟨hlo, hhi⟩ := blockLanes_range hx
      exact ⟨x, hx, fun hbears => by have := ((norm24_spec hlo hhi).2 _ (by omega)).mp hbears; omega⟩
  · have hclean' : ((s.dev.at w).cell n).Clean addr cnt := hclean
    have hsorted : ls.Pairwise (fun x y => x.1 < y.1) := hls ▸ (blockLanes_sorted ..).filter _
    have hls' : (blockLanes (((s.dev.at w).cell n).words addr cnt) mask.toNat).1.filter (fun x => !excluded zones x.1) = ls := hls.symm
    refine State.answers_cell (f := fun d => d.search n mode addr cnt mask zones) hs hc rfl ?_
    simp only [Dev.search, Dev.blockWords_clean hclean', hls']
    obtain ⟨hnil, hb⟩ | ⟨⟨i, v⟩, hb, hmem, hbest⟩ := searchBest_spec mode hsorted <;> simp only [hb, State.ended_reply]
    · exact ⟨fun hne => absurd hnil hne, fun _ => rfl, State.ended_blockReply hs ..⟩
    · exact ⟨fun _ => ⟨rfl, i, hmem, rfl, hbest⟩, fun hnil => by simp [hnil] at hmem, State.ended_blockReply hs ..⟩

end Sys2Proof.Machine
end

section
/-! SUPPORT. Address generators and transfers of a signal cell (R242 to R247, R254): where an access goes, what a fault leaves, and how the words of a transfer move. -/

namespace Sys2Proof.Machine

/-! ### Generators (R242 to R244) -/

@[simp] theorem Ag.setup_len (h : Ag) (x : Option AgSet) : (h.setup x).len = h.len := by cases x <;> rfl

theorem Dev.setAg_ag (d : Dev) (n k : Nat) (g : Ag) : ((d.setAg n k g).cell n).ag k = g := by
  have hcell : (d.setAg n k g).cell n = { d.cell n with ags := kvPut {} k g (d.cell n).ags } := Dev.cell_setCell_self ..
  rw [hcell]
  exact kvD_kvPut_self ..

/-- A generator's own registers lie outside local memory. -/
theorem Dev.setAg_lm (d : Dev) (n k : Nat) (g : Ag) : ((d.setAg n k g).cell n).lm = (d.cell n).lm :=
  (congrArg CellRt.lm (Dev.cell_setCell_self ..) :)

/-- A generator that is set up holds what the kernel set, and what it held beside. -/
theorem Dev.agSetup_ag {d : Dev} {n k : Nat} {g h : Ag} {x : Option AgSet} (hh : (d.cell n).ag k = h) (hg : g = h.setup x) :
    ((d.agSetup n k x).cell n).ag k = g := by
  subst hg hh
  cases x with
  | none => rfl
  | some y => exact Dev.setAg_ag ..

@[simp] theorem Dev.offMem_agSetup (d : Dev) (n k : Nat) (x : Option AgSet) : (d.agSetup n k x).offMem = d.offMem := by cases x <;> rfl

/-- A generator's setup leaves local memory as it is. -/
theorem Dev.agSetup_clean {d : Dev} {n k a : Nat} (x : Option AgSet) (h : (d.cell n).Clean a 1) :
    ((d.agSetup n k x).cell n).Clean a 1 ∧ ((d.agSetup n k x).cell n).lm = (d.cell n).lm := by
  cases x with
  | none => exact ⟨h, rfl⟩
  | some y =>
    have hcell : (d.agSetup n k (some y)).cell n = { d.cell n with ags := kvPut {} k (((d.cell n).ag k).setup (some y)) (d.cell n).ags } :=
      Dev.cell_setCell_self ..
    rw [hcell]
    exact ⟨h, rfl⟩

section
variable {d : Dev} {n k len : Nat} {g : Ag} (hg : (d.cell n).ag k = g)
include hg

/-- An access inside local memory moves the word and then the offset. -/
theorem Dev.agAccess_eq {x : Nat} (data : Option TWord) (hlen : len ≠ 0) (hnext : g.next len = some (some x))
    (ha : g.base.toNat + g.off.toNat < 32768) :
    d.agAccess n k data len = (d.agMove n (g.base.toNat + g.off.toNat) data).setAg n k { g with off := BitVec.ofNat 15 x } := by
  simp only [Dev.agAccess, hg, hnext]
  rw [if_neg (by omega)]

/-- An access beyond local memory, or one that the generator's mode has no update for, is refused (R244). -/
theorem Dev.agAccess_refused (data : Option TWord) (h : 32768 ≤ g.base.toNat + g.off.toNat ∨ g.next len = none) :
    d.agAccess n k data len = d.agRefuse n data := by
  simp only [Dev.agAccess, hg]
  split
  · rfl
  · next hnext => exact if_pos (.inl (h.resolve_right (by simp [hnext])))

end

/-- BITREV has no update for a LEN that is no power of two (R242). -/
theorem Ag.next_bitrev {g : Ag} {len : Nat} (hm : g.mode = .bitrev) (h : ∀ b, b < 16 → len ≠ 2 ^ b) : g.next len = none := by
  have hlog : log2Of len = none := List.find?_eq_none.mpr (fun b hb => by simpa using (h b (List.mem_range.mp hb)).symm)
  simp only [Ag.next, hm, hlog]

/-! ### Faults (R244, R247, R265) -/

/-- A fault of an access counts in CELL_CNT[1] and is a cause of the cell. -/
def Dev.faults (d : Dev) (n : Nat) (stat en : Fld) : Dev := (d.count (R.CELL_CNT_COUNT n 1)).cause n (d.runTask n) stat en

theorem Dev.agFault_eq (d : Dev) (n : Nat) : d.agFault n = d.faults n (R.CELL_EVT_STAT_AG_FAULT n) (R.CELL_EVT_EN_AG_FAULT n) := rfl
theorem Dev.dmaErr_eq (d : Dev) (n : Nat) : d.dmaErr n = d.faults n (R.CELL_EVT_STAT_DMA_ERR n) (R.CELL_EVT_EN_DMA_ERR n) := rfl

@[simp] theorem Dev.body_faults (d : Dev) (n : Nat) (stat en : Fld) : (d.faults n stat en).body = d.body := by
  rw [Dev.faults, Dev.body_cause, Dev.body_count]

/-- A fault is noted in its bit of CELL_EVT_STAT and counted, in the state that a step answers whose effect leaves the registers as the fault does. -/
theorem State.ended_faults (s : State) (w : When) (n : Nat) {stat : Fld} (en : Fld) {d' : Dev} (hget : d'.regs = ((s.dev.at w).faults n stat en).regs)
    (hs : stat.addr = 0x01C00008 + 65536 * n) (hlo : stat.lo < 32) (hw : stat.width = 1) :
    (s.ended d').dev.get stat = 1 ∧ (s.ended d').dev.get (R.CELL_CNT_COUNT n 1) = plus1 (s.dev.get (R.CELL_CNT_COUNT n 1)) := by
  have hd : ∀ f, d'.get f = ((s.dev.at w).faults n stat en).get f := fun f => congrArg (fun r : RegStore => r.get f) hget
  rw [State.ended_get _ _ _ (evFree_of_addr (by omega)), State.ended_get _ _ _ (evFree_of_addr (by simp only [R.CELL_CNT_COUNT]; omega)), hd, hd]
  refine ⟨Dev.get_cause_stat _ n _ en _ hs hlo hw, ?_⟩
  rw [Dev.faults, Dev.get_cause_cellCnt _ n 1 _ en _ hs hlo, Dev.get_count_cellCnt]
  rfl

/-- A refused access is a fault; a read replies zero tagged POISON beside. -/
theorem Dev.agRefuse_none (d : Dev) (n : Nat) :
    d.agRefuse n none = { d.agFault n with reply := { (d.agFault n).reply with item := [poisonZero], poison := true } } := rfl

theorem Dev.agRefuse_some (d : Dev) (n : Nat) (v : TWord) : d.agRefuse n (some v) = d.agFault n := rfl

/-- A refused access leaves the registers as the fault does, and nothing else but the reply. -/
theorem Dev.agRefuse_effect (d : Dev) (n : Nat) (data : Option TWord) :
    (d.agRefuse n data).regs = (d.faults n (R.CELL_EVT_STAT_AG_FAULT n) (R.CELL_EVT_EN_AG_FAULT n)).regs ∧
      { (d.agRefuse n data).body with reply := {} } = { d.body with reply := {} } := by
  have hbody := d.body_faults n (R.CELL_EVT_STAT_AG_FAULT n) (R.CELL_EVT_EN_AG_FAULT n)
  have hreply := congrArg (fun d : Dev => { d with reply := {} }) hbody
  cases data with
  | none =>
    rw [Dev.agRefuse_none, Dev.agFault_eq]
    generalize d.faults n (R.CELL_EVT_STAT_AG_FAULT n) (R.CELL_EVT_EN_AG_FAULT n) = e at hreply ⊢
    exact ⟨rfl, hreply⟩
  | some v =>
    rw [Dev.agRefuse_some, Dev.agFault_eq]
    exact ⟨rfl, hreply⟩

/-- A refused access is noted and counted as AG_FAULT and changes nothing else; a read gives zero tagged POISON (R244). -/
theorem State.ended_agRefuse (s : State) (w : When) (n : Nat) (data : Option TWord) :
    (data = none → (s.ended ((s.dev.at w).agRefuse n data)).dev.reply.item = [poisonZero]) ∧
    (s.ended ((s.dev.at w).agRefuse n data)).dev.get (R.CELL_EVT_STAT_AG_FAULT n) = 1 ∧
    (s.ended ((s.dev.at w).agRefuse n data)).dev.get (R.CELL_CNT_COUNT n 1) = plus1 (s.dev.get (R.CELL_CNT_COUNT n 1)) ∧
    Still s (s.ended ((s.dev.at w).agRefuse n data)) w := by
  obtain ⟨hregs, hbody⟩ := (s.dev.at w).agRefuse_effect n data
  obtain ⟨hstat, hcnt⟩ := State.ended_faults s w n _ hregs rfl (by decide : 1 < 32) rfl
  refine ⟨fun h => ?_, hstat, hcnt, ?_⟩
  · rw [State.ended_reply, h, Dev.agRefuse_none]
  · exact (congrArg (fun d : Dev => { d with reply := {} }) (State.ended_body ..)).trans hbody

/-! ### The commands of a generator -/

section
variable {s : State} {w : When} {n k : Nat} {g h : Ag} {setup : Option AgSet} (hs : Running s) (hc : CellRuns s n) (hk : k < 8)
  (hh : (s.dev.cell n).ag k = h)
include hs hc hk hh

/-- What an access through a generator answers, which is set up before it. -/
theorem State.answers_agAccess {data : Option TWord} {P : State → Prop}
    (hP : P (s.ended (((s.dev.at w).agSetup n k setup).agAccess n k data h.len.toNat))) : Answers (.agAccess w n k setup data) s P := by
  have hh : ((s.dev.at w).cell n).ag k = h := hh
  refine State.answers_cell (f := fun d => if k < 8 then (d.agSetup n k setup).agAccess n k data ((d.cell n).ag k).len.toNat else d) hs hc rfl ?_
  simpa only [hk, if_true, hh] using hP

section
variable {x : Nat} (hg : g = h.setup setup) (hlen : g.len ≠ 0) (hnext : g.next g.len.toNat = some (some x)) (ha : g.base.toNat + g.off.toNat < 32768)
include hg hlen hnext ha

/-- An access inside local memory answers what moving the word and then the offset leaves. -/
theorem State.answers_agMove {data : Option TWord} {P : State → Prop}
    (hP : P (s.ended ((((s.dev.at w).agSetup n k setup).agMove n (g.base.toNat + g.off.toNat) data).setAg n k { g with off := BitVec.ofNat 15 x }))) :
    Answers (.agAccess w n k setup data) s P := by
  have hh' : ((s.dev.at w).cell n).ag k = h := hh
  have hl : h.len = g.len := by rw [hg, Ag.setup_len]
  refine State.answers_agAccess hs hc hk hh ?_
  rwa [hl, Dev.agAccess_eq (Dev.agSetup_ag hh' hg) data (fun h0 => hlen (BitVec.eq_of_toNat_eq h0)) hnext ha]

/-- A read inside local memory gives the word, and the offset moves on. -/
theorem agRead_answers (hclean : (s.dev.cell n).Clean (g.base.toNat + g.off.toNat) 1) :
    Answers (.agAccess w n k setup none) s (fun t => t.dev.reply.item = [kvD (s.dev.cell n).lm (g.base.toNat + g.off.toNat) 0] ∧
      Leaves s t w [] [] (fun d => (d.agSetup n k setup).setAg n k { g with off := BitVec.ofNat 15 x })) := by
  have hclean : ((s.dev.at w).cell n).Clean (g.base.toNat + g.off.toNat) 1 := hclean
  obtain ⟨hclean', hlm⟩ := Dev.agSetup_clean (k := k) setup hclean
  refine State.answers_agMove hs hc hk hh hg hlen hnext ha ?_
  rw [Dev.agMove, Dev.lmRead_clean hclean', hlm]
  exact ⟨by rw [State.ended_reply]; rfl, State.ended_leaves_reply hs rfl (by simp)⟩

/-- A write inside local memory puts the word there, and the offset moves on. -/
theorem agWrite_answers (v : TWord) :
    Answers (.agAccess w n k setup (some v)) s (fun t => kvD (t.dev.cell n).lm (g.base.toNat + g.off.toNat) 0 = TWord.toW v ∧
      Leaves s t w [] [] (fun d =>
        ((d.agSetup n k setup).lmWrite n (g.base.toNat + g.off.toNat) (TWord.toW v)).setAg n k { g with off := BitVec.ofNat 15 x })) := by
  refine State.answers_agMove hs hc hk hh hg hlen hnext ha ?_
  refine ⟨?_, State.ended_leaves_offMem hs rfl (by simp [Dev.agMove])⟩
  rw [State.ended_cell, Dev.setAg_lm, Dev.agMove, Dev.lmWrite_lm]
  exact CellRt.write_self ..

end

/-- An access beyond local memory, or without an update in its mode, is refused. -/
theorem agAccess_refused_answers (data : Option TWord) (href : 32768 ≤ h.base.toNat + h.off.toNat ∨ h.next h.len.toNat = none) :
    Answers (.agAccess w n k none data) s (fun t => (data = none → t.dev.reply.item = [poisonZero]) ∧ t.dev.get (R.CELL_EVT_STAT_AG_FAULT n) = 1 ∧
      t.dev.get (R.CELL_CNT_COUNT n 1) = plus1 (s.dev.get (R.CELL_CNT_COUNT n 1)) ∧ Still s t w) := by
  refine State.answers_agAccess hs hc hk hh ?_
  have hh' : ((s.dev.at w).cell n).ag k = h := hh
  rw [Dev.agAccess_refused (Dev.agSetup_ag (x := none) hh' rfl) data href]
  exact State.ended_agRefuse s w n data

omit hh in
/-- What a write of LEN without an access answers. -/
theorem State.answers_agLen {len : Nat} {P : State → Prop} (hP : P (s.ended ((s.dev.at w).agLen n k len none))) :
    Answers (.agLenWrite w n k len none) s P := by
  refine State.answers_cell (f := fun d => if k < 8 then d.agLen n k len none else d) hs hc rfl ?_
  simpa only [hk, if_true] using hP

omit hh in
/-- A LEN of zero is a fault. -/
theorem agLenWrite_zero_answers : Answers (.agLenWrite w n k 0 none) s (fun t => t.dev.get (R.CELL_EVT_STAT_AG_FAULT n) = 1 ∧
    t.dev.get (R.CELL_CNT_COUNT n 1) = plus1 (s.dev.get (R.CELL_CNT_COUNT n 1)) ∧ Still s t w) := by
  obtain ⟨-, hfault⟩ := State.ended_agRefuse s w n (some default)
  exact State.answers_agLen hs hc hk hfault

/-- A LEN in range takes effect, and the offset of a generator that is not linear comes below it. -/
theorem agLenWrite_answers {len : Nat} (hpos : 0 < len) (hle : len ≤ 32768) :
    Answers (.agLenWrite w n k len none) s (fun t => Leaves s t w [] [] (fun d => d.setAg n k { h with
      len := BitVec.ofNat 16 len, off := if h.mode = .linear then h.off else BitVec.ofNat 15 (h.off.toNat % len) })) := by
  have hh : ((s.dev.at w).cell n).ag k = h := hh
  have hrange : ¬(len = 0 ∨ 32768 < len) := by omega
  have hoff : (if h.mode = .linear ∨ h.off.toNat < len then h.off else BitVec.ofNat 15 (h.off.toNat % len)) =
      if h.mode = .linear then h.off else BitVec.ofNat 15 (h.off.toNat % len) := by
    by_cases hlt : h.off.toNat < len
    · simp [hlt, Nat.mod_eq_of_lt hlt]
    · simp [hlt]
  refine State.answers_agLen hs hc hk (State.ended_leaves_offMem hs ?_ ?_) <;> simp only [Dev.agLen, if_neg hrange, hh, hoff, Dev.offMem_setAg]

end

/-! ### Transfers (R247, R254) -/

/-- A run of DDR words in range reads as it stands while no word holds an error, and the read does nothing else. -/
theorem Dev.ddrReadN_clean {d : Dev} {a k : Nat} (h : a + k ≤ d.ddrTotal) (hu : d.ddr.ue = []) (hc : d.ddr.ce = []) :
    d.ddrReadN a k = ((List.range k).map (fun j => d.ddrCell (a + j)), d) := by
  induction k generalizing a with
  | zero => rfl
  | succ k ih =>
    have hread : d.ddrRead a = (d.ddrCell a, d) := by
      have : ¬d.ddrTotal ≤ a := by omega
      simp [Dev.ddrRead, this, hu, hc]
    rw [Dev.ddrReadN, hread]
    dsimp only
    rw [ih (by omega), List.range_succ_eq_map, List.map_cons, List.map_map]
    refine congrArg (fun l => (_ :: l, d)) (List.map_congr_left (fun j _ => ?_))
    simp only [Function.comp, Nat.succ_eq_add_one, Nat.add_assoc, Nat.add_comm 1 j]

@[simp] theorem Dev.offMem_resWriteN (d : Dev) (a : Nat) (l : List MWord) : (d.resWriteN a l).offMem = d.offMem := by
  induction l generalizing d a with
  | nil => rfl
  | cons x r ih => rw [Dev.resWriteN, ih, Dev.offMem_resWrite]

/-- Words written to the DDR in range touch the DDR alone. -/
theorem Dev.offMem_ddrWriteN (d : Dev) (a : Nat) (l : List MWord) (h : a + l.length ≤ d.ddrTotal) : (d.ddrWriteN a l).offMem = d.offMem := by
  induction l generalizing d a with
  | nil => rfl
  | cons x r ih =>
    rw [List.length_cons] at h
    have hin : ¬d.ddrTotal ≤ a := by omega
    have hoff : (d.ddrWrite a x).offMem = d.offMem := by rw [Dev.ddrWrite, if_neg hin]; rfl
    have htotal : (d.ddrWrite a x).ddrTotal = d.ddrTotal := by rw [Dev.ddrWrite, if_neg hin]; rfl
    rw [Dev.ddrWriteN, ih _ _ (by omega), hoff]

section
variable {d : Dev} {n loc ext len : Nat} (hlen : 0 < len)
include hlen

/-- A transfer inside the windows from the reservoir puts its words in local memory. -/
theorem Dev.transfer_fromRes (hok : d.xferOk n true .reservoir loc ext len = true) (hclean : NoError d ext (len - 1)) :
    d.transfer n true .reservoir loc ext len = d.lmWriteN n loc ((List.range len).map (fun k => kvD d.qf.res (ext + k) 0)) := by
  have hread := d.resReadN_clean ext len (fun k hk => hclean _ (by omega) (by omega))
  simp only [Dev.transfer, Nat.ne_of_gt hlen, hok, hread, if_false, if_true, Bool.not_true, Bool.false_eq_true]

/-- A transfer inside the windows from the DDR puts its words in local memory. -/
theorem Dev.transfer_fromDdr (hok : d.xferOk n true .ddr loc ext len = true) (hin : ext + len ≤ d.ddrTotal) (hu : d.ddr.ue = []) (hc : d.ddr.ce = []) :
    d.transfer n true .ddr loc ext len = d.lmWriteN n loc ((List.range len).map (fun k => d.ddrCell (ext + k))) := by
  simp only [Dev.transfer, Nat.ne_of_gt hlen, hok, Dev.ddrReadN_clean hin hu hc, if_false, if_true, Bool.not_true, Bool.false_eq_true]

/-- A transfer inside the windows from local memory puts its words in the reservoir or the DDR. -/
theorem Dev.transfer_fromLocal {space : XferSpace} (hok : d.xferOk n false space loc ext len = true) (hclean : (d.cell n).Clean loc len) :
    d.transfer n false space loc ext len =
      if space = .ddr then d.ddrWriteN ext ((d.cell n).words loc len) else d.resWriteN ext ((d.cell n).words loc len) := by
  simp only [Dev.transfer, Nat.ne_of_gt hlen, hok, Dev.lmReadN_clean hclean, if_false, Bool.not_true, Bool.false_eq_true]
  cases space <;> rfl

/-- A transfer outside the windows is a fault, and touches nothing but local memory beside. -/
theorem Dev.transfer_refused {toLocal : Bool} {space : XferSpace} (hok : d.xferOk n toLocal space loc ext len = false) :
    ∃ p, d.transfer n toLocal space loc ext len = { d.faults n (R.CELL_EVT_STAT_DMA_ERR n) (R.CELL_EVT_EN_DMA_ERR n) with pump := p } := by
  simp only [Dev.transfer, Nat.ne_of_gt hlen, hok, if_false, if_true, Bool.not_false, Dev.dmaErr_eq]
  generalize d.faults n (R.CELL_EVT_STAT_DMA_ERR n) (R.CELL_EVT_EN_DMA_ERR n) = e
  split
  · exact e.lmWriteN_eq ..
  · exact ⟨e.pump, rfl⟩

end

theorem CellRt.length_words (c : CellRt) (a n : Nat) : (c.words a n).length = n := by simp [CellRt.words]

section
variable {s : State} {w : When} {n loc ext len : Nat} (hs : Running s) (hc : CellRuns s n) (hlen : 0 < len)
include hs hc hlen

omit hlen in
/-- R247: a transfer inside the windows that writes local memory changes its words alone. -/
theorem transfer_toLocal_answers {space : XferSpace} {ws : List MWord}
    (heq : (s.dev.at w).transfer n true space loc ext len = (s.dev.at w).lmWriteN n loc ws) :
    Answers (.transfer w n true space loc ext len) s (fun t => Leaves s t w [] [] (fun d => d.lmWriteN n loc ws)) :=
  State.answers_cell (f := fun d => d.transfer n true space loc ext len) hs hc rfl
    (State.ended_leaves_offMem hs heq (by rw [heq, Dev.offMem_lmWriteN]))

/-- R247: a transfer inside the windows that reads local memory changes words of the reservoir or the DDR alone. -/
theorem transfer_fromLocal_answers {space : XferSpace} (hok : s.dev.xferOk n false space loc ext len = true) (hclean : (s.dev.cell n).Clean loc len)
    (hin : space = .reservoir ∨ ext + len ≤ s.dev.ddrTotal) :
    Answers (.transfer w n false space loc ext len) s (fun t => Leaves s t w [] [] (fun d =>
      if space = .ddr then d.ddrWriteN ext ((s.dev.cell n).words loc len) else d.resWriteN ext ((s.dev.cell n).words loc len))) := by
  have heq := Dev.transfer_fromLocal (d := s.dev.at w) hlen hok hclean
  refine State.answers_cell (f := fun d => d.transfer n false space loc ext len) hs hc rfl (State.ended_leaves_offMem hs heq ?_)
  rw [heq]
  cases space with
  | reservoir => exact Dev.offMem_resWriteN ..
  | ddr =>
    have hin : ext + len ≤ (s.dev.at w).ddrTotal := hin.resolve_left nofun
    exact Dev.offMem_ddrWriteN _ _ _ (by rwa [CellRt.length_words])

/-- R247: a transfer outside the windows is noted and counted as DMA_ERR, and no word of the reservoir or the DDR changes. -/
theorem transfer_refused_answers {toLocal : Bool} {space : XferSpace} (hok : s.dev.xferOk n toLocal space loc ext len = false) :
    Answers (.transfer w n toLocal space loc ext len) s (fun t =>
      t.dev.get (R.CELL_EVT_STAT_DMA_ERR n) = 1 ∧ t.dev.get (R.CELL_CNT_COUNT n 1) = plus1 (s.dev.get (R.CELL_CNT_COUNT n 1)) ∧
      t.dev.qf.res = s.dev.qf.res ∧ t.dev.ddr = s.dev.ddr) := by
  obtain ⟨p, hp⟩ := Dev.transfer_refused (d := s.dev.at w) hlen hok
  refine State.answers_cell (f := fun d => d.transfer n toLocal space loc ext len) hs hc rfl ?_
  simp only [hp]
  have hbody := (s.dev.at w).body_faults n (R.CELL_EVT_STAT_DMA_ERR n) (R.CELL_EVT_EN_DMA_ERR n)
  have hfaults := fun d' => State.ended_faults s w n (stat := R.CELL_EVT_STAT_DMA_ERR n) (R.CELL_EVT_EN_DMA_ERR n) (d' := d')
  generalize (s.dev.at w).faults n (R.CELL_EVT_STAT_DMA_ERR n) (R.CELL_EVT_EN_DMA_ERR n) = e at hbody hfaults ⊢
  obtain ⟨hstat, hcnt⟩ := hfaults { e with pump := p } rfl rfl (by decide : 2 < 32) rfl
  have hended : (s.ended { e with pump := p }).dev.body = { (s.dev.at w).body with pump := p } :=
    (State.ended_body ..).trans (congrArg (fun d : Dev => { d with pump := p }) hbody :)
  exact ⟨hstat, hcnt, (congrArg (fun d : Dev => d.qf.res) hended :), (congrArg Dev.ddr hended :)⟩

end

/-- Settles O14: an access in range moves its word and the offset, a refused one is a fault that changes nothing else; a transfer in its windows moves the words read. -/
theorem generatorsAndTransfers : Obligations.GeneratorsAndTransfers := by
  unfold Obligations.GeneratorsAndTransfers
  refine ⟨fun s w n k g setup h hs hc hk hh hg => ⟨fun x hlen hnext ha => ⟨fun hclean => ?_, fun v => ?_⟩, fun c hset hcase => ?_, fun len hset hpos hle => ?_⟩,
    fun s w n toLocal space loc ext len hs hc hlen => ⟨fun hok => ⟨?_, ?_, ?_⟩, transfer_refused_answers hs hc hlen⟩⟩
  · exact agRead_answers hs hc hk hh hg hlen hnext ha hclean
  · exact agWrite_answers hs hc hk hh hg hlen hnext ha v
  · subst hset
    obtain rfl : g = h := hg
    obtain ⟨hfault, hc'⟩ | rfl := hcase
    · have href : 32768 ≤ g.base.toNat + g.off.toNat ∨ g.next g.len.toNat = none := hfault.imp_right (fun hb => Ag.next_bitrev hb.1 hb.2)
      obtain rfl | ⟨v, rfl⟩ := hc'
      · obtain ⟨t, ht, hitem, hrest⟩ := agAccess_refused_answers hs hc hk hh none href
        exact ⟨t, ht, fun _ => hitem rfl, hrest⟩
      · obtain ⟨t, ht, -, hrest⟩ := agAccess_refused_answers hs hc hk hh (some v) href
        exact ⟨t, ht, nofun, hrest⟩
    · obtain ⟨t, ht, hrest⟩ := agLenWrite_zero_answers (w := w) hs hc hk
      exact ⟨t, ht, nofun, hrest⟩
  · subst hset
    obtain rfl : g = h := hg
    exact agLenWrite_answers hs hc hk hh hpos hle
  · rintro rfl rfl hclean
    exact transfer_toLocal_answers hs hc (Dev.transfer_fromRes (d := s.dev.at w) hlen hok hclean)
  · rintro rfl rfl hin hu hce
    exact transfer_toLocal_answers hs hc (Dev.transfer_fromDdr (d := s.dev.at w) hlen hok hin hu hce)
  · rintro rfl hclean hin
    exact transfer_fromLocal_answers hs hc hlen hok hclean hin

end Sys2Proof.Machine
end

section
/-! SUPPORT. Latched reads of the time (R398, R430), pops of the return and capture queues (R405, R412), and the edges that capture units take (R412). -/

namespace Sys2Proof.Machine

/-! ### The timing unit as a step begins and as it ends -/

/-- As a step begins only the two counters of the clock have moved (R392, R393). -/
theorem Dev.at_tim (d : Dev) (w : When) : ∃ c t, (d.at w).tim = { d.tim with c := c, t := t } := by
  show ∃ c t, (if d.rst.kaUp then d.tim.tick d.freeMode w.ticks else d.tim) = _
  unfold Tim.tick
  split
  · split
    · exact ⟨_, _, rfl⟩
    · exact ⟨_, _, rfl⟩
  · exact ⟨_, _, rfl⟩

/-- A part of the timing unit that the clock's counters do not touch is as before when a step begins. -/
theorem Dev.at_tim_of_unclocked {α : Type} {p : Tim → α} (hp : ∀ (x : Tim) c t, p { x with c := c, t := t } = p x) (d : Dev) (w : When) :
    p (d.at w).tim = p d.tim := by
  obtain ⟨c, t, h⟩ := d.at_tim w
  rw [h, hp]

@[simp] theorem Dev.at_nowLatch1 (d : Dev) (w : When) : (d.at w).tim.nowLatch1 = d.tim.nowLatch1 := Dev.at_tim_of_unclocked (fun _ _ _ => rfl) d w
@[simp] theorem Dev.at_nowLatch2 (d : Dev) (w : When) : (d.at w).tim.nowLatch2 = d.tim.nowLatch2 := Dev.at_tim_of_unclocked (fun _ _ _ => rfl) d w
@[simp] theorem Dev.at_tsq (d : Dev) (w : When) (p : Nat) : (d.at w).tsq p = d.tsq p :=
  Dev.at_tim_of_unclocked (p := fun x => kvD x.tsq p []) (fun _ _ _ => rfl) d w
@[simp] theorem Dev.at_tsqAt (d : Dev) (w : When) : (d.at w).tim.tsqAt = d.tim.tsqAt := Dev.at_tim_of_unclocked (fun _ _ _ => rfl) d w
@[simp] theorem Dev.at_caps (d : Dev) (w : When) : (d.at w).tim.caps = d.tim.caps := Dev.at_tim_of_unclocked (fun _ _ _ => rfl) d w
@[simp] theorem Dev.at_capAt (d : Dev) (w : When) : (d.at w).tim.capAt = d.tim.capAt := Dev.at_tim_of_unclocked (fun _ _ _ => rfl) d w
@[simp] theorem Dev.at_capLast (d : Dev) (w : When) : (d.at w).tim.capLast = d.tim.capLast := Dev.at_tim_of_unclocked (fun _ _ _ => rfl) d w

@[simp] theorem Dev.onTim_tim (d : Dev) (f : Tim → Tim) : (d.onTim f).tim = f d.tim := rfl

theorem State.ended_tim (s : State) (d' : Dev) : (s.ended d').dev.tim = d'.tim :=
  (congrArg Dev.tim (State.ended_body s d') :)

/-! ### Reads -/

/-- What a read answers that gives `v` and changes the timing unit alone, by `f`. -/
theorem State.answers_timRead {i : Instr} {s : State} {w : When} {req : Requester} {g : Dev → Word × Dev} {v : Word} {f : Tim → Tim} (h : Ready s req)
    (hx : exec i s = s.runReq w req (fun d => Dev.replyWord (g d))) (hg : g (s.dev.at w) = (v, (s.dev.at w).onTim f)) :
    Answers i s (fun t => t.dev.reply.words = [v] ∧ t.dev.tim = f (s.dev.at w).tim ∧ Leaves s t w [] [] (fun d => d.onTim f)) := by
  refine State.answers_req hx h.1 (Dev.replyWord (v, (s.dev.at w).onTim f)) (by rw [hg]) ⟨State.ended_words .., State.ended_tim .., ?_⟩
  exact State.ended_leaves h (fun _ _ => rfl) (by simp) rfl rfl rfl rfl

/-- The words that a read of TIME_NOW0 latches hold the seconds and the sub-ns part whole. -/
theorem Dev.nowRead_eq (d : Dev) {x : Stamp} (hx : x = stampOf d.now48) :
    d.nowRead = (x.ns, d.onTim (fun y => { y with nowLatch1 := some (BitVec.ofNat 32 x.sec.toNat),
                                                  nowLatch2 := some (BitVec.ofNat 32 (x.sec.toNat / 2 ^ 32 + x.sub.toNat * 2 ^ 16)) })) := by
  subst hx
  have hsec : (stampOf d.now48).sec.toNat / 2 ^ 32 < 2 ^ 16 := Nat.div_lt_of_lt_mul (stampOf d.now48).sec.isLt
  rw [← Nat.mod_eq_of_lt hsec]
  rfl

/-- The read of a register of `readPop`, outside the queue descriptors, is what `readPop` gives. -/
theorem Dev.readReg_of_readPop {d : Dev} {a : Nat} {x : Word × Dev} (req : Requester) (ha : a % 4 = 0) (hd : isDesc a = false) (h : d.readPop a = some x) :
    d.readReg req a = x := by
  unfold Dev.readReg
  rw [if_neg (by omega), hd, if_neg (by decide), h]

/-- A queue into which nothing comes in this cycle shows a pop all of its entries. -/
theorem tsSeen_of_ne {q : List (BitVec 128)} {at' : Option Nat} {now : Nat} (h : at' ≠ some now) : tsSeen q at' now = q := if_neg h

theorem Dev.tsqRead_cons {d : Dev} {p : Nat} {e : BitVec 128} {r : List (BitVec 128)} (hq : d.tsq p = e :: r) (h : kvGet p d.tim.tsqAt ≠ some d.stamp) :
    d.tsqRead p = (BitVec.ofNat 32 e.toNat, d.onTim (fun x => { x with tsq := kvSet p r x.tsq, tsqLatch := kvSet p e x.tsqLatch })) := by
  unfold Dev.tsqRead
  rw [tsSeen_of_ne h, hq]
  rfl

theorem Dev.capRead_cons {d : Dev} {k : Nat} {e : BitVec 128} {r : List (BitVec 128)} (hk : d.get R.TIME_CAP_SEL_UNIT = k)
    (hq : kvD d.tim.caps k [] = e :: r) (h : kvGet k d.tim.capAt ≠ some d.stamp) :
    d.capRead = (BitVec.ofNat 32 e.toNat, d.onTim (fun x => { x with caps := kvSet k r x.caps, capLatch := e })) := by
  subst hk
  unfold Dev.capRead
  dsimp only
  rw [tsSeen_of_ne h, hq]
  rfl

section
variable {s : State} {w : When} {req : Requester} (h : Ready s req)
include h

/-- R398: a read of TIME_NOW0 gives the ns of the house time and latches the other words of the same instant. -/
theorem timeNowRead_answers {x : Stamp} (hx : x = stampOf (s.dev.at w).now48) : Answers (.timeNowRead w req) s (fun t =>
    t.dev.reply.words = [x.ns] ∧ Keeps s t [] ∧ RaisesJust s t [] ∧ t.dev.tim.nowLatch1 = some (BitVec.ofNat 32 x.sec.toNat) ∧
      t.dev.tim.nowLatch2 = some (BitVec.ofNat 32 (x.sec.toNat / 2 ^ 32 + x.sub.toNat * 2 ^ 16))) := by
  obtain ⟨t, ht, hwords, htim, hkeeps, hraises, -⟩ := State.answers_timRead (i := .timeNowRead w req) h rfl (Dev.nowRead_eq (s.dev.at w) hx)
  exact ⟨t, ht, hwords, hkeeps, hraises, by rw [htim], by rw [htim]⟩

/-- A read of a register whose read changes the timing unit alone, by `f`. -/
theorem rcRead_tim_answers {a : Nat} {v : Word} {f : Tim → Tim} (ha : a % 4 = 0) (hd : isDesc a = false)
    (hp : (s.dev.at w).readPop a = some (v, (s.dev.at w).onTim f)) :
    Answers (.rcRead w req a) s (fun t => t.dev.reply.words = [v] ∧ t.dev.tim = f (s.dev.at w).tim) := by
  obtain ⟨t, ht, hwords, htim, -⟩ :=
    State.answers_timRead (i := .rcRead w req a) (g := (·.readReg req a)) h rfl (Dev.readReg_of_readPop req ha hd hp)
  exact ⟨t, ht, hwords, htim⟩

/-- R398: the next read of TIME_NOW1 returns the latched word, and the latch is empty (log entry 15). -/
theorem rcRead_now1_answers {v : Word} (hv : s.dev.tim.nowLatch1 = some v) :
    Answers (.rcRead w req 0x02200044) s (fun t => t.dev.reply.words = [v] ∧ t.dev.tim.nowLatch1 = none) := by
  have hp : (s.dev.at w).readPop 0x02200044 = tookLatch (s.dev.at w).tim.nowLatch1 ((s.dev.at w).onTim (fun x => { x with nowLatch1 := none })) := rfl
  rw [Dev.at_nowLatch1, hv] at hp
  obtain ⟨t, ht, hwords, htim⟩ := rcRead_tim_answers h (by decide) (by decide) hp
  exact ⟨t, ht, hwords, by rw [htim]⟩

/-- R398: the next read of TIME_NOW2 returns the latched word, and the latch is empty (log entry 15). -/
theorem rcRead_now2_answers {v : Word} (hv : s.dev.tim.nowLatch2 = some v) :
    Answers (.rcRead w req 0x02200048) s (fun t => t.dev.reply.words = [v] ∧ t.dev.tim.nowLatch2 = none) := by
  have hp : (s.dev.at w).readPop 0x02200048 = tookLatch (s.dev.at w).tim.nowLatch2 ((s.dev.at w).onTim (fun x => { x with nowLatch2 := none })) := rfl
  rw [Dev.at_nowLatch2, hv] at hp
  obtain ⟨t, ht, hwords, htim⟩ := rcRead_tim_answers h (by decide) (by decide) hp
  exact ⟨t, ht, hwords, by rw [htim]⟩

/-- R430: a read of TIME_RAW_LO gives the low word of the raw count and latches its high word. -/
theorem timeRawRead_answers : Answers (.timeRawRead w req) s (fun t =>
    t.dev.reply.words = [BitVec.ofNat 32 (s.dev.at w).tim.c.toNat] ∧
      Leaves s t w [] [] (fun d => d.onTim (fun x => { x with rawLatch := some (BitVec.ofNat 32 (x.c.toNat / 2 ^ 32)) }))) := by
  obtain ⟨t, ht, hwords, -, hleaves⟩ := State.answers_timRead (i := .timeRawRead w req) (g := Dev.rawRead) h rfl rfl
  exact ⟨t, ht, hwords, hleaves⟩

/-- R430: a read of TIME_PPS_TS0 gives the ns of the last PPS_IN edge and latches its other words. -/
theorem ppsTsRead_answers : Answers (.ppsTsRead w req) s (fun t =>
    t.dev.reply.words = [BitVec.ofNat 32 (s.dev.get R.TIME_PPS_TS0_NS)] ∧
      Leaves s t w [] [] (fun d => d.onTim (fun x => { x with
        ppsLatch1 := some (BitVec.ofNat 32 (s.dev.get R.TIME_PPS_TS1_SEC)),
        ppsLatch2 := some (BitVec.ofNat 32 (s.dev.get R.TIME_PPS_TS2_SEC + s.dev.get R.TIME_PPS_TS2_STALE * 2 ^ 16)) }))) := by
  obtain ⟨t, ht, hwords, -, hleaves⟩ := State.answers_timRead (i := .ppsTsRead w req) (g := Dev.ppsRead) h rfl rfl
  exact ⟨t, ht, hwords, hleaves⟩

/-- R405: a pop of a return queue gives its oldest entry and removes it. -/
theorem tsqPop_answers {p : Nat} {e : BitVec 128} {r : List (BitVec 128)} (hp : p < 4) (hq : s.dev.tsq p = e :: r)
    (hat : kvGet p s.dev.tim.tsqAt ≠ some (s.dev.at w).stamp) : Answers (.tsqPop w req p) s (fun t =>
      t.dev.reply.words = [BitVec.ofNat 32 e.toNat] ∧
      Leaves s t w [] [] (fun d => d.onTim (fun x => { x with tsq := kvSet p r x.tsq, tsqLatch := kvSet p e x.tsqLatch }))) := by
  have hx : exec (.tsqPop w req p) s = s.runReq w req (fun d => Dev.replyWord (d.tsqRead p)) := by
    show s.runReq w req (fun d => if p < 4 then Dev.replyWord (d.tsqRead p) else d) = _
    simp only [hp, if_true]
  obtain ⟨t, ht, hwords, -, hleaves⟩ := State.answers_timRead h hx
    (Dev.tsqRead_cons ((Dev.at_tsq ..).trans hq) ((Dev.at_tsqAt s.dev w).symm ▸ hat))
  exact ⟨t, ht, hwords, hleaves⟩

/-- R412: a pop of a capture queue gives its oldest entry and removes it. -/
theorem capPop_answers {k : Nat} {e : BitVec 128} {r : List (BitVec 128)} (hk : s.dev.get R.TIME_CAP_SEL_UNIT = k)
    (hq : kvD s.dev.tim.caps k [] = e :: r) (hat : kvGet k s.dev.tim.capAt ≠ some (s.dev.at w).stamp) : Answers (.capPop w req) s (fun t =>
      t.dev.reply.words = [BitVec.ofNat 32 e.toNat] ∧
      Leaves s t w [] [] (fun d => d.onTim (fun x => { x with caps := kvSet k r x.caps, capLatch := e }))) := by
  obtain ⟨t, ht, hwords, -, hleaves⟩ := State.answers_timRead (i := .capPop w req) h rfl
    (Dev.capRead_cons (d := s.dev.at w) hk ((Dev.at_caps s.dev w).symm ▸ hq) ((Dev.at_capAt s.dev w).symm ▸ hat))
  exact ⟨t, ht, hwords, hleaves⟩

end

/-! ### Captured edges -/

/-- The timing unit once unit `k` has taken an edge at XO time `xo`, in 250 ps, whose entry `e` joined its queue in cycle `now` (R412). -/
def Tim.captured (x : Tim) (k xo now : Nat) (e : BitVec 128) : Tim :=
  { x with capLast := kvSet k xo x.capLast, caps := kvSet k (kvD x.caps k [] ++ [e]) x.caps, capAt := kvSet k now x.capAt }

/-- What an edge that unit `k` takes leaves (R412): its entry in the queue, and CAP_READY where the queue was empty. -/
theorem Dev.captureEdge_taken {d : Dev} {b : Bank} {k ns sub : Nat} {rising : Bool} (popped : Bool) (hb : d.img.active = some b)
    (hbank : bit d.rst.banks.toNat 2 = true) (hk : k < 16) (hedge : (if rising = true then (Config.capture b.hash k).1 else (Config.capture b.hash k).2.1) = true)
    (hfilter : (Config.capture b.hash k).2.2 = 0 ∨ (Config.capture b.hash k).2.2 ≤ ns) (hlast : ∀ l, kvGet k d.tim.capLast = some l → l + 80 ≤ 4 * d.xoNs + sub)
    (hroom : (kvD d.tim.caps k []).length < 16) :
    ∃ es : List Ev, es.map (fun e => (e.num, e.silent)) = (if kvD d.tim.caps k [] = [] then [E.CAP_READY] else []).map (fun n => (n, false)) ∧
      d.captureEdge k rising ns sub popped =
        { d.onTim (·.captured k (4 * d.xoNs + sub) d.stamp (tsEntry (quarter (d.readAt sub)) (k + 16 * b2n rising) 0 false)) with evs := d.evs ++ es } := by
  have htaken : ¬(16 ≤ k || !(if rising then (Config.capture b.hash k).1 else (Config.capture b.hash k).2.1) ||
      ((Config.capture b.hash k).2.2 != 0 && decide (ns < (Config.capture b.hash k).2.2))) = true := by
    rw [hedge]
    simp only [Bool.or_eq_true, Bool.and_eq_true, decide_eq_true_eq, bne_iff_ne, Bool.not_true, Bool.false_eq_true,
      or_false, not_or, not_and, Nat.not_lt, Nat.not_le]
    exact ⟨hk, hfilter.resolve_left⟩
  have hgap : ¬(kvGet k d.tim.capLast).any (fun l => decide (4 * d.xoNs + sub < l + 80)) = true := by
    rw [Option.any_eq_true]
    rintro ⟨l, hl, hlt⟩
    exact absurd (hlast l hl) (by simpa using hlt)
  have hfree : ¬(16 ≤ (kvD d.tim.caps k []).length ∧ popped = false) := fun hfull => absurd hfull.1 (by omega)
  generalize hd' : d.onTim (·.captured k (4 * d.xoNs + sub) d.stamp (tsEntry (quarter (d.readAt sub)) (k + 16 * b2n rising) 0 false)) = d'
  have heq : d.captureEdge k rising ns sub popped = if (kvD d.tim.caps k []).isEmpty then d'.ev E.CAP_READY k else d' := by
    unfold Dev.captureEdge
    rw [hbank, if_pos rfl, hb]
    dsimp only
    rw [if_neg htaken, if_neg hgap, ← hd']
    exact if_neg hfree
  have hevs : d.evs = d'.evs := hd' ▸ rfl
  rw [heq, hevs]
  cases kvD d.tim.caps k [] with
  | nil => exact ⟨[_], rfl, rfl⟩
  | cons a r => exact ⟨[], rfl, by rw [List.append_nil]; rfl⟩

/-- R412: an edge that a unit takes, 20 ns after the last on the XO (log entry 71) and on a powered bank (log entry 125), joins its queue with the house time of its
instant truncated to 250 ps (log entry 123), and CAP_READY fires where the queue was empty. -/
theorem captureEdge_answers {s : State} {w : When} {b : Bank} {k ns sub : Nat} {rising : Bool} (hs : Running s) (hb : s.dev.img.active = some b)
    (hbank : bit s.dev.rst.banks.toNat 2 = true) (hk : k < 16)
    (hedge : (if rising = true then (Config.capture b.hash k).1 else (Config.capture b.hash k).2.1) = true)
    (hfilter : (Config.capture b.hash k).2.2 = 0 ∨ (Config.capture b.hash k).2.2 ≤ ns)
    (hlast : ∀ l, kvGet k s.dev.tim.capLast = some l → l + 80 ≤ 4 * (s.dev.at w).xoNs + sub) (hroom : (kvD s.dev.tim.caps k []).length < 16) :
    Answers (.captureEdge w k rising ns sub) s (fun t =>
      kvD t.dev.tim.caps k [] = kvD s.dev.tim.caps k [] ++ [tsEntry (quarter ((s.dev.at w).readAt sub)) (k + 16 * b2n rising) 0 false] ∧
      (∀ j, j ≠ k → kvD t.dev.tim.caps j [] = kvD s.dev.tim.caps j []) ∧
      Keeps s t [] ∧ RaisesJust s t (if kvD s.dev.tim.caps k [] = [] then [E.CAP_READY] else [])) := by
  have hcaps := Dev.at_caps s.dev w
  have htaken := fun popped => Dev.captureEdge_taken (d := s.dev.at w) (rising := rising) popped hb hbank hk hedge hfilter
    (by rwa [Dev.at_capLast]) (by rwa [hcaps])
  rw [hcaps] at htaken
  obtain ⟨es, hes, htaken⟩ := htaken _
  refine State.answers_main (i := .captureEdge w k rising ns sub) rfl hs.1 _ htaken ?_
  rw [State.ended_tim]
  dsimp only [Dev.onTim_tim, Tim.captured]
  rw [hcaps]
  refine ⟨kvD_kvSet_self .., fun j hj => kvD_kvSet_ne hj .., State.ended_keeps _ _ _ (fun _ _ => rfl), ?_⟩
  refine State.ended_raises' _ _ _ hs.1 (fun _ _ => rfl) rfl rfl rfl rfl rfl ?_ ?_
  · have hevs : (s.dev.at w).evs = [] := hs.2
    rw [hevs]
    exact hes
  · split
    · decide
    · exact nofun

/-- Settles O28: a read that latches, and a pop, change the timing unit alone, whose other parts only the clock's counters move before; an edge that passes the image's
settings, the 20 ns and the queue's room joins the queue. -/
theorem timeReadsAndStamps : Obligations.TimeReadsAndStamps := by
  unfold Obligations.TimeReadsAndStamps
  refine ⟨fun s w req x h hx => ⟨?_, timeRawRead_answers h, ppsTsRead_answers h⟩, fun s w => ⟨?_, ?_, ?_⟩⟩
  · obtain ⟨t, ht, hwords, hkeeps, hraises, hlatch1, hlatch2⟩ := timeNowRead_answers h hx
    exact ⟨t, ht, hwords, hkeeps, hraises, fun u w' hu1 hu2 hready =>
      ⟨rcRead_now1_answers hready (hu1.trans hlatch1), rcRead_now2_answers hready (hu2.trans hlatch2)⟩⟩
  · exact fun req p e r h hp hq hat => tsqPop_answers h hp hq hat
  · exact fun req k e r h hk hq hat => capPop_answers h hk hq hat
  · exact fun b k rising ns sub hs hb hbank hk hedge hfilter hlast hroom => captureEdge_answers hs hb hbank hk hedge hfilter hlast hroom

end Sys2Proof.Machine
end

section
/-! SUPPORT. Injected events (R608): what a cycle holds while the event controller works, what one raise does there (R602, R603, R605, R607, R612), and a
step that writes no sump record. -/

namespace Sys2Proof.Machine

/-! ### What the present cycle holds -/

theorem Cyc.stamp_now (c : Cyc) (t : Nat) : (c.now t).stamp = t := by
  unfold Cyc.now
  split
  · assumption
  · rfl

@[simp] theorem Cyc.mark_stamp (c : Cyc) (f : Fld) (m : Nat) : (c.mark f m).stamp = c.stamp := by unfold Cyc.mark; split <;> rfl
@[simp] theorem Cyc.mark_old (c : Cyc) (f : Fld) (m : Nat) : (c.mark f m).old = c.old := by unfold Cyc.mark; split <;> rfl
@[simp] theorem Cyc.mark_evs (c : Cyc) (f : Fld) (m : Nat) : (c.mark f m).evs = c.evs := by unfold Cyc.mark; split <;> rfl

theorem Dev.stamp_thisCyc (d : Dev) : d.thisCyc.stamp = d.stamp := Cyc.stamp_now ..

/-- What the registers hold of a cycle is what the present one holds, where it is the present one. -/
theorem Dev.thisCyc_of_stamp {d : Dev} (h : d.regs.cyc.stamp = d.stamp) : d.thisCyc = d.regs.cyc := if_pos h

/-- A write of any field but RUNNING leaves the cycle the present one. -/
theorem Dev.stamp_set (d : Dev) {g : Fld} (v : Nat) (h : g.key ≠ R.STK_STAT_RUNNING.key) : (d.set g v).stamp = d.stamp := by
  unfold Dev.stamp
  rw [Dev.get_set_ne d v h.symm]
  rfl

@[simp] theorem Dev.stamp_markHw (d : Dev) (g : Fld) (m : Nat) : (d.markHw g m).stamp = d.stamp := by
  unfold Dev.stamp
  rw [Dev.get_markHw]
  rfl

@[simp] theorem Dev.stamp_markRc (d : Dev) (g : Fld) (x n : Nat) : (d.markRc g x n).stamp = d.stamp := by
  unfold Dev.stamp
  rw [Dev.get_markRc]
  rfl

@[simp] theorem Dev.stamp_onCyc (d : Dev) (f : Cyc → Cyc) : (d.onCyc f).stamp = d.stamp := by
  unfold Dev.stamp
  rw [Dev.get_onCyc]
  rfl

theorem Dev.thisCyc_markHw (d : Dev) (g : Fld) (m : Nat) : (d.markHw g m).thisCyc = d.thisCyc.mark g m :=
  Dev.thisCyc_of_stamp (by rw [Dev.stamp_markHw]; exact (Cyc.mark_stamp ..).trans d.stamp_thisCyc)

theorem Dev.thisCyc_set (d : Dev) {g : Fld} (v : Nat) (h : g.key ≠ R.STK_STAT_RUNNING.key) : ∃ m, (d.set g v).thisCyc = d.thisCyc.mark g m :=
  ⟨_, Dev.thisCyc_of_stamp (by rw [Dev.stamp_set d v h]; exact (Cyc.mark_stamp ..).trans d.stamp_thisCyc)⟩

theorem Dev.thisCyc_onCyc (d : Dev) {f : Cyc → Cyc} (h : (f d.thisCyc).stamp = d.thisCyc.stamp) : (d.onCyc f).thisCyc = f d.thisCyc :=
  Dev.thisCyc_of_stamp (by rw [Dev.stamp_onCyc]; exact h.trans d.stamp_thisCyc)

theorem Dev.thisCyc_markRc (d : Dev) (g : Fld) (x n : Nat) :
    (d.markRc g x n).thisCyc.old = d.thisCyc.old ∧ (d.markRc g x n).thisCyc.evs = d.thisCyc.evs := by
  have h : (d.markRc g x n).thisCyc = (d.markRc g x n).regs.cyc := Dev.thisCyc_of_stamp (by
    rw [Dev.stamp_markRc, ← d.stamp_thisCyc]
    unfold Dev.markRc
    dsimp only [RegStore.withCyc]
    split <;> rfl)
  rw [h]
  unfold Dev.markRc
  dsimp only [RegStore.withCyc]
  split <;> exact ⟨rfl, rfl⟩

/-- A count in any field but RUNNING leaves the events of the cycle. -/
theorem Dev.thisCyc_evs_count (d : Dev) {g : Fld} (n : Nat) (h : g.key ≠ R.STK_STAT_RUNNING.key) : (d.count g n).thisCyc.evs = d.thisCyc.evs := by
  obtain ⟨m, hm⟩ := d.thisCyc_set (min (d.get g + n) (2 ^ g.width - 1)) h
  rw [Dev.count, (Dev.thisCyc_markRc ..).2, hm, Cyc.mark_evs]

/-! ### The routing in force (R612) -/

/-- What a field held before its cycle's write of it is known by the old values of the cycle and by what it holds. -/
theorem Dev.before_congr {d e : Dev} {f : Fld} (hold : e.thisCyc.old = d.thisCyc.old) (hget : e.get f = d.get f) : e.before f = d.before f := by
  unfold Dev.before
  rw [hold, hget]

theorem Dev.before_set (d : Dev) {f g : Fld} (v : Nat) (h : f.key ≠ g.key) (hr : g.key ≠ R.STK_STAT_RUNNING.key) : (d.set g v).before f = d.before f := by
  obtain ⟨m, hm⟩ := d.thisCyc_set v hr
  exact Dev.before_congr (by rw [hm, Cyc.mark_old]) (Dev.get_set_ne d v h)

@[simp] theorem Dev.before_markHw (d : Dev) (f g : Fld) (m : Nat) : (d.markHw g m).before f = d.before f :=
  Dev.before_congr (by rw [Dev.thisCyc_markHw, Cyc.mark_old]) (Dev.get_markHw ..)

theorem Dev.before_count (d : Dev) {f g : Fld} (n : Nat) (h : f.key ≠ g.key) (hr : g.key ≠ R.STK_STAT_RUNNING.key) : (d.count g n).before f = d.before f :=
  (Dev.before_congr (Dev.thisCyc_markRc ..).1 (Dev.get_markRc ..)).trans (Dev.before_set d _ h hr)

theorem Dev.before_orBit (d : Dev) {f g : Fld} (n : Nat) (h : f.key ≠ g.key) (hr : g.key ≠ R.STK_STAT_RUNNING.key) : (d.orBit g n).before f = d.before f :=
  (Dev.before_markHw ..).trans (Dev.before_set d _ h hr)

@[simp] theorem Dev.before_vecDue (d : Dev) (f : Fld) (v : Nat) : (d.vecDue v).before f = d.before f := by unfold Dev.vecDue; split <;> rfl

@[simp] theorem Dev.before_vecCycle (d : Dev) (f : Fld) (on : Bool) : (d.vecCycle on).before f = d.before f := by
  unfold Dev.vecCycle
  split
  · exact Dev.before_congr ((congrArg Cyc.old (Dev.thisCyc_onCyc _ rfl)).trans rfl) (Dev.get_onCyc ..)
  · rfl

/-! ### The pending bitmaps (R603) -/

/-- The field lies in EVT_ROUTE, past every pending bitmap of EVT. -/
abbrev Fld.OfRoute (f : Fld) : Prop := 0x40400 * 32 ≤ f.key ∧ f.key < 0x40800 * 32

/-- The field lies in EVT_RAW or in a pending bitmap of EVT. -/
abbrev Fld.OfBitmap (f : Fld) : Prop := 0x40100 * 32 ≤ f.key ∧ f.key < 0x401E0 * 32

theorem Dev.before_orBit_of_route (d : Dev) {f g : Fld} (n : Nat) (hf : f.OfRoute) (hg : g.OfBitmap) : (d.orBit g n).before f = d.before f := by
  have hr : 0x40800 * 32 ≤ R.STK_STAT_RUNNING.key := by decide
  exact Dev.before_orBit d n (by omega) (by omega)

theorem pendBit_congr {d e : Dev} {f : Nat → Fld} {n : Nat} (h : e.get (f (n / 32)) = d.get (f (n / 32))) : pendBit e f n = pendBit d f n := by
  unfold pendBit
  rw [h]

theorem Dev.pendBit_orBit_self (d : Dev) {f : Nat → Fld} (n : Nat) (h : (f (n / 32)).width = 32) : pendBit (d.orBit (f (n / 32)) n) f n = true := by
  unfold pendBit
  rw [Dev.get_orBit_self _ _ _ (Nat.le_of_eq h), h, bit_eq_testBit, Nat.testBit_mod_two_pow]
  simp [Nat.mod_lt]

theorem Dev.pendBit_orBit_ne (d : Dev) {f : Nat → Fld} {g : Fld} (n : Nat) (h : (f (n / 32)).key ≠ g.key) : pendBit (d.orBit g n) f n = pendBit d f n :=
  pendBit_congr (Dev.get_orBit_ne d n h)

/-! ### One delivery, part by part (R602, R603, R605) -/

/-- Delivery to core `c`, where CORES names it (R603). -/
def Dev.deliverCore (n : Nat) (d : Dev) (c : Nat) : Dev :=
  if bit (d.before (R.EVT_ROUTE_CORES n)) c then d.orBit (R.EVT_CPEND_BITS c (n / 32)) n else d

theorem Dev.deliverCores_eq (d : Dev) (n : Nat) : d.deliverCores n = d.each [0, 1, 2, 3] (Dev.deliverCore n) := rfl

/-- A fold of steps keeps a value that each of its own steps keeps. -/
theorem Dev.each_keeps_of_mem {α β : Type} (p : Dev → β) (g : Dev → α → Dev) (l : List α) (h : ∀ a ∈ l, ∀ d, p (g d a) = p d) (d : Dev) :
    p (d.each l g) = p d := by
  unfold Dev.each
  induction l generalizing d with
  | nil => rfl
  | cons a r ih => rw [List.foldl_cons, ih (fun b hb => h b (by simp [hb])), h a (by simp)]

section
variable {n : Nat} (hn : n < 256)
include hn

theorem R.evtRoute_ofRoute :
    (R.EVT_ROUTE_CORES n).OfRoute ∧ (R.EVT_ROUTE_VEC n).OfRoute ∧ (R.EVT_ROUTE_MSIX n).OfRoute ∧ (R.EVT_ROUTE_ALERT n).OfRoute := by
  simp only [Fld.OfRoute, Fld.key, R.EVT_ROUTE_CORES, R.EVT_ROUTE_VEC, R.EVT_ROUTE_MSIX, R.EVT_ROUTE_ALERT]
  omega

theorem R.evtCpend_key {c : Nat} (hc : c < 4) : 0x40120 * 32 ≤ (R.EVT_CPEND_BITS c (n / 32)).key ∧ (R.EVT_CPEND_BITS c (n / 32)).key < 0x401A0 * 32 := by
  simp only [Fld.key, R.EVT_CPEND_BITS]
  omega

theorem R.evtHpend_key : 0x401A0 * 32 ≤ (R.EVT_HPEND_BITS (n / 32)).key ∧ (R.EVT_HPEND_BITS (n / 32)).key < 0x401C0 * 32 := by
  simp only [Fld.key, R.EVT_HPEND_BITS]
  omega

theorem R.evtApend_key : 0x401C0 * 32 ≤ (R.EVT_APEND_BITS (n / 32)).key ∧ (R.EVT_APEND_BITS (n / 32)).key < 0x401E0 * 32 := by
  simp only [Fld.key, R.EVT_APEND_BITS]
  omega

theorem R.evtRaw_key : 0x40100 * 32 ≤ (R.EVT_RAW_BITS (n / 32)).key ∧ (R.EVT_RAW_BITS (n / 32)).key < 0x40120 * 32 := by
  simp only [Fld.key, R.EVT_RAW_BITS]
  omega

theorem Dev.get_deliverCores (d : Dev) {f : Fld} (h : f.key < 0x40120 * 32 ∨ 0x401A0 * 32 ≤ f.key) : (d.deliverCores n).get f = d.get f := by
  refine Dev.each_keeps_of_mem (fun d => d.get f) (Dev.deliverCore n) _ (fun c hc d => ?_) d
  have hk := R.evtCpend_key hn (c := c) (by simp at hc; omega)
  unfold Dev.deliverCore
  split
  · exact Dev.get_orBit_ne d n (by omega)
  · rfl

theorem Dev.before_deliverCore (d : Dev) {c : Nat} (hc : c < 4) {f : Fld} (hf : f.OfRoute) : (Dev.deliverCore n d c).before f = d.before f := by
  have hk := R.evtCpend_key hn hc
  unfold Dev.deliverCore
  split
  · exact Dev.before_orBit_of_route d n hf (by omega)
  · rfl

theorem Dev.before_deliverCores (d : Dev) {f : Fld} (hf : f.OfRoute) : (d.deliverCores n).before f = d.before f :=
  Dev.each_keeps_of_mem (fun d => d.before f) (Dev.deliverCore n) _ (fun c hc d => Dev.before_deliverCore hn d (by simp at hc; omega) hf) d

omit hn in
/-- Delivery to core `e` sets the event's bit in the bitmap of core `e` alone. -/
theorem Dev.pendBit_deliverCore (d : Dev) (c e : Nat) :
    pendBit (Dev.deliverCore n d e) (R.EVT_CPEND_BITS c) n =
      (pendBit d (R.EVT_CPEND_BITS c) n || (e == c && bit (d.before (R.EVT_ROUTE_CORES n)) c)) := by
  unfold Dev.deliverCore
  by_cases hec : e = c
  · subst hec
    split
    · next h => rw [Dev.pendBit_orBit_self d n rfl, h]; simp
    · next h => simp [h]
  · have hk : (R.EVT_CPEND_BITS c (n / 32)).key ≠ (R.EVT_CPEND_BITS e (n / 32)).key := by
      simp only [Fld.key, R.EVT_CPEND_BITS]
      omega
    split
    · rw [Dev.pendBit_orBit_ne d n hk]; simp [hec]
    · simp [hec]

theorem Dev.pendBit_each_deliverCore (d : Dev) (c : Nat) (l : List Nat) (hl : ∀ e ∈ l, e < 4) :
    pendBit (d.each l (Dev.deliverCore n)) (R.EVT_CPEND_BITS c) n =
      (pendBit d (R.EVT_CPEND_BITS c) n || (l.contains c && bit (d.before (R.EVT_ROUTE_CORES n)) c)) := by
  induction l generalizing d with
  | nil => simp [Dev.each]
  | cons e r ih =>
    have he : e < 4 := hl e (by simp)
    have step := ih (Dev.deliverCore n d e) (fun x hx => hl x (by simp [hx]))
    rw [Dev.before_deliverCore hn d he (R.evtRoute_ofRoute hn).1, Dev.pendBit_deliverCore] at step
    rw [List.contains_cons, Bool.and_or_distrib_right, ← Bool.or_assoc, BEq.comm (a := c)]
    exact step

theorem Dev.pendBit_deliverCores (d : Dev) {c : Nat} (hc : c < 4) :
    pendBit (d.deliverCores n) (R.EVT_CPEND_BITS c) n = (pendBit d (R.EVT_CPEND_BITS c) n || bit (d.before (R.EVT_ROUTE_CORES n)) c) := by
  have hmem : [0, 1, 2, 3].contains c = true := by simp; omega
  rw [Dev.deliverCores_eq, Dev.pendBit_each_deliverCore hn d c _ (by decide), hmem, Bool.true_and]

theorem Dev.get_deliverHost (d : Dev) {f : Fld} (h : f.key < 0x401A0 * 32 ∨ 0x401C0 * 32 ≤ f.key) : (d.deliverHost n).get f = d.get f := by
  have hk := R.evtHpend_key hn
  have hor : (d.orBit (R.EVT_HPEND_BITS (n / 32)) n).get f = d.get f := Dev.get_orBit_ne d n (by omega)
  unfold Dev.deliverHost
  dsimp only
  split
  · rfl
  · split
    · exact hor
    · rw [Dev.get_vecDue, hor]

theorem Dev.before_deliverHost (d : Dev) {f : Fld} (hf : f.OfRoute) : (d.deliverHost n).before f = d.before f := by
  have hk := R.evtHpend_key hn
  have hor : (d.orBit (R.EVT_HPEND_BITS (n / 32)) n).before f = d.before f := Dev.before_orBit_of_route d n hf (by omega)
  unfold Dev.deliverHost
  dsimp only
  split
  · rfl
  · split
    · exact hor
    · rw [Dev.before_vecDue, hor]

omit hn in
theorem Dev.pendBit_deliverHost (d : Dev) :
    pendBit (d.deliverHost n) R.EVT_HPEND_BITS n = (pendBit d R.EVT_HPEND_BITS n || d.before (R.EVT_ROUTE_MSIX n) == 1) := by
  have hset : pendBit (d.orBit (R.EVT_HPEND_BITS (n / 32)) n) R.EVT_HPEND_BITS n = true := Dev.pendBit_orBit_self d n rfl
  unfold Dev.deliverHost
  dsimp only
  split
  · next h => simp [h]
  · next h =>
    have h := Decidable.not_not.mp h
    rw [h, beq_self_eq_true, Bool.or_true]
    split
    · exact hset
    · exact (pendBit_congr (Dev.get_vecDue ..)).trans hset

omit hn in
/-- A vector that becomes due is due. -/
theorem Dev.vecDue_isSome (d : Dev) (v : Nat) : (kvGet v (d.vecDue v).msix.due).isSome = true := by
  unfold Dev.vecDue
  split
  · assumption
  · exact congrArg Option.isSome (kvGet_kvSet_self ..)

omit hn in
theorem Dev.deliverHost_due (d : Dev) (hm : d.before (R.EVT_ROUTE_MSIX n) = 1) (hp : pendBit d R.EVT_HPEND_BITS n = false) :
    (kvGet (d.before (R.EVT_ROUTE_VEC n)) (d.deliverHost n).msix.due).isSome = true := by
  unfold pendBit at hp
  unfold Dev.deliverHost
  dsimp only
  rw [if_neg (Decidable.not_not.mpr hm), if_neg (by simp [hp])]
  exact Dev.vecDue_isSome ..

theorem Dev.get_deliverAlert (d : Dev) {f : Fld} (h : f.key < 0x401C0 * 32 ∨ 0x401E0 * 32 ≤ f.key) : (d.deliverAlert n).get f = d.get f := by
  have hk := R.evtApend_key hn
  unfold Dev.deliverAlert
  split
  · exact Dev.get_orBit_ne d n (by omega)
  · rfl

omit hn in
theorem Dev.pendBit_deliverAlert (d : Dev) :
    pendBit (d.deliverAlert n) R.EVT_APEND_BITS n = (pendBit d R.EVT_APEND_BITS n || d.before (R.EVT_ROUTE_ALERT n) == 1) := by
  unfold Dev.deliverAlert
  split
  · next h => rw [Dev.pendBit_orBit_self d n rfl, h]; simp
  · next h => simp [h]

omit hn in
@[simp] theorem Dev.deliverAlert_msix (d : Dev) : (d.deliverAlert n).msix = d.msix := by unfold Dev.deliverAlert; split <;> rfl

/-! ### One delivery -/

theorem Dev.get_deliver (d : Dev) {f : Fld} (h : f.key < 0x40100 * 32 ∨ 0x401E0 * 32 ≤ f.key) : (d.deliver n).get f = d.get f := by
  have hk := R.evtRaw_key hn
  unfold Dev.deliver
  rw [Dev.get_deliverAlert hn _ (by omega), Dev.get_deliverHost hn _ (by omega), Dev.get_deliverCores hn _ (by omega), Dev.get_orBit_ne d n (by omega)]

theorem Dev.pendBit_deliver_cores (d : Dev) {c : Nat} (hc : c < 4) :
    pendBit (d.deliver n) (R.EVT_CPEND_BITS c) n = (pendBit d (R.EVT_CPEND_BITS c) n || bit (d.before (R.EVT_ROUTE_CORES n)) c) := by
  have hraw := R.evtRaw_key hn
  have hcp := R.evtCpend_key hn hc
  calc pendBit (d.deliver n) (R.EVT_CPEND_BITS c) n
      = pendBit ((d.orBit (R.EVT_RAW_BITS (n / 32)) n).deliverCores n) (R.EVT_CPEND_BITS c) n :=
        pendBit_congr ((Dev.get_deliverAlert hn _ (by omega)).trans (Dev.get_deliverHost hn _ (by omega)))
    _ = _ := by rw [Dev.pendBit_deliverCores hn _ hc, Dev.pendBit_orBit_ne d n (by omega), Dev.before_orBit_of_route d n (R.evtRoute_ofRoute hn).1 (by omega)]

/-- The routing of a raise is the same after its bit of EVT_RAW is set and the cores have it. -/
theorem Dev.before_raw_deliverCores (d : Dev) {f : Fld} (hf : f.OfRoute) : ((d.orBit (R.EVT_RAW_BITS (n / 32)) n).deliverCores n).before f = d.before f := by
  have hraw := R.evtRaw_key hn
  rw [Dev.before_deliverCores hn _ hf, Dev.before_orBit_of_route d n hf (by omega)]

theorem Dev.pendBit_raw_deliverCores_host (d : Dev) :
    pendBit ((d.orBit (R.EVT_RAW_BITS (n / 32)) n).deliverCores n) R.EVT_HPEND_BITS n = pendBit d R.EVT_HPEND_BITS n := by
  have hraw := R.evtRaw_key hn
  have hh := R.evtHpend_key hn
  exact pendBit_congr ((Dev.get_deliverCores hn _ (by omega)).trans (Dev.get_orBit_ne d n (by omega)))

theorem Dev.pendBit_deliver_host (d : Dev) :
    pendBit (d.deliver n) R.EVT_HPEND_BITS n = (pendBit d R.EVT_HPEND_BITS n || d.before (R.EVT_ROUTE_MSIX n) == 1) := by
  have hh := R.evtHpend_key hn
  obtain ⟨-, -, hmsix, -⟩ := R.evtRoute_ofRoute hn
  unfold Dev.deliver
  rw [pendBit_congr (Dev.get_deliverAlert hn _ (by omega)), Dev.pendBit_deliverHost, Dev.pendBit_raw_deliverCores_host hn, Dev.before_raw_deliverCores hn d hmsix]

theorem Dev.pendBit_deliver_alert (d : Dev) :
    pendBit (d.deliver n) R.EVT_APEND_BITS n = (pendBit d R.EVT_APEND_BITS n || d.before (R.EVT_ROUTE_ALERT n) == 1) := by
  have hraw := R.evtRaw_key hn
  have ha := R.evtApend_key hn
  obtain ⟨-, -, -, halert⟩ := R.evtRoute_ofRoute hn
  unfold Dev.deliver
  rw [Dev.pendBit_deliverAlert, Dev.before_deliverHost hn _ halert, Dev.before_raw_deliverCores hn d halert, pendBit_congr (Dev.get_deliverHost hn _ (by omega)),
    pendBit_congr (Dev.get_deliverCores hn _ (by omega)), Dev.pendBit_orBit_ne d n (by omega)]

/-- A delivery under a route to the host makes its vector due where the host's bit was 0. -/
theorem Dev.deliver_due (d : Dev) (hm : d.before (R.EVT_ROUTE_MSIX n) = 1) (hp : pendBit d R.EVT_HPEND_BITS n = false) :
    (kvGet (d.before (R.EVT_ROUTE_VEC n)) (d.deliver n).msix.due).isSome = true := by
  obtain ⟨-, hvec, hmsix, -⟩ := R.evtRoute_ofRoute hn
  have h := Dev.deliverHost_due ((d.orBit (R.EVT_RAW_BITS (n / 32)) n).deliverCores n) (by rwa [Dev.before_raw_deliverCores hn d hmsix])
    (by rwa [Dev.pendBit_raw_deliverCores_host hn])
  rw [Dev.before_raw_deliverCores hn d hvec] at h
  unfold Dev.deliver
  rwa [Dev.deliverAlert_msix]

end

/-! ### A step that raises one event (R602, R612, R618) -/

/-- Event `n`, the step's only one, reaches the event controller: it is delivered, EVT_LAST takes it where no higher event of its cycle came before, and
EVT_TOTAL counts it where its cycle has not raised it before. -/
def Dev.raiseOne (d : Dev) (n : Nat) : Dev :=
  let seen := d.thisCyc.evs
  let d := ((d.vecCycle true).deliver n).onCyc (fun c => { c with evs := insNat n seen })
  ((d.set R.EVT_LAST_EVENT (max n (seen.getLast?.getD 0))).set R.EVT_LAST_STROKE d.sumpStroke).count R.EVT_TOTAL_COUNT (if seen.contains n then 0 else 1)

theorem Dev.settleEvt_of_raised {d : Dev} {n : Nat} (hm : d.rst.mainUp = true) (h : d.raised = [n]) : d.settleEvt = d.raiseOne n := by
  unfold Dev.settleEvt Dev.raiseOne
  rw [if_pos hm, h]
  by_cases hs : n ∈ d.thisCyc.evs
  · simp [hs, Dev.each]
  · simp [hs, Dev.each]

/-- The field is none of EVT_LAST and EVT_TOTAL. -/
abbrev Fld.OffTally (f : Fld) : Prop := f.key < R.EVT_LAST_EVENT.key ∨ R.EVT_TOTAL_COUNT.key < f.key

/-- EVT_RAW, the bitmaps and everything past them lie past EVT_LAST and EVT_TOTAL. -/
theorem Fld.offTally_of_key {f : Fld} (h : 0x40100 * 32 ≤ f.key) : f.OffTally := by
  have htotal : R.EVT_TOTAL_COUNT.key < 0x40100 * 32 := by decide
  exact .inr (by omega)

theorem Dev.get_raiseOne (d : Dev) (n : Nat) {f : Fld} (h : f.OffTally) : (d.raiseOne n).get f = ((d.vecCycle true).deliver n).get f := by
  have hstroke : R.EVT_LAST_EVENT.key < R.EVT_LAST_STROKE.key ∧ R.EVT_LAST_STROKE.key < R.EVT_TOTAL_COUNT.key := by decide
  unfold Dev.raiseOne
  dsimp only
  rw [Dev.get_count_ne _ _ (by omega), Dev.get_set_ne _ _ (by omega), Dev.get_set_ne _ _ (by omega), Dev.get_onCyc]

@[simp] theorem Dev.onCyc_msix (d : Dev) (f : Cyc → Cyc) : (d.onCyc f).msix = d.msix := rfl

theorem Dev.raiseOne_msix (d : Dev) (n : Nat) : (d.raiseOne n).msix = ((d.vecCycle true).deliver n).msix := by
  unfold Dev.raiseOne
  dsimp only
  rw [Dev.count_msix, Dev.set_msix, Dev.set_msix, Dev.onCyc_msix]

/-- The first event of a cycle is the one that EVT_LAST names. -/
theorem Dev.raiseOne_last {d : Dev} {n : Nat} (hn : n < 256) (h : d.thisCyc.evs = []) : (d.raiseOne n).get R.EVT_LAST_EVENT = n := by
  unfold Dev.raiseOne
  dsimp only
  rw [Dev.get_count_ne _ _ (by decide), Dev.get_set_ne _ _ (by decide), Dev.get_set_self _ _ _ (by decide), h]
  simpa [R.EVT_LAST_EVENT] using hn

/-- A counter of 32 bits counts `k` more, up to its end. -/
theorem Dev.get_count_self (d : Dev) {f : Fld} (k : Nat) (hw : f.width = 32) : (d.count f k).get f = min (d.get f + k) (2 ^ 32 - 1) := by
  rw [Dev.get_count, Dev.get_set_self _ _ _ (Nat.le_of_eq hw), hw]
  omega

theorem Dev.raiseOne_total (d : Dev) {n : Nat} (hn : n < 256) :
    (d.raiseOne n).get R.EVT_TOTAL_COUNT = min (d.get R.EVT_TOTAL_COUNT + if d.thisCyc.evs.contains n then 0 else 1) (2 ^ 32 - 1) := by
  unfold Dev.raiseOne
  dsimp only
  rw [Dev.get_count_self _ _ rfl, Dev.get_set_ne _ _ (by decide), Dev.get_set_ne _ _ (by decide), Dev.get_onCyc, Dev.get_deliver hn _ (by decide), Dev.vecCycle_get]

section
variable {n : Nat} (hn : n < 256)
include hn

theorem Dev.pendBit_raiseOne_cores (d : Dev) {c : Nat} (hc : c < 4) :
    pendBit (d.raiseOne n) (R.EVT_CPEND_BITS c) n = (pendBit d (R.EVT_CPEND_BITS c) n || bit (d.before (R.EVT_ROUTE_CORES n)) c) := by
  have hk := R.evtCpend_key hn hc
  rw [pendBit_congr (d.get_raiseOne n (Fld.offTally_of_key (by omega))), Dev.pendBit_deliver_cores hn _ hc, pendBit_congr (Dev.vecCycle_get ..), Dev.before_vecCycle]

theorem Dev.pendBit_raiseOne_host (d : Dev) :
    pendBit (d.raiseOne n) R.EVT_HPEND_BITS n = (pendBit d R.EVT_HPEND_BITS n || d.before (R.EVT_ROUTE_MSIX n) == 1) := by
  have hk := R.evtHpend_key hn
  rw [pendBit_congr (d.get_raiseOne n (Fld.offTally_of_key (by omega))), Dev.pendBit_deliver_host hn, pendBit_congr (Dev.vecCycle_get ..), Dev.before_vecCycle]

theorem Dev.pendBit_raiseOne_alert (d : Dev) :
    pendBit (d.raiseOne n) R.EVT_APEND_BITS n = (pendBit d R.EVT_APEND_BITS n || d.before (R.EVT_ROUTE_ALERT n) == 1) := by
  have hk := R.evtApend_key hn
  rw [pendBit_congr (d.get_raiseOne n (Fld.offTally_of_key (by omega))), Dev.pendBit_deliver_alert hn, pendBit_congr (Dev.vecCycle_get ..), Dev.before_vecCycle]

theorem Dev.raiseOne_due (d : Dev) (hm : d.before (R.EVT_ROUTE_MSIX n) = 1) (hp : pendBit d R.EVT_HPEND_BITS n = false) :
    (kvGet (d.before (R.EVT_ROUTE_VEC n)) (d.raiseOne n).msix.due).isSome = true := by
  have h := Dev.deliver_due hn (d.vecCycle true) (by rwa [Dev.before_vecCycle]) (by rwa [pendBit_congr (Dev.vecCycle_get ..)])
  rwa [Dev.before_vecCycle, ← Dev.raiseOne_msix] at h

/-- One raise sets no bit of EVT_RAW but its event's. -/
theorem Dev.raiseOne_raw_only (d : Dev) {k : Nat} (hk : k < 256) (h : bit ((d.raiseOne n).get (R.EVT_RAW_BITS (k / 32))) (k % 32) = true) :
    bit (d.get (R.EVT_RAW_BITS (k / 32))) (k % 32) = true ∨ k = n := by
  have hkey := R.evtRaw_key hk
  rw [d.get_raiseOne n (Fld.offTally_of_key (by omega))] at h
  have := Dev.deliver_raw_only _ _ _ _ hn (by omega) (Nat.mod_lt k (by decide)) h
  rw [Dev.vecCycle_get] at this
  exact this.imp id (by omega)

end

/-! ### Steps without a sump record (R594, R608) -/

theorem Dev.settle_of_newRecs {d : Dev} (h : d.newRecs = []) : d.settle = { d.settleEvt with evs := [] } := by
  have hs : d.settleSump = d := by unfold Dev.settleSump; rw [h]
  unfold Dev.settle
  rw [hs]

/-- A step without events changes nothing as it ends. -/
theorem Dev.settle_of_evs_nil {d : Dev} (h : d.evs = []) : d.settle = d := by
  have hrecs : d.newRecs = [] := by unfold Dev.newRecs; rw [h]; rfl
  have hraised : d.raised = [] := by unfold Dev.raised; rw [h]; rfl
  have hevt : d.settleEvt = d := by
    unfold Dev.settleEvt
    rw [hraised]
    exact ite_self d
  rw [Dev.settle_of_newRecs hrecs, hevt, ← h]

/-- An injection writes no record, and its event is the step's only one. -/
theorem Dev.settle_of_injected {d : Dev} {n : Nat} (hm : d.rst.mainUp = true) (hn : n < 256) (h : d.evs = [{ num := n, inj := true }]) :
    d.settle = { d.raiseOne n with evs := [] } := by
  have hrecs : d.newRecs = [] := by simp [Dev.newRecs, h, Dev.fatal]
  have hraised : d.raised = [n] := by simp [Dev.raised, h, insNat, Nat.mod_eq_of_lt hn]
  rw [Dev.settle_of_newRecs hrecs, Dev.settleEvt_of_raised hm hraised]

/-- A step that leaves MEDIA alone raises no event for it (R609). -/
theorem State.ended_of_media {s : State} {d' : Dev} (h : d'.media = s.dev.media) : s.ended d' = { s with dev := d'.settle } := by
  have hmid : d'.mediaEv s.dev.media = d' := by unfold Dev.mediaEv; simp [h]
  unfold State.ended
  rw [hmid]

/-! ### A write of EVT_INJECT (R608) -/

/-- MEDIA is known by three fields, the reset of the main domain and the active image (R25). -/
theorem Dev.media_congr {d e : Dev} (hm : e.rst.mainUp = d.rst.mainUp) (hi : e.img.active = d.img.active)
    (hget : ∀ f ∈ [R.RST_PWR_STATE, R.RST_STAT_RECOVERY, R.STK_STAT_RUNNING], e.get f = d.get f) : e.media = d.media := by
  have hpwr := hget R.RST_PWR_STATE (by simp)
  have hrec := hget R.RST_STAT_RECOVERY (by simp)
  have hrun := hget R.STK_STAT_RUNNING (by simp)
  simp only [Dev.media, Dev.flag, hm, hi, hpwr, hrec, hrun]

/-- The field is a control or counter of EVT, before EVT_RAW. -/
abbrev Fld.OfEvtCtl (f : Fld) : Prop := 0x40000 * 32 ≤ f.key ∧ f.key < 0x40100 * 32

/-- MEDIA and EVT_RAW are none of the controls of EVT. -/
theorem Fld.OfEvtCtl.ne {f : Fld} (h : f.OfEvtCtl) :
    (∀ g ∈ [R.RST_PWR_STATE, R.RST_STAT_RECOVERY, R.STK_STAT_RUNNING], g.key ≠ f.key) ∧ ∀ k, (R.EVT_RAW_BITS k).key ≠ f.key := by
  have hout : ∀ g ∈ [R.RST_PWR_STATE, R.RST_STAT_RECOVERY, R.STK_STAT_RUNNING], g.key < 0x40000 * 32 ∨ 0x40100 * 32 ≤ g.key := by decide
  refine ⟨fun g hg => ?_, fun k => ?_⟩
  · have := hout g hg
    omega
  · have hraw : 0x40100 * 32 ≤ (R.EVT_RAW_BITS k).key := by simp only [Fld.key, R.EVT_RAW_BITS]; omega
    omega

/-- MEDIA is as before where of the registers only a control of EVT changes. -/
theorem Dev.media_of_evtCtl {d e : Dev} {f : Fld} (hf : f.OfEvtCtl) (hbody : e.body = d.body) (hget : ∀ g : Fld, g.key ≠ f.key → e.get g = d.get g) :
    e.media = d.media :=
  Dev.media_congr (congrArg (fun d : Dev => d.rst.mainUp) hbody :) (congrArg (fun d : Dev => d.img.active) hbody :) (fun g hg => hget g (hf.ne.1 g hg))

/-- A step that writes one control of EVT and raises just `ns`. -/
theorem State.ended_leaves_evtCtl {s : State} {w : When} {req : Requester} (hs : Ready s req) {d' : Dev} {f : Fld} {ns : List Nat} (hf : f.OfEvtCtl)
    (hget : ∀ g : Fld, g.key ≠ f.key → d'.get g = s.dev.get g) (hbody : d'.body = (s.dev.at w).body)
    (he : d'.evs.map (fun e => (e.num, e.silent)) = ns.map (fun n => (n, false))) (hns : ∀ n ∈ ns, n < 256) : Leaves s (s.ended d') w [f] ns id := by
  obtain ⟨hmedia, hraw⟩ := hf.ne
  have hmain : d'.rst.mainUp = s.dev.rst.mainUp := (congrArg (fun d : Dev => d.rst.mainUp) hbody :)
  have himg : d'.img.active = s.dev.img.active := (congrArg (fun d : Dev => d.img.active) hbody :)
  refine ⟨State.ended_keeps _ _ _ (fun g hg => hget g (hg f (by simp))), ?_, ?_⟩
  · exact State.ended_raises' _ _ _ (Dev.reach_mainUp hs.1) (fun k _ => hget _ (hraw k)) hmain himg (hget _ (hmedia _ (by simp))) (hget _ (hmedia _ (by simp)))
      (hget _ (hmedia _ (by simp))) he hns
  · unfold Does
    rw [State.ended_body, hbody]
    rfl

/-- What a write of EVT_INJECT leaves of a number that R610 gives an event: the counter, and the event. -/
def Dev.injected (d : Dev) (n : Nat) : Dev := { d.count R.EVT_INJ_CNT_COUNT with evs := [{ num := n, inj := true }] }

theorem Dev.inject_eq {d : Dev} {req : Requester} {v : Nat} (ho : d.oper req = true) (he : d.evs = []) (hr : evReserved (bits v 0 8) = false) :
    d.inject req v = d.injected (bits v 0 8) := by simp [Dev.inject, Dev.injected, ho, hr, he]

theorem Dev.inject_reserved {d : Dev} {req : Requester} {v : Nat} (ho : d.oper req = true) (hr : evReserved (bits v 0 8) = true) :
    d.inject req v = d.set R.EVT_STAT_INJ_ERR 1 := by simp [Dev.inject, ho, hr]

theorem Dev.get_injected (d : Dev) (n : Nat) {f : Fld} (h : f.key ≠ R.EVT_INJ_CNT_COUNT.key) : (d.injected n).get f = d.get f := Dev.get_count_ne d 1 h

theorem Dev.before_injected (d : Dev) (n : Nat) {f : Fld} (h : f.OfRoute) : (d.injected n).before f = d.before f := by
  have hk : R.EVT_INJ_CNT_COUNT.key < 0x40400 * 32 := by decide
  exact Dev.before_count d 1 (by omega) (by decide)

theorem Dev.thisCyc_evs_injected (d : Dev) (n : Nat) : (d.injected n).thisCyc.evs = d.thisCyc.evs := Dev.thisCyc_evs_count d 1 (by decide)

theorem Dev.pendBit_injected (d : Dev) {f : Nat → Fld} (n : Nat) (h : 0x40100 * 32 ≤ (f (n / 32)).key) : pendBit (d.injected n) f n = pendBit d f n := by
  have hk : R.EVT_INJ_CNT_COUNT.key < 0x40100 * 32 := by decide
  exact pendBit_congr (d.get_injected n (by omega))

theorem Dev.body_evs (d : Dev) (l : List Ev) : ({ d with evs := l } : Dev).body = d.body := rfl

theorem Dev.body_injected (d : Dev) (n : Nat) : (d.injected n).body = d.body := (Dev.body_evs ..).trans (Dev.body_count ..)

theorem R.evtInjCnt_ofEvtCtl : R.EVT_INJ_CNT_COUNT.OfEvtCtl := by decide
theorem R.evtInjErr_ofEvtCtl : R.EVT_STAT_INJ_ERR.OfEvtCtl := by decide

section
variable {s : State} {w : When} {req : Requester} (hs : Ready s req)
include hs

/-- An injection ends with its event, the only one of its step, at the event controller. -/
theorem State.ended_injected {n : Nat} (hn : n < 256) : (s.ended ((s.dev.at w).injected n)).dev.regs = (((s.dev.at w).injected n).raiseOne n).regs ∧
    (s.ended ((s.dev.at w).injected n)).dev.msix = (((s.dev.at w).injected n).raiseOne n).msix := by
  have hmedia : ((s.dev.at w).injected n).media = s.dev.media :=
    (Dev.media_of_evtCtl R.evtInjCnt_ofEvtCtl (Dev.body_injected ..) (fun _ => Dev.get_injected _ n)).trans (Dev.at_media ..)
  have hsettle := Dev.settle_of_injected (d := (s.dev.at w).injected n) (Dev.reach_mainUp hs.1) hn rfl
  rw [State.ended_of_media hmedia]
  dsimp only
  rw [hsettle]
  generalize ((s.dev.at w).injected n).raiseOne n = d
  exact ⟨rfl, rfl⟩

theorem State.ended_injected_get {n : Nat} (hn : n < 256) (f : Fld) :
    (s.ended ((s.dev.at w).injected n)).dev.get f = (((s.dev.at w).injected n).raiseOne n).get f :=
  congrArg (fun r => r.get f) (State.ended_injected hs hn).1

theorem evtInject_answers {v : Word} {n : Nat} (ho : (s.dev.at w).oper req = true) (hv : bits v.toNat 0 8 = n) (hr : evReserved n = false) {P : State → Prop}
    (h : P (s.ended ((s.dev.at w).injected n))) : Answers (.evtInject w req v) s P := by
  subst hv
  exact State.answers_req rfl hs.1 _ (Dev.inject_eq ho hs.2 hr) h

/-- A Reserved number sets INJ_ERR alone. -/
theorem evtInject_reserved_answers {v : Word} (ho : (s.dev.at w).oper req = true) (hr : evReserved (bits v.toNat 0 8) = true) :
    Answers (.evtInject w req v) s (fun t => t.dev.get R.EVT_STAT_INJ_ERR = 1 ∧ Leaves s t w [R.EVT_STAT_INJ_ERR] [] id ∧
      (∀ k, k < 256 → Raised t k → Raised s k)) := by
  have hget : ∀ f : Fld, f.key ≠ R.EVT_STAT_INJ_ERR.key → ((s.dev.at w).set R.EVT_STAT_INJ_ERR 1).get f = s.dev.get f :=
    fun f hf => Dev.get_set_ne _ _ hf
  have hmedia : ((s.dev.at w).set R.EVT_STAT_INJ_ERR 1).media = s.dev.media :=
    (Dev.media_of_evtCtl R.evtInjErr_ofEvtCtl (Dev.body_set ..) hget).trans (Dev.at_media ..)
  have hsettle : ((s.dev.at w).set R.EVT_STAT_INJ_ERR 1).settle = (s.dev.at w).set R.EVT_STAT_INJ_ERR 1 := Dev.settle_of_evs_nil hs.2
  refine State.answers_req rfl hs.1 _ (Dev.inject_reserved ho hr) ⟨?_, ?_, fun k _ hk => ?_⟩
  · rw [State.ended_get _ _ _ (by decide), Dev.get_set_self _ _ _ (by decide)]
    rfl
  · exact State.ended_leaves_evtCtl hs R.evtInjErr_ofEvtCtl hget (Dev.body_set ..) (congrArg _ hs.2) nofun
  · rw [State.ended_of_media hmedia, hsettle] at hk
    unfold Raised at hk ⊢
    rwa [hget _ (R.evtInjErr_ofEvtCtl.ne.2 _)] at hk

end

/-- Settles O19: the injected event is the only one of its step, writes no sump record, and so is one raise at the event controller, which leaves every field past
the pending bitmaps alone. -/
theorem injectedEventRouted : Obligations.InjectedEventRouted := by
  unfold Obligations.InjectedEventRouted
  intro s w req v n hs ho hv
  have hn : n < 256 := hv ▸ Nat.mod_lt _ (by decide)
  refine ⟨fun hr => evtInject_answers hs ho hv hr ?_, fun hr => evtInject_reserved_answers hs ho (by rwa [hv])⟩
  have hget := State.ended_injected_get (w := w) hs hn
  have hseen := (s.dev.at w).thisCyc_evs_injected n
  have htotal := Dev.raiseOne_total ((s.dev.at w).injected n) hn
  rw [hseen, Dev.get_injected _ _ (by decide), Dev.get_at] at htotal
  obtain ⟨hcores, hvec, hmsix, halert⟩ := R.evtRoute_ofRoute hn
  have hhpend := R.evtHpend_key hn
  have hapend := R.evtApend_key hn
  have hhost : pendBit ((s.dev.at w).injected n) R.EVT_HPEND_BITS n = pendBit s.dev R.EVT_HPEND_BITS n := Dev.pendBit_injected _ n (by omega)
  refine ⟨?_, fun hfirst => ⟨?_, ?_⟩, fun hmem => ?_, fun c hc => ?_, ?_, ?_, fun hroute hp => ?_, fun k hk hraised => ?_, fun f hf => ?_,
    State.ended_leaves_evtCtl hs R.evtInjCnt_ofEvtCtl (fun _ => Dev.get_injected _ n) (Dev.body_injected ..) rfl (by simpa using hn)⟩
  · rw [State.ended_get _ _ _ (by decide)]
    exact Dev.get_count_self (s.dev.at w) 1 rfl
  · exact (hget _).trans (Dev.raiseOne_last hn (hseen.trans hfirst))
  · rw [hget, htotal, hfirst]
    rfl
  · have := s.dev.get_lt R.EVT_TOTAL_COUNT
    rw [hget, htotal, if_pos (List.contains_iff_mem.mpr hmem)]
    omega
  · have hcpend := R.evtCpend_key hn hc
    rw [pendBit_congr (hget _), Dev.pendBit_raiseOne_cores hn _ hc, Dev.pendBit_injected _ n (by omega), Dev.before_injected _ n hcores]
    rfl
  · rw [pendBit_congr (hget _), Dev.pendBit_raiseOne_host hn, hhost, Dev.before_injected _ n hmsix]
  · rw [pendBit_congr (hget _), Dev.pendBit_raiseOne_alert hn, Dev.pendBit_injected _ n (by omega), Dev.before_injected _ n halert]
    rfl
  · have hdue := Dev.raiseOne_due hn ((s.dev.at w).injected n) ((Dev.before_injected _ n hmsix).trans hroute) (hhost.trans hp)
    rwa [Dev.before_injected _ n hvec, ← (State.ended_injected hs hn).2] at hdue
  · have hraw := R.evtRaw_key hk
    have hinj : R.EVT_INJ_CNT_COUNT.key < 0x40100 * 32 := by decide
    unfold Raised at hraised
    rw [hget] at hraised
    have := Dev.raiseOne_raw_only hn _ hk hraised
    rwa [Dev.get_injected _ n (by omega)] at this
  · have hkey : 0x401E0 * 32 ≤ f.key := (by decide : ∀ f ∈ [R.SUMP_STAT_FAULT, R.SUMP_STAT_FROZEN, R.SUMP_STAT_CAUSE, R.SUMP_WP_IDX], 0x401E0 * 32 ≤ f.key) f hf
    have hinj : R.EVT_INJ_CNT_COUNT.key < 0x401E0 * 32 := by decide
    rw [hget, Dev.get_raiseOne _ n (Fld.offTally_of_key (by omega)), Dev.get_deliver hn _ (.inr hkey), Dev.vecCycle_get, Dev.get_injected _ n (by omega), Dev.get_at]

end Sys2Proof.Machine
end
